-- ==== Sys2Proof/Word.lean ====
section
/-! DEFINITION. Word.lean: the bit-vector types the spec's registers have, the index types of its numbered units, and the
type of a sparse table. Byte order is little-endian and bit 0 is the least significant bit (R4). -/

namespace Sys2Proof

/-- One byte of memory, of a packet or of a payload. -/
abbrev Byte := BitVec 8
/-- A 16-bit field. -/
abbrev Half := BitVec 16
/-- A 32-bit word. -/
abbrev Word := BitVec 32
/-- A 64-bit register or instruction word. -/
abbrev Dword := BitVec 64
/-- An EV9 internal address (R81). -/
abbrev Addr := BitVec 40

/-- Core 0–63 (R119). -/
abbrev CoreId := Fin 64
/-- Thread T0–T3 (R119). -/
abbrev ThreadId := Fin 4
/-- Partition 0–7 (R341). -/
abbrev PartId := Fin 8
/-- Synsen port S0–S11 (R271). -/
abbrev PortId := Fin 12
/-- Slot 0–7 of the tray (R396). -/
abbrev TraySlot := Fin 8
/-- Tenant 0–1,023 (R300). -/
abbrev TenantId := Fin 1024
/-- Tenant ring 0–65,535 (R305). -/
abbrev RingId := Fin 65536

/-- A sparse table: index and entry pairs, indices strictly rising, no entry equal to the table's default. -/
abbrev Table (α : Type) := List (Nat × α)

/-- One byte as its bits' number. -/
def byteOf (n : Nat) : Byte := BitVec.ofNat 8 n

end Sys2Proof
end

