-- ==== Sys2Proof/Names.lean ====
section
/-! DEFINITION. Names.lean: the operand types of the commands: who sends a command, what a packet, an instruction word, a
message, a measurement or a finding carries. They are plain data. -/

namespace Sys2Proof

/-- Which of the two chips of the platform (R1). -/
inductive Chip where
  | ev9 | nw8
  deriving DecidableEq, Repr

/-- The carrier of a command packet (R312, R439). -/
inductive Carrier where
  /-- a tenant ring of the EV9 -/
  | ring (r : RingId)
  /-- the management ring of the physical function -/
  | mgmt
  /-- SMB_0 of the EV9 -/
  | smb0
  /-- the HOST port of the NW8 -/
  | nwHost
  /-- the RACK port of the NW8 -/
  | nwRack
  deriving DecidableEq, Repr

/-- The path of a register access (R8, R304, R305, R418). -/
inductive RegPath where
  /-- BAR0 of the physical function -/
  | pf
  /-- the service island acting for SMB_0 -/
  | smb0
  /-- BAR0 of tenant t's virtual function -/
  | vf (t : TenantId)
  /-- the HOST port of the NW8 -/
  | nwHost
  /-- the RACK port of the NW8 -/
  | nwRack
  deriving DecidableEq, Repr

/-- A session's role (R439). -/
inductive Role where
  | operator | installer | maker
  deriving DecidableEq, Repr

/-- A command packet: its 64 bytes (R312). -/
structure Packet where
  bytes : List Byte
  deriving DecidableEq, Repr

/-- The fields of a control word below its opcode (R186). -/
structure Ctl where
  dst : BitVec 5
  srca : BitVec 5
  srcb : BitVec 5
  pred : BitVec 3
  pinv : Bool
  mod : BitVec 5
  imm : BitVec 32
  deriving DecidableEq, Repr

/-- The fields of a two-word engine instruction below its opcode (R188). -/
structure Eng where
  d : BitVec 8
  a : BitVec 8
  b : BitVec 8
  loop : BitVec 6
  sig : Bool
  ac : BitVec 5
  fmt : BitVec 4
  mods : BitVec 16
  w1 : BitVec 64
  deriving DecidableEq, Repr

/-- The three engines of a core (R133). -/
inductive Engine where
  | matrix | vector | mover
  deriving DecidableEq, Repr

/-- The two halves of an accumulator (R110). -/
inductive Half2 where
  | A | B
  deriving DecidableEq, Repr

/-- Which handle of an engine instruction an access goes through (R188). -/
inductive HandleRole where
  | D | A | B
  deriving DecidableEq, Repr

/-- What the SEC-DED code found in the line that an access or a refresh reads (R98, R100). The index names the
16-byte word of the line, or of the row, that holds the error. -/
inductive EccFinding where
  | clean
  | single (word : Nat)
  | double (word : Nat)
  /-- an uncorrectable word that a full 128-bit write replaces in the same beat (R117) -/
  | replaced (word : Nat)
  deriving DecidableEq, Repr

/-- One line access of an engine (R147). -/
inductive LineKind where
  | read
  /-- a write of the line's bytes under the 16-byte-unit mask of R85 -/
  | write (data : List Byte) (mask : BitVec 4)
  deriving DecidableEq, Repr

/-- A scheduled item of R55, as the receiving island names it. -/
inductive Item where
  /-- a flit on a scheduled VC at a router input -/
  | flit (router : Fin 30) (input : Fin 6) (vc : Fin 4)
  /-- a read in a scheduled slot of a channel of a core -/
  | read (core : CoreId) (channel : Fin 4)
  /-- a mover arrival at a core -/
  | mover (core : CoreId)
  /-- a read in a scheduled slot of a bank of a cluster's scratch -/
  | scratch (cluster : Fin 16) (bank : Fin 16)
  /-- a host-window read of an entry chip, by core -/
  | hostWindow (core : CoreId)
  deriving DecidableEq, Repr

/-- A clock island that has a droop detector (R45, R51). -/
inductive Island where
  | core (c : CoreId)
  | cluster (k : Fin 16)
  deriving DecidableEq, Repr

/-- Whose early-arrival buffer the credits of a scheduled send belong to: the far side of a port (R66), or a partition of this chip
(R265). -/
inductive CreditOf where
  | port (n : PortId)
  | part (p : PartId)
  deriving DecidableEq, Repr

/-- The cause tag of an item: `none` when its valid bit is clear, else the code of R63. -/
abbrev Tag := Option (Fin 8)

/-- The identity that two neighbours exchange (R277). -/
structure Identity where
  troupe : BitVec 16
  position : BitVec 10
  port : BitVec 4
  strict : Bool
  level : BitVec 2
  deriving DecidableEq, Repr

/-- What training found (R273): good lanes at both ends, per-lane findings, order, polarity, generation, hop and replay. -/
structure TrainResult where
  /-- lanes good at both ends, by transmitter lane -/
  lanesGood : BitVec 8
  /-- the per-lane finding bytes of SNL_LANE_s -/
  lane : BitVec 64
  /-- the lane as which each lane of the transmitter is received -/
  order : List (Fin 8)
  polarity : BitVec 8
  /-- generation 1–3 both ends advertise -/
  gen : Fin 4
  hop : BitVec 16
  replay : BitVec 16
  deriving DecidableEq, Repr

/-- The result of firmware verification (R446, R480). -/
structure FwVerdict where
  signature : Bool
  /-- the version is at or above the fused minimum -/
  versionOk : Bool
  major : BitVec 8
  deriving DecidableEq, Repr

/-- A firmware image of the SPI NOR as the boot ROM finds it (R479, R480): its version, the major version in it, and whether its
signature verifies. -/
structure FwImage where
  version : Nat
  major : BitVec 8
  valid : Bool
  deriving DecidableEq, Repr

/-- One rail's reading at a poll: power in mW and voltage in mV; `none` when the regulator failed the poll (R366). -/
structure RailReading where
  power : BitVec 32
  volts : BitVec 16
  deriving DecidableEq, Repr

/-- What the module in a slot answered when ALERT_N was read (R405). -/
inductive AlertReport where
  | thermalTrip
  | other
  deriving DecidableEq, Repr

/-- A slot's measured current in mA and output voltage in 10 mV units (R418). -/
structure SlotReading where
  current : BitVec 16
  volts : BitVec 16
  deriving DecidableEq, Repr

/-- The NW8's readings of one second (R406, R410, R418): temperatures in 0.1 °C, flow in 10 mL/min, speeds in rpm. `none` is an open
or short NTC. -/
structure CoolantReading where
  ts : Option Int
  tr : Option Int
  flow : Int
  pumpRpm : BitVec 16
  fanRpm : List (BitVec 16)
  slots : List SlotReading
  deriving DecidableEq, Repr

/-- What a rung of the recovery ladder finds (R436). -/
inductive RungFinding where
  /-- both lines are free -/
  | freed
  /-- a line is still low -/
  | lineLow
  /-- with the switch open the NW8's own side stays low -/
  | nwLow
  deriving DecidableEq, Repr

/-- What a lamp check reads (R413). -/
inductive LampFinding where
  | good | opened | short
  deriving DecidableEq, Repr

/-- A reply of the slot's EV9 to the NW8's polls (R484): major firmware version and whether POWER_QUERY answered OK. -/
structure ModuleReply where
  major : BitVec 8
  powerOk : Bool
  deriving DecidableEq, Repr

/-- The two-wire ports of the platform (R426). -/
inductive TwPort where
  | smb0 | smb1 | nwHost | nwRack
  | down (n : TraySlot)
  deriving DecidableEq, Repr

/-- The session carriers (R439). -/
inductive SessionId where
  | pf | smb0 | nwHost | nwRack
  deriving DecidableEq, Repr

/-- Which way the signal of a port's lanes changed (R272). -/
inductive LaneSignal where
  | lost | regained
  deriving DecidableEq, Repr

/-- The two sleep states of a port (R285). -/
inductive SleepState where
  | ls1 | ls2
  deriving DecidableEq, Repr

/-- What the self-test of one core's banks found (R482): tier rows failing in the worst bank and in all banks, and
whether its operand buffer or its cluster's scratch failed. -/
structure SelfTest where
  core : CoreId
  /-- failing rows of each tier bank that has any -/
  rows : List Nat
  obuf : Bool
  scratch : Bool
  deriving DecidableEq, Repr

/-- What a codeword brings on a port: a flit's bytes, and whether FEC has corrected the codeword (R280). -/
structure Carried where
  bytes : List Byte
  corrected : Bool
  deriving DecidableEq, Repr

/-- A JTAG boundary operation's chip and the data shifted in. -/
abbrev Boundary := BitVec 256

end Sys2Proof
end

