-- ==== Sys2Proof/Syntax.lean ====
section
/-! DEFINITION. Syntax.lean: the commands, one constructor per row of spec/opcode_table.json, in the table's order.
A command is the occurrence of one step of the part (spec file 95): its operands are what the step takes from outside the
state (the carrier and its packet, the instruction word a thread issues, a message, a reading). -/

namespace Sys2Proof

/-- The commands of the EV9 platform. -/
inductive Instr where
  -- runtime packets (R318)
  | nop (via : Carrier) (pkt : Packet)
  | fence (via : Carrier) (pkt : Packet)
  | imageLoad (via : Carrier) (pkt : Packet)
  /-- `img` holds the bytes of the image as they arrived from host memory -/
  | imageLoadComplete (troupe : BitVec 16) (img : List Byte)
  | imageVerify (via : Carrier) (pkt : Packet)
  | imageStart (via : Carrier) (pkt : Packet)
  | imageStop (via : Carrier) (pkt : Packet)
  | stepRerun (via : Carrier) (pkt : Packet)
  | streamOpen (via : Carrier) (pkt : Packet)
  | streamFeed (via : Carrier) (pkt : Packet)
  | streamCollectBind (via : Carrier) (pkt : Packet)
  | streamCollectWait (via : Carrier) (pkt : Packet)
  | streamClose (via : Carrier) (pkt : Packet)
  | copyIn (via : Carrier) (pkt : Packet)
  | copyOut (via : Carrier) (pkt : Packet)
  /-- the copy with this tag on this carrier; `data` are the host-memory bytes of a COPY_IN, `poisoned` the 16-byte words
  of them that arrived poisoned -/
  | copyComplete (via : Carrier) (tag : BitVec 16) (data : List Byte) (poisoned : List Nat)
  | queryStatus (via : Carrier) (pkt : Packet)
  -- management packets (R445, R446)
  | identify (via : Carrier) (pkt : Packet)
  | roleChallenge (via : Carrier) (pkt : Packet)
  | roleElevate (via : Carrier) (pkt : Packet)
  | roleDrop (via : Carrier) (pkt : Packet)
  | setModeStrict (via : Carrier) (pkt : Packet)
  | setModeInstallerKey (via : Carrier) (pkt : Packet)
  | partitionEnable (via : Carrier) (pkt : Packet)
  | partitionDisableDrain (via : Carrier) (pkt : Packet)
  | partitionDisableFence (via : Carrier) (pkt : Packet)
  | partitionQuery (via : Carrier) (pkt : Packet)
  | troupeJoin (via : Carrier) (pkt : Packet)
  | troupeLeave (via : Carrier) (pkt : Packet)
  | linkConfig (via : Carrier) (pkt : Packet)
  | linkQuery (via : Carrier) (pkt : Packet)
  | powerCapSet (via : Carrier) (pkt : Packet)
  | powerCapSetHostCap (via : Carrier) (pkt : Packet)
  | powerCapSetBudget (via : Carrier) (pkt : Packet)
  | powerCapSetShed (via : Carrier) (pkt : Packet)
  | powerCapSetCeiling (via : Carrier) (pkt : Packet)
  | powerQuery (via : Carrier) (pkt : Packet)
  | thermalQuery (via : Carrier) (pkt : Packet)
  | logRead (via : Carrier) (pkt : Packet)
  | debugUnlock (via : Carrier) (pkt : Packet)
  | fwUpdateBegin (via : Carrier) (pkt : Packet)
  | fwUpdateData (via : Carrier) (pkt : Packet)
  | fwUpdateCommit (via : Carrier) (pkt : Packet)
  | fwUpdateAbort (via : Carrier) (pkt : Packet)
  | fwUpdateImage (via : Carrier) (pkt : Packet)
  | fwUpdateComplete (chip : Chip) (verdict : FwVerdict)
  | slotPowerOn (via : Carrier) (pkt : Packet)
  | slotPowerOff (via : Carrier) (pkt : Packet)
  | slotPowerWithdraw (via : Carrier) (pkt : Packet)
  | slotSwap (via : Carrier) (pkt : Packet)
  | lampSet (via : Carrier) (pkt : Packet)
  | locate (via : Carrier) (pkt : Packet)
  /-- slot 0–7, or 8 for the tray -/
  | locateExpiry (which : Fin 9)
  | coolantQuery (via : Carrier) (pkt : Packet)
  -- control instructions (R191), issued by thread t of core c
  | controlNop (c : CoreId) (t : ThreadId) (w : Ctl)
  | halt (c : CoreId) (t : ThreadId) (w : Ctl)
  | add (c : CoreId) (t : ThreadId) (w : Ctl)
  | sub (c : CoreId) (t : ThreadId) (w : Ctl)
  | mul (c : CoreId) (t : ThreadId) (w : Ctl)
  | and (c : CoreId) (t : ThreadId) (w : Ctl)
  | or (c : CoreId) (t : ThreadId) (w : Ctl)
  | xor (c : CoreId) (t : ThreadId) (w : Ctl)
  | shl (c : CoreId) (t : ThreadId) (w : Ctl)
  | shr (c : CoreId) (t : ThreadId) (w : Ctl)
  | sra (c : CoreId) (t : ThreadId) (w : Ctl)
  | min (c : CoreId) (t : ThreadId) (w : Ctl)
  | max (c : CoreId) (t : ThreadId) (w : Ctl)
  | movhi (c : CoreId) (t : ThreadId) (w : Ctl)
  | cmp (c : CoreId) (t : ThreadId) (w : Ctl)
  | plog (c : CoreId) (t : ThreadId) (w : Ctl)
  | sel (c : CoreId) (t : ThreadId) (w : Ctl)
  | mova (c : CoreId) (t : ThreadId) (w : Ctl)
  | adda (c : CoreId) (t : ThreadId) (w : Ctl)
  | rda (c : CoreId) (t : ThreadId) (w : Ctl)
  | ld (c : CoreId) (t : ThreadId) (w : Ctl)
  | st (c : CoreId) (t : ThreadId) (w : Ctl)
  | satom (c : CoreId) (t : ThreadId) (w : Ctl)
  | br (c : CoreId) (t : ThreadId) (w : Ctl)
  | loop (c : CoreId) (t : ThreadId) (w : Ctl)
  | signal (c : CoreId) (t : ThreadId) (w : Ctl)
  | wait (c : CoreId) (t : ThreadId) (w : Ctl)
  | expect (c : CoreId) (t : ThreadId) (w : Ctl)
  | timer (c : CoreId) (t : ThreadId) (w : Ctl)
  | rdac (c : CoreId) (t : ThreadId) (w : Ctl)
  | dset (c : CoreId) (t : ThreadId) (w : Ctl)
  | lset (c : CoreId) (t : ThreadId) (w : Ctl)
  | dget (c : CoreId) (t : ThreadId) (w : Ctl)
  | setvl (c : CoreId) (t : ThreadId) (w : Ctl)
  | rdsys (c : CoreId) (t : ThreadId) (w : Ctl)
  -- engine instructions, enqueued by thread t of core c
  | mm (c : CoreId) (t : ThreadId) (w : Eng)
  | mdrain (c : CoreId) (t : ThreadId) (w : Eng)
  | mclear (c : CoreId) (t : ThreadId) (w : Eng)
  | mvCopy (c : CoreId) (t : ThreadId) (w : Eng)
  | mvRed (c : CoreId) (t : ThreadId) (w : Eng)
  | mvSend (c : CoreId) (t : ThreadId) (w : Eng)
  | mvFill (c : CoreId) (t : ThreadId) (w : Eng)
  | ballast (c : CoreId) (t : ThreadId) (w : Eng)
  | engineFence (c : CoreId) (t : ThreadId) (w : Eng)
  | sync (c : CoreId) (t : ThreadId) (w : Eng)
  | vld (c : CoreId) (t : ThreadId) (w : Eng)
  | vst (c : CoreId) (t : ThreadId) (w : Eng)
  | vred (c : CoreId) (t : ThreadId) (w : Eng)
  | vrdacc (c : CoreId) (t : ThreadId) (w : Eng)
  | vwracc (c : CoreId) (t : ThreadId) (w : Eng)
  | vadd (c : CoreId) (t : ThreadId) (w : Eng)
  | vsub (c : CoreId) (t : ThreadId) (w : Eng)
  | vmul (c : CoreId) (t : ThreadId) (w : Eng)
  | vfma (c : CoreId) (t : ThreadId) (w : Eng)
  | vmax (c : CoreId) (t : ThreadId) (w : Eng)
  | vmin (c : CoreId) (t : ThreadId) (w : Eng)
  | vlog (c : CoreId) (t : ThreadId) (w : Eng)
  | vfn (c : CoreId) (t : ThreadId) (w : Eng)
  | vcvt (c : CoreId) (t : ThreadId) (w : Eng)
  | vmov (c : CoreId) (t : ThreadId) (w : Eng)
  | vidx (c : CoreId) (t : ThreadId) (w : Eng)
  | vreduce (c : CoreId) (t : ThreadId) (w : Eng)
  | vcmp (c : CoreId) (t : ThreadId) (w : Eng)
  | vmlog (c : CoreId) (t : ThreadId) (w : Eng)
  -- matrix events
  | matrixTileStart (c : CoreId)
  | matrixTileEnd (c : CoreId)
  | drainStart (c : CoreId) (h : Half2)
  | drainCompare (c : CoreId) (h : Half2)
  | retryCurlFreeze (c : CoreId)
  | abftRetryReplay (c : CoreId)
  | abftInjectArm (path : RegPath) (c : CoreId) (value : Dword)
  -- mover events
  | moverIterationStart (c : CoreId)
  | moverIterationComplete (c : CoreId)
  /-- this flit, which came into the chip on `port` (none: from a core of this chip), has come over the crossing from the router's
  local output to core c -/
  | flitArrivalWrite (c : CoreId) (port : Option PortId) (hdr : Dword) (payload : List Byte)
  -- vector events
  | vectorInsnStart (c : CoreId)
  | vectorPass (c : CoreId)
  | vectorInsnComplete (c : CoreId)
  | fenceComplete (c : CoreId)
  | asuLineAccess (c : CoreId) (e : Engine) (r : HandleRole) (line : Addr) (kind : LineKind) (ecc : EccFinding)
  | timerExpiry (c : CoreId) (i : Fin 8)
  | waitlock (c : CoreId)
  | waitstall (c : CoreId) (t : ThreadId)
  -- curls
  | dueCheck (p : PartId) (item : Item) (present : Bool)
  | curlFreeze (p : PartId)
  /-- the item that was due in beat `due` arrives; `tag` is the tag of a mover arrival, which no flit of the state carries -/
  | itemArrival (p : PartId) (item : Item) (due : Nat) (tag : Tag)
  /-- the group resumes `beats` schedule beats after the last of what it lacked has come -/
  | curlResume (p : PartId) (beats : Nat)
  | curlTimeout (p : PartId)
  | creditCurl (p : PartId) (of : CreditOf) (vc : Fin 4)
  | cueWaitCurl (troupe : BitVec 16)
  /-- the island's VDD_CORE is `mv` mV below the setpoint -/
  | droopChange (i : Island) (mv : Nat)
  | droopStopEnd (p : PartId)
  | trclkLoss
  | trclkReturn
  | glideComplete (p : PartId)
  | curlClear (path : RegPath) (p : PartId) (value : Dword)
  | curlLimitWrite (path : RegPath) (value : Dword)
  | counterHalfRead (path : RegPath) (offset : BitVec 26)
  -- troupe events
  | stepEnd (troupe : BitVec 16)
  /-- a cue's 16 bytes on a port; `corrected`: FEC has corrected their codeword -/
  | cueArrival (port : PortId) (cue : List Byte) (corrected : Bool)
  | readyReceive (port : PortId) (troupe : BitVec 16) (position : BitVec 16) (pace : Fin 8)
  | paceRequestReceive (port : PortId) (troupe : BitVec 16) (position : BitVec 16) (pace : Fin 8) (brake : Bool) (stepNo : BitVec 48)
  | prepareNoticeReceive (port : PortId) (troupe : BitVec 16) (pace : Fin 8) (stepNo : BitVec 48)
  | prepareExpiry (troupe : BitVec 16)
  | stopForwardReceive (port : PortId) (troupe : BitVec 16) (position : BitVec 16)
  | admitCountReceive (port : PortId) (troupe : BitVec 16) (position : BitVec 16) (count : Nat)
  | unknownControlMessage (port : PortId) (type : Byte)
  | admissionCut (troupe : BitVec 16)
  | feedFetchComplete (troupe : BitVec 16) (lane : Fin 512) (record : List Byte)
  -- refresh
  | refreshStart (c : CoreId) (ch : Fin 4) (bank : Fin 16)
  | forcedRefresh (c : CoreId) (ch : Fin 4) (bank : Fin 16)
  | refreshComplete (c : CoreId) (ch : Fin 4) (bank : Fin 16) (ecc : EccFinding)
  | carouselWindowStart (c : CoreId)
  | bandFall
  | bandFloorWrite (path : RegPath) (value : Dword)
  -- BAR2
  | bar2Read (offset : BitVec 32) (len : Nat) (ecc : EccFinding)
  | bar2Write (offset : BitVec 32) (data : List Byte)
  -- Synsen links
  | flitArrival (port : PortId) (hdr : Dword) (payload : Carried)
  | creditReturnReceive (port : PortId) (vc : Fin 4) (n : Nat)
  | snlCfgWrite (path : RegPath) (port : PortId) (value : Dword)
  | snlCfgRetrain (path : RegPath) (port : PortId)
  | laneSignalChange (port : PortId) (sig : LaneSignal)
  | trainingComplete (port : PortId) (r : TrainResult)
  | trainingFail (port : PortId)
  | identityReceive (port : PortId) (id : Identity)
  | troupeJoinTimeout (troupe : BitVec 16)
  /-- the codeword with this number is uncorrectable -/
  | codewordUncorrectable (port : PortId) (codeword : Nat)
  | replayRequestReceive (port : PortId)
  | sleepReqReceive (port : PortId) (ls : SleepState)
  | sleepAckReceive (port : PortId)
  | sleepNakReceive (port : PortId)
  | sleepCancelReceive (port : PortId)
  | wakeSignalReceive (port : PortId)
  | autoSleepIdle (port : PortId)
  | snlPmReqLs1 (path : RegPath) (port : PortId)
  | snlPmReqLs2 (path : RegPath) (port : PortId)
  | snlPmWake (path : RegPath) (port : PortId)
  /-- `laneFailed`: a lane failed while the port slept; `waited`: the beats that flits have waited for the wake -/
  | wakeComplete (port : PortId) (laneFailed : Bool) (waited : Nat)
  -- rings and functions
  /-- a write of RING_SQ_TAIL_r; `entries` are the packets then found in the submission ring from head to tail -/
  | doorbell (path : RegPath) (ring : Fin 65537) (tail : Dword) (entries : List Packet)
  | cqHeadWrite (path : RegPath) (ring : Fin 65537) (value : Dword)
  | ringEnable (path : RegPath) (ring : Fin 65537) (value : Dword)
  | ringDisable (path : RegPath) (ring : Fin 65537) (value : Dword)
  /-- function 0 is the physical function, function t + 1 tenant t -/
  | functionLevelReset (f : Fin 1025)
  | hostReset
  | perstNRelease
  | vfEnable (num : Nat)
  | vfDisable
  -- partitions
  | enableComplete (p : PartId)
  | drainComplete (p : PartId)
  | drainTimeout (p : PartId)
  /-- `lost` best-effort flits in places inside the fenced routers and `spent` credits of the adjoining peers -/
  | fenceTakesEffect (p : PartId) (lost : Nat) (spent : Nat)
  | fenceResetComplete (p : PartId)
  | partitionStuck (p : PartId)
  -- power and temperature
  /-- the six measured rails in R365's order -/
  | railPoll (rails : List (Option RailReading))
  | governorEvaluation
  | flatWindowEnd
  | brakePin
  | brakePinRelease
  | thermalBrakeRelease
  /-- the 82 sensor readings in °C -/
  | thermalSample (readings : List Int)
  | vddCoreRiseReached
  -- NW8 hardware
  /-- ADDR straps and the ten VSEL straps, upstream ports first -/
  | vauxPowerUp (addr : BitVec 2) (vsel : BitVec 10)
  | inrushStart (n : TraySlot) (busMv : Nat)
  | powerGood (n : TraySlot)
  | inrushTimeout (n : TraySlot)
  | slotResetRelease (n : TraySlot)
  | dischargeComplete (n : TraySlot)
  | dischargeFail (n : TraySlot)
  | busSag (busMv : Nat)
  | busRecover (busMv : Nat)
  | busUndervoltage (busMv : Nat)
  | retryTimerExpiry (n : TraySlot) (busMv : Nat)
  /-- peak current in 10 mA and di/dt in A/µs before the trip -/
  | shortTrip (n : TraySlot) (peak : Nat) (didt : Nat)
  | breakerTrip (n : TraySlot)
  | reversedOutput (n : TraySlot)
  | reverseCleared (n : TraySlot)
  | surpriseRemoval (n : TraySlot)
  | removalLatchClear (n : TraySlot)
  | openDetect (n : TraySlot)
  | feedReversed
  | slotAlert (n : TraySlot) (report : AlertReport)
  | alertReplyTimeout (n : TraySlot) (milliamps : Nat)
  | coolantSample (r : CoolantReading)
  | flowReversalFinding
  | leakDetect
  | coolantLatchDelay
  | coolantEmergencyEnd
  | pumpFault
  | fanFault (f : Fin 4)
  | lampCheck (l : Fin 20) (finding : LampFinding)
  | watchdogKick (path : RegPath)
  | watchdogExpiry
  | adopt (path : RegPath)
  | autonomousEntry
  | slotIsolateWrite (path : RegPath) (n : TraySlot) (value : Word)
  | capReplyTimeout (n : TraySlot)
  | shedBrakeRelease (n : TraySlot) (watts : Nat)
  /-- whether PRSNT_N is low, and the states of the eight partitions that the slot's EV9 reported -/
  | swapPoll (n : TraySlot) (present : Bool) (states : List Nat)
  | swapStage1Timeout (n : TraySlot)
  | slotIdentifyPoll (n : TraySlot) (reply : Option ModuleReply)
  | selfCheckTimeout (n : TraySlot)
  -- two-wire ports and sessions
  | smbusReplyFetch (port : TwPort)
  | smbusReplyReread (port : TwPort)
  /-- a write of 4 or 8 bytes -/
  | registerWrite (path : RegPath) (offset : BitVec 26) (wide : Bool) (value : Dword)
  /-- the word, and the audit entries that the NW8 then reads from the module, 32 bytes each -/
  | hostNotifyReceive (n : TraySlot) (word : BitVec 16) (entries : List (List Byte))
  | hostNotifyRepeat (port : TwPort)
  | sclLowTimeout (port : TwPort)
  | sdaLowTimeout (port : TwPort)
  | stretchTimeout (port : TwPort)
  | arbitrationLoss (port : TwPort) (addressed : Bool)
  | recoveryRung (n : TraySlot) (f : RungFinding)
  | sessionTimeout (sid : SessionId)
  | lockoutEnd (sid : SessionId)
  | nonceExpiry (sid : SessionId)
  -- JTAG and the peek mux
  | tapReset (chip : Chip)
  | extest (chip : Chip) (data : Boundary)
  | idcode (chip : Chip)
  | samplePreload (chip : Chip) (data : Boundary)
  | clamp (chip : Chip)
  | highz (chip : Chip)
  | extestPulse (chip : Chip) (data : Boundary)
  | extestTrain (chip : Chip) (data : Boundary)
  | bypass (chip : Chip)
  | dbgSelect (value : BitVec 16)
  | dbgObsSelWrite (path : RegPath) (n : Fin 8) (value : Dword)
  | holdPeekWrite (path : RegPath) (n : Fin 2) (value : Word)
  | factoryNChange (chip : Chip) (high : Bool)
  | vddIoLoss
  -- resets and boot
  | powerOnReset
  | chipReset
  | serviceWatchdogExpiry
  /-- the SLOT_ID straps at the rising edge of RESET_N -/
  | bootStart (slotId : BitVec 3)
  /-- the two firmware images of the SPI NOR -/
  | firmwareSelect (first : FwImage) (second : FwImage)
  | railUp
  | edgeFllLock
  | tierSelfTestComplete (findings : List SelfTest)
  | ballastComplete (c : CoreId) (e : Engine)
  | carouselWindowEnd (c : CoreId)
  | railStartFail
  | pcieLinkUp (rate : Fin 3) (width : Fin 3) (reversed : Bool)
  | vddStbyRemoved
  | feedReversedClear
  | openFlagClear (n : TraySlot)
  | nw8FirmwareRunning
  deriving DecidableEq, Repr

end Sys2Proof
end

