-- ==== Sys2Proof/WellFormed.lean ====
section
/-! DEFINITION. WellFormed.lean: which commands a carrier can deliver. For the core instructions these are the static
checks of R190, R191 and R226, which IMAGE_LOAD also makes on instruction streams; for a packet it is the length of R312;
for a message or a reading its length and range. -/

namespace Sys2Proof

/-- What a five-bit register field of a control word names. -/
inductive FieldKind where
  | none | gpr | areg | preg | counter
  deriving DecidableEq, Repr

/-- R187: a field that names an address register has bit 4 zero, one that names a predicate bits [4:3]; a field that an
instruction does not use is reserved and zero. -/
def FieldKind.ok (k : FieldKind) (f : BitVec 5) : Bool :=
  match k with
  | .none => f == 0
  | .gpr => true
  | .areg => !f.getLsbD 4
  | .preg => f.toNat < 8
  | .counter => true

/-- The fields that a control instruction uses: registers, whether bit I is allowed, its modifier bits and its immediate
bits (R191). -/
structure CtlShape where
  dst : FieldKind
  srca : FieldKind
  srcb : FieldKind
  imm5 : Bool
  modMask : BitVec 5
  immMask : BitVec 32
  deriving DecidableEq, Repr

/-- The shape of a two-operand arithmetic instruction with bit I allowed. -/
def CtlShape.alu (modMask : BitVec 5) : CtlShape := ⟨.gpr, .gpr, .gpr, true, modMask, 0⟩

/-- The control opcodes of R191 and their shapes; every other value below 0xC0 is undefined. -/
def ctlShape (op : Nat) : Option CtlShape :=
  match op with
  | 0x00 | 0x01 => some ⟨.none, .none, .none, false, 0, 0⟩
  | 0x08 | 0x09 | 0x0A | 0x0B | 0x0C | 0x0D | 0x0E | 0x0F | 0x10 => some (CtlShape.alu 0)
  | 0x11 | 0x12 => some (CtlShape.alu 1)
  | 0x13 => some ⟨.gpr, .gpr, .none, false, 0, 0xFFFFFFFF⟩
  | 0x18 => some ⟨.preg, .gpr, .gpr, true, 7, 0⟩
  | 0x19 => some ⟨.preg, .preg, .preg, false, 3, 0⟩
  | 0x1A => some (CtlShape.alu 7)
  | 0x20 => some ⟨.areg, .gpr, .none, false, 0, 0⟩
  | 0x21 => some ⟨.areg, .areg, .gpr, true, 0, 0⟩
  | 0x22 => some ⟨.gpr, .areg, .none, false, 0, 0⟩
  | 0x28 => some ⟨.gpr, .areg, .none, false, 0, 0xFFFFFFFF⟩
  | 0x29 => some ⟨.none, .areg, .gpr, false, 0, 0xFFFFFFFF⟩
  | 0x2A => some ⟨.gpr, .areg, .gpr, false, 15, 0xFFFFFFFF⟩
  | 0x30 => some ⟨.none, .none, .none, false, 0, 0x1FFF⟩
  | 0x31 => some ⟨.gpr, .none, .none, false, 0, 0x1FFF⟩
  | 0x38 | 0x39 | 0x3A => some ⟨.counter, .none, .none, false, 0, 0xFFFF⟩
  | 0x3B => some ⟨.counter, .none, .none, false, 7, 0xFFFFFFFF⟩
  | 0x3C => some ⟨.gpr, .counter, .none, false, 0, 0⟩
  | 0x40 => some ⟨.none, .gpr, .none, false, 3, 0xFF⟩
  | 0x41 => some ⟨.none, .gpr, .none, false, 7, 0x3F⟩
  | 0x42 => some ⟨.gpr, .none, .none, false, 3, 0xFF⟩
  | 0x48 => some ⟨.gpr, .gpr, .none, true, 1, 0⟩
  | 0x50 => some ⟨.gpr, .none, .none, false, 7, 0⟩
  | _ => none

/-- Bit I of a control word (R186). -/
def Ctl.immBit (w : Ctl) : Bool := w.mod.getLsbD 4

/-- The field values that R191's table marks invalid. -/
def ctlValuesOk (op : Nat) (w : Ctl) : Bool :=
  match op with
  | 0x18 => (w.mod &&& 7).toNat < 6
  | 0x2A => (w.mod &&& 3) != 3 && ((w.mod >>> 2) &&& 3) != 3
  | 0x31 => w.dst != 0
  | 0x38 | 0x3A | 0x3B => w.imm != 0
  | 0x50 => (w.mod &&& 7).toNat < 5
  | _ => true

/-- The static checks of R190 on a control word with opcode `op`. With bit I set the register field that the immediate
replaces is unused and zero, with it clear the immediate is (DEDUCED, log 7). SETVL's immediate replaces srca. -/
def ctlOk (op : Nat) (w : Ctl) : Bool :=
  match ctlShape op with
  | none => false
  | some sh =>
    let i := sh.imm5 && w.immBit
    let ka := if i && op == 0x48 then FieldKind.none else sh.srca
    let kb := if i && op != 0x48 then FieldKind.none else sh.srcb
    let im := if i then 0xFFFFFFFF else sh.immMask
    let mm := if sh.imm5 then sh.modMask ||| 16 else sh.modMask
    sh.dst.ok w.dst && ka.ok w.srca && kb.ok w.srcb && (w.mod &&& ~~~mm) == 0 && (w.imm &&& ~~~im) == 0
      && ctlValuesOk op w

/-- Bits [hi:lo] of a 64-bit word as a number. -/
def dbits (x : Dword) (hi lo : Nat) : Nat := (x.extractLsb hi lo).toNat

/-- The engine field of a vector instruction's handles D, A and B (R241). -/
inductive VField where
  | v | m | h | none
  deriving DecidableEq, Repr

/-- R226: a vector register field holds 0–31, a mask register field 0–7, an unused field 0. -/
def VField.ok (k : VField) (f : BitVec 8) : Bool :=
  match k with
  | .v => f.toNat < 32
  | .m => f.toNat < 8
  | .h => true
  | .none => f == 0

/-- A row of R241: fields, formats, number of sub-operations, rounding and scalar allowed. -/
structure VecShape where
  d : VField
  a : VField
  b : VField
  formats : List Nat
  fns : Nat
  rounds : Bool
  scalar : Bool
  deriving DecidableEq, Repr

/-- The formats 0x0, 0x1, 0x2 and 0x9 of R227. -/
def vecAllFormats : List Nat := [0, 1, 2, 9]

/-- The vector opcodes of R241. -/
def vecShape (op : Nat) : Option VecShape :=
  match op with
  | 0xE0 => some ⟨.v, .h, .none, vecAllFormats, 1, true, false⟩
  | 0xE1 => some ⟨.h, .v, .none, vecAllFormats, 1, true, false⟩
  | 0xE2 => some ⟨.h, .v, .none, [0, 1, 9], 3, false, false⟩
  | 0xE3 => some ⟨.v, .none, .none, [0], 1, false, false⟩
  | 0xE4 => some ⟨.none, .v, .none, [0], 1, false, false⟩
  | 0xE8 | 0xE9 | 0xEA | 0xEB => some ⟨.v, .v, .v, vecAllFormats, 1, true, true⟩
  | 0xEC | 0xED => some ⟨.v, .v, .v, vecAllFormats, 1, false, true⟩
  | 0xEE => some ⟨.v, .v, .v, [9], 6, false, true⟩
  | 0xEF => some ⟨.v, .v, .none, [0, 1, 2], 8, false, false⟩
  | 0xF0 => some ⟨.v, .v, .none, vecAllFormats, 1, true, false⟩
  | 0xF1 => some ⟨.v, .v, .none, vecAllFormats, 1, false, true⟩
  | 0xF2 => some ⟨.v, .none, .none, [9], 1, false, false⟩
  | 0xF3 => some ⟨.v, .v, .none, vecAllFormats, 3, true, false⟩
  | 0xF4 => some ⟨.m, .v, .v, vecAllFormats, 6, false, true⟩
  | 0xF5 => some ⟨.m, .m, .m, [0], 4, false, false⟩
  | _ => none

/-- The field checks of a vector instruction (R226, R227, R241). `entropy` says that the image's mode byte has bit 3 set. -/
def vecOk (entropy : Bool) (op : Nat) (w : Eng) : Bool :=
  match vecShape op with
  | none => false
  | some sh =>
    let sb := w.mods.getLsbD 7
    let rnd := ((w.mods >>> 4) &&& 3).toNat
    let kA := if sb && op == 0xF1 then VField.none else sh.a
    let kB := if sb then VField.none else sh.b
    let scalar := dbits w.w1 31 0
    sh.d.ok w.d && kA.ok w.a && kB.ok w.b && w.loop == 0
      && (w.mods &&& 0xFF40) == 0
      && (!sb || sh.scalar)
      && (rnd == 0 || (sh.rounds && w.fmt != 9))
      && (rnd != 3 || entropy)
      && (!(op == 0xE3 || op == 0xE4 || op == 0xF2 || op == 0xF5) || (w.mods &&& 7) == 0)
      && (!(op == 0xE2 || op == 0xE4) || !w.mods.getLsbD 3)
      && (!(op == 0xF4 || op == 0xF5) || w.d != 0)
      && sh.formats.contains w.fmt.toNat
      && dbits w.w1 63 49 == 0
      && (op == 0xE3 || op == 0xE4 || dbits w.w1 48 41 == 0)
      && (op == 0xE1 || dbits w.w1 40 40 == 0)
      && (if op == 0xF0 then vecAllFormats.contains (dbits w.w1 39 36) else dbits w.w1 39 36 == 0)
      && dbits w.w1 35 32 < sh.fns
      && (sb || scalar == 0)
      && (!(sb && (w.fmt == 1 || w.fmt == 2)) || scalar < 65536)

/-- The field checks of a matrix, mover, ballast or fence instruction (R197, R198, R204, R206, R211–R213). -/
def engOk (op : Nat) (w : Eng) : Bool :=
  match op with
  | 0xC0 => w.mods == 0 && w.fmt.toNat < 10 && dbits w.w1 63 7 == 0 && dbits w.w1 3 1 < 5
  | 0xC1 => w.mods == 0 && w.fmt.toNat < 10 && dbits w.w1 63 1 == 0 && w.a == 0 && w.b == 0 && w.loop == 0
  | 0xC2 => w.mods == 0 && w.fmt.toNat < 10 && dbits w.w1 63 1 == 0 && w.d == 0 && w.a == 0 && w.b == 0 && w.loop == 0
  | 0xD0 => (w.mods &&& 0xFFFE) == 0 && w.fmt == 0 && w.b == 0 && w.w1 == 0
  | 0xD1 => (w.mods &&& 0xFFF8) == 0 && ((w.mods >>> 1) &&& 3) != 3 && (w.fmt == 0 || w.fmt == 1 || w.fmt == 9)
      && w.b == 0 && w.w1 == 0
  | 0xD2 => w.mods == 0 && w.fmt == 0 && w.d == 0 && w.b == 0 && dbits w.w1 63 33 == 0 && dbits w.w1 32 30 != 7
  | 0xD3 => (w.mods &&& 0xFFFE) == 0 && w.fmt == 0 && w.a == 0 && w.b == 0 && dbits w.w1 63 32 == 0
  | 0xFC => w.d == 0 && w.a == 0 && w.b == 0 && w.fmt == 0 && w.mods == 0 && dbits w.w1 63 38 == 0
      && dbits w.w1 37 36 != 3 && 1 ≤ dbits w.w1 31 0 && dbits w.w1 31 0 ≤ 1048576
  | 0xFD => dbits w.w1 63 3 == 0 && dbits w.w1 2 0 != 0
  | 0xFE => w.d == 0 && w.a == 0 && w.b == 0 && w.fmt == 0 && w.mods == 0 && w.loop == 0 && dbits w.w1 63 3 == 0
      && dbits w.w1 2 0 != 0 && !w.sig
  | _ => false

/-- The opcode and fields of a control instruction (R191); `none` for every other command. -/
def Instr.ctl? : Instr → Option (Nat × CoreId × ThreadId × Ctl)
  | .controlNop c t w => some (0x00, c, t, w)
  | .halt c t w => some (0x01, c, t, w)
  | .add c t w => some (0x08, c, t, w)
  | .sub c t w => some (0x09, c, t, w)
  | .mul c t w => some (0x0A, c, t, w)
  | .and c t w => some (0x0B, c, t, w)
  | .or c t w => some (0x0C, c, t, w)
  | .xor c t w => some (0x0D, c, t, w)
  | .shl c t w => some (0x0E, c, t, w)
  | .shr c t w => some (0x0F, c, t, w)
  | .sra c t w => some (0x10, c, t, w)
  | .min c t w => some (0x11, c, t, w)
  | .max c t w => some (0x12, c, t, w)
  | .movhi c t w => some (0x13, c, t, w)
  | .cmp c t w => some (0x18, c, t, w)
  | .plog c t w => some (0x19, c, t, w)
  | .sel c t w => some (0x1A, c, t, w)
  | .mova c t w => some (0x20, c, t, w)
  | .adda c t w => some (0x21, c, t, w)
  | .rda c t w => some (0x22, c, t, w)
  | .ld c t w => some (0x28, c, t, w)
  | .st c t w => some (0x29, c, t, w)
  | .satom c t w => some (0x2A, c, t, w)
  | .br c t w => some (0x30, c, t, w)
  | .loop c t w => some (0x31, c, t, w)
  | .signal c t w => some (0x38, c, t, w)
  | .wait c t w => some (0x39, c, t, w)
  | .expect c t w => some (0x3A, c, t, w)
  | .timer c t w => some (0x3B, c, t, w)
  | .rdac c t w => some (0x3C, c, t, w)
  | .dset c t w => some (0x40, c, t, w)
  | .lset c t w => some (0x41, c, t, w)
  | .dget c t w => some (0x42, c, t, w)
  | .setvl c t w => some (0x48, c, t, w)
  | .rdsys c t w => some (0x50, c, t, w)
  | _ => none

/-- The opcode and fields of an engine instruction (R197, R204, R211–R213, R241); `none` for every other command. -/
def Instr.eng? : Instr → Option (Nat × CoreId × ThreadId × Eng)
  | .mm c t w => some (0xC0, c, t, w)
  | .mdrain c t w => some (0xC1, c, t, w)
  | .mclear c t w => some (0xC2, c, t, w)
  | .mvCopy c t w => some (0xD0, c, t, w)
  | .mvRed c t w => some (0xD1, c, t, w)
  | .mvSend c t w => some (0xD2, c, t, w)
  | .mvFill c t w => some (0xD3, c, t, w)
  | .ballast c t w => some (0xFC, c, t, w)
  | .engineFence c t w => some (0xFD, c, t, w)
  | .sync c t w => some (0xFE, c, t, w)
  | .vld c t w => some (0xE0, c, t, w)
  | .vst c t w => some (0xE1, c, t, w)
  | .vred c t w => some (0xE2, c, t, w)
  | .vrdacc c t w => some (0xE3, c, t, w)
  | .vwracc c t w => some (0xE4, c, t, w)
  | .vadd c t w => some (0xE8, c, t, w)
  | .vsub c t w => some (0xE9, c, t, w)
  | .vmul c t w => some (0xEA, c, t, w)
  | .vfma c t w => some (0xEB, c, t, w)
  | .vmax c t w => some (0xEC, c, t, w)
  | .vmin c t w => some (0xED, c, t, w)
  | .vlog c t w => some (0xEE, c, t, w)
  | .vfn c t w => some (0xEF, c, t, w)
  | .vcvt c t w => some (0xF0, c, t, w)
  | .vmov c t w => some (0xF1, c, t, w)
  | .vidx c t w => some (0xF2, c, t, w)
  | .vreduce c t w => some (0xF3, c, t, w)
  | .vcmp c t w => some (0xF4, c, t, w)
  | .vmlog c t w => some (0xF5, c, t, w)
  | _ => none

/-- The static checks of R190 on an engine instruction; whether rnd 3 is allowed depends on the image (R227). -/
def engineOk (entropy : Bool) (op : Nat) (w : Eng) : Bool := engOk op w || vecOk entropy op w

/-- The packet of a packet command. -/
def Instr.packet? : Instr → Option (Carrier × Packet)
  | .nop v p | .fence v p | .imageLoad v p | .imageVerify v p | .imageStart v p | .imageStop v p | .stepRerun v p
  | .streamOpen v p | .streamFeed v p | .streamCollectBind v p | .streamCollectWait v p | .streamClose v p
  | .copyIn v p | .copyOut v p | .queryStatus v p | .identify v p | .roleChallenge v p | .roleElevate v p
  | .roleDrop v p | .setModeStrict v p | .setModeInstallerKey v p | .partitionEnable v p | .partitionDisableDrain v p
  | .partitionDisableFence v p | .partitionQuery v p | .troupeJoin v p | .troupeLeave v p | .linkConfig v p
  | .linkQuery v p | .powerCapSet v p | .powerCapSetHostCap v p | .powerCapSetBudget v p | .powerCapSetShed v p
  | .powerCapSetCeiling v p | .powerQuery v p | .thermalQuery v p | .logRead v p | .debugUnlock v p
  | .fwUpdateBegin v p | .fwUpdateData v p | .fwUpdateCommit v p | .fwUpdateAbort v p | .fwUpdateImage v p
  | .slotPowerOn v p | .slotPowerOff v p | .slotPowerWithdraw v p | .slotSwap v p | .lampSet v p | .locate v p
  | .coolantQuery v p => some (v, p)
  | _ => none

/-- A command that some carrier can deliver. -/
def Instr.wellFormed (i : Instr) : Bool :=
  match i.ctl? with
  | some (op, _, _, w) => ctlOk op w
  | none =>
    match i.eng? with
    | some (op, _, _, w) => engineOk true op w
    | none =>
      match i.packet? with
      | some (_, p) => p.bytes.length == 64
      | none =>
        match i with
        | .flitArrival _ _ pl => pl.bytes.length == 128
        | .flitArrivalWrite _ _ _ pl => pl.length == 128
        | .cueArrival _ cue _ => cue.length == 16
        | .feedFetchComplete _ _ r => r.length == 64
        | .asuLineAccess _ _ _ _ (.write d _) _ => d.length == 64
        | .doorbell _ _ _ es => es.all fun p => p.bytes.length == 64
        | .railPoll rs => rs.length == 6
        | .thermalSample rs => rs.length == 82
        | .swapPoll _ _ sts => sts.length == 8
        | .hostNotifyReceive _ _ es => es.all fun e => e.length == 32
        | _ => true

end Sys2Proof
end

