-- ==== Sys2Proof/Decode.lean ====
section
/-! DEFINITION. Decode.lean: no row of spec/opcode_table.json gives bits, so decodeTableWord answers none. The core's own
instruction words (R186, R188) are decoded and encoded here, because IMAGE_LOAD checks streams of them (R190) and a thread
issues the word that stands at its program counter. -/

namespace Sys2Proof

/-- The command that a table word spells: the table gives no row any bits, so no word spells one. -/
def decodeTableWord (_nbits _w : Nat) : Option Instr := none

/-- The 64-bit control word of an opcode and its fields (R186). -/
def ctlWord (op : BitVec 8) (w : Ctl) : Dword :=
  op ++ w.dst ++ w.srca ++ w.srcb ++ w.pred ++ BitVec.ofBool w.pinv ++ w.mod ++ w.imm

/-- The fields of a control word (R186). -/
def ctlOfWord (x : Dword) : Ctl where
  dst := x.extractLsb' 51 5
  srca := x.extractLsb' 46 5
  srcb := x.extractLsb' 41 5
  pred := x.extractLsb' 38 3
  pinv := x.getLsbD 37
  mod := x.extractLsb' 32 5
  imm := x.extractLsb' 0 32

/-- Word 0 of an engine instruction (R188). -/
def engWord0 (op : BitVec 8) (w : Eng) : Dword :=
  op ++ w.d ++ w.a ++ w.b ++ w.loop ++ BitVec.ofBool w.sig ++ w.ac ++ w.fmt ++ w.mods

/-- The fields of an engine instruction's two words (R188). -/
def engOfWords (x y : Dword) : Eng where
  d := x.extractLsb' 48 8
  a := x.extractLsb' 40 8
  b := x.extractLsb' 32 8
  loop := x.extractLsb' 26 6
  sig := x.getLsbD 25
  ac := x.extractLsb' 20 5
  fmt := x.extractLsb' 16 4
  mods := x.extractLsb' 0 16
  w1 := y

/-- The opcode of an instruction word, bits [63:56] (R186, R188). -/
def wordOpcode (x : Dword) : BitVec 8 := x.extractLsb' 56 8

/-- The control instruction with an opcode (R191). -/
def ctlInstr (op : Nat) (c : CoreId) (t : ThreadId) (w : Ctl) : Option Instr :=
  match op with
  | 0x00 => some (.controlNop c t w)
  | 0x01 => some (.halt c t w)
  | 0x08 => some (.add c t w)
  | 0x09 => some (.sub c t w)
  | 0x0A => some (.mul c t w)
  | 0x0B => some (.and c t w)
  | 0x0C => some (.or c t w)
  | 0x0D => some (.xor c t w)
  | 0x0E => some (.shl c t w)
  | 0x0F => some (.shr c t w)
  | 0x10 => some (.sra c t w)
  | 0x11 => some (.min c t w)
  | 0x12 => some (.max c t w)
  | 0x13 => some (.movhi c t w)
  | 0x18 => some (.cmp c t w)
  | 0x19 => some (.plog c t w)
  | 0x1A => some (.sel c t w)
  | 0x20 => some (.mova c t w)
  | 0x21 => some (.adda c t w)
  | 0x22 => some (.rda c t w)
  | 0x28 => some (.ld c t w)
  | 0x29 => some (.st c t w)
  | 0x2A => some (.satom c t w)
  | 0x30 => some (.br c t w)
  | 0x31 => some (.loop c t w)
  | 0x38 => some (.signal c t w)
  | 0x39 => some (.wait c t w)
  | 0x3A => some (.expect c t w)
  | 0x3B => some (.timer c t w)
  | 0x3C => some (.rdac c t w)
  | 0x40 => some (.dset c t w)
  | 0x41 => some (.lset c t w)
  | 0x42 => some (.dget c t w)
  | 0x48 => some (.setvl c t w)
  | 0x50 => some (.rdsys c t w)
  | _ => none

/-- The engine instruction with an opcode (R197, R204, R211–R213, R241). -/
def engInstr (op : Nat) (c : CoreId) (t : ThreadId) (w : Eng) : Option Instr :=
  match op with
  | 0xC0 => some (.mm c t w)
  | 0xC1 => some (.mdrain c t w)
  | 0xC2 => some (.mclear c t w)
  | 0xD0 => some (.mvCopy c t w)
  | 0xD1 => some (.mvRed c t w)
  | 0xD2 => some (.mvSend c t w)
  | 0xD3 => some (.mvFill c t w)
  | 0xE0 => some (.vld c t w)
  | 0xE1 => some (.vst c t w)
  | 0xE2 => some (.vred c t w)
  | 0xE3 => some (.vrdacc c t w)
  | 0xE4 => some (.vwracc c t w)
  | 0xE8 => some (.vadd c t w)
  | 0xE9 => some (.vsub c t w)
  | 0xEA => some (.vmul c t w)
  | 0xEB => some (.vfma c t w)
  | 0xEC => some (.vmax c t w)
  | 0xED => some (.vmin c t w)
  | 0xEE => some (.vlog c t w)
  | 0xEF => some (.vfn c t w)
  | 0xF0 => some (.vcvt c t w)
  | 0xF1 => some (.vmov c t w)
  | 0xF2 => some (.vidx c t w)
  | 0xF3 => some (.vreduce c t w)
  | 0xF4 => some (.vcmp c t w)
  | 0xF5 => some (.vmlog c t w)
  | 0xFC => some (.ballast c t w)
  | 0xFD => some (.engineFence c t w)
  | 0xFE => some (.sync c t w)
  | _ => none

/-- The instruction that stands at a word, for thread t of core c; `next` is the word after it. Words that fail a check of
R190 name none. -/
def decodeInstr (entropy : Bool) (c : CoreId) (t : ThreadId) (x next : Dword) : Option Instr :=
  let op := (wordOpcode x).toNat
  if op < 0xC0 then
    if ctlOk op (ctlOfWord x) then ctlInstr op c t (ctlOfWord x) else none
  else
    if engineOk entropy op (engOfWords x next) then engInstr op c t (engOfWords x next) else none

/-- The words of a core instruction: one for a control instruction, two for an engine instruction; none for a command that
is no core instruction. -/
def encode (i : Instr) : List Dword :=
  match i.ctl? with
  | some (op, _, _, w) => [ctlWord (BitVec.ofNat 8 op) w]
  | none =>
    match i.eng? with
    | some (op, _, _, w) => [engWord0 (BitVec.ofNat 8 op) w, w.w1]
    | none => []

/-- One instruction of a stream: its word index, its first word and the second (zero for a control instruction). -/
structure StreamInstr where
  pc : Nat
  w0 : Dword
  w1 : Dword
  deriving DecidableEq, Repr

/-- The instructions of a stream from word `pc`, one after another (R190). `none` when an engine instruction's second word is
missing. -/
def decodeStream (pc : Nat) : List Dword → Option (List StreamInstr)
  | [] => some []
  | x :: rest =>
    if (wordOpcode x).toNat < 0xC0 then
      (decodeStream (pc + 1) rest).map fun l => ⟨pc, x, 0⟩ :: l
    else
      match rest with
      | [] => none
      | y :: rest' => (decodeStream (pc + 2) rest').map fun l => ⟨pc, x, y⟩ :: l

/-- The static checks of R190 over a whole stream. `mode` is the image's mode byte (R17, R227). -/
def streamOk (mode : Byte) (ws : List Dword) : Bool :=
  match decodeStream 0 ws with
  | none => false
  | some l =>
    (l.all fun i => (decodeInstr (mode.getLsbD 3) 0 0 i.w0 i.w1).isSome
      && (!((wordOpcode i.w0) == 0x30 || (wordOpcode i.w0) == 0x31)
          || l.any fun j => j.pc == (i.w0.extractLsb' 0 13).toNat))
    && (match l.getLast? with
        | none => false
        | some i => ((wordOpcode i.w0) == 0x01 || (wordOpcode i.w0) == 0x30)
            && (ctlOfWord i.w0).pred == 0 && !(ctlOfWord i.w0).pinv)

end Sys2Proof
end

