-- ==== Sys2Proof/Config.lean ====
section
/-! DEFINITION. Config.lean: what the parts fix and the spec does not give (serials, keys, fused values), and the FREE
VALUES: opaque constants without a body, so that a claim holds whatever they are. Logs 4 and 8. -/

namespace Sys2Proof

/-- The 8-byte serial of IDENTIFY (R446), by chip. -/
opaque Config.serial : Chip → Dword
/-- Byte i of the installer key that is set at shipment (R440). -/
opaque Config.shippedKey : Chip → Nat → Byte
/-- Byte i of the fused maker key (R440). -/
opaque Config.makerKey : Chip → Nat → Byte
/-- The fused characterisation value of coefficient j, FP32 (R372, R387). -/
opaque Config.fusedCoef : Nat → Word
/-- The fused per-die trim of VDD_CORE before it is limited to 0–25 mV (R367). -/
opaque Config.vddTrimRaw : Nat
/-- The firmware major version that the NW8 reports before any update (R446). -/
opaque Config.nw8Major : BitVec 8

/-- The stepping that the NW8 reports: R446 gives the EV9's alone. -/
opaque Config.nw8Stepping : Byte

/-- A fresh 16-byte nonce (R441), by draw. -/
opaque Config.nonce : Nat → BitVec 128
/-- A 32-bit value of the entropy source of R235, by draw and element. -/
opaque Config.entropy : Nat → Nat → Word
/-- VFN's result for a function and an FP32 operand where R244 states none. -/
opaque Config.vfnTable : Nat → Word → Word
/-- How many patterns VFN's table entry lies from the correctly rounded result, within the accuracy of R244. -/
opaque Config.vfnStep : Nat → Word → Int
/-- Coefficient j after the least-squares update of a draw (R372). -/
opaque Config.fitCoef : Nat → Nat → Word
/-- The residual RMS of the fit in mW after a draw (R375, R387). -/
opaque Config.fitResidual : Nat → Word
/-- What a byte of a poisoned word reads as (R100). -/
opaque Config.poisonByte : Nat → Byte
/-- Byte i of what the host memory of a stopped COPY_IN held, by draw, and whether word i of it arrived poisoned (R336, R349). -/
opaque Config.copyByte : Nat → Nat → Byte
opaque Config.copyPoison : Nat → Nat → Bool
/-- The TRCLK frequency error in ppm that a draw reports (R73). -/
opaque Config.freqErr : Nat → BitVec 16
/-- How detail word 1 of a CURL_TIMEOUT record names the absent item's crossing, port or channel (R67). -/
opaque Config.itemName : Item → BitVec 32
/-- How that word names an event of R61, by cause code and port. -/
opaque Config.eventName : Nat → Nat → BitVec 32
/-- The exponent of ulp(m) in R173 when the rounded magnitude sum m is no finite number. -/
opaque Config.ulpOfInf : Int
/-- The level of a peek signal that follows what the model does not hold (TRCLK, REFCLK, the ms tick, the blink phase, an SCL line), by
chip, signal and time (R507, R515). -/
opaque Config.pinLevel : Chip → Nat → Nat → Bool
/-- A value that a rule leaves without a stated result, by draw. -/
opaque Config.unstated : Nat → Dword

/-- The trim of VDD_CORE in mV below the setpoint, 0–25 (R367). -/
def Config.vddTrim : Nat := Config.vddTrimRaw % 26

end Sys2Proof
end

