-- ==== Sys2Proof/Machine/State.lean ====
section
/-! DEFINITION. State.lean: everything the spec gives the EV9 and the NW8 as state, plain data, and the state after reset.
Each structure's default values are its reset values; where the spec gives none the docstring or log 3 says so. -/

namespace Sys2Proof.Machine

open Sys2Proof

/-- The reasons for which the machine stops with a fault: the spec has none, each of its faults is a fault record and a next
state (R492–R494). The one constructor keeps the type inhabited and is raised by nothing (log 10). -/
inductive Fault where
  /-- raised by no command; safe -/
  | unreachable
  deriving DecidableEq, Repr

/-- The reasons for which a command is refused. -/
inductive Refusal where
  /-- exec's arm of a command that has no meaning yet; safe -/
  | notModelled (mnemonic : String)
  /-- an instruction word that the static checks of R190 reject, so that no thread can ever issue it; raised by the meanings of
  the core instructions; safe -/
  | undefinedWord
  deriving DecidableEq, Repr

/-! ## Flits -/

/-- A flit in the network (R266), with what its routers know of it: the partition whose traffic it is, the port it came in on, the
port or partition whose early-arrival buffer it holds a place of (R66, R265), and the beats until it stands in the input it moves
to (R258). -/
structure Flit where
  hdr : Dword
  payload : List Byte
  part : Nat
  port : Option PortId := none
  place : Option CreditOf := none
  /-- signal points of the sender that it ends (R207) -/
  points : Nat := 0
  wait : Nat := 0
  deriving DecidableEq, Repr

/-- A flit that the mover of a core has made and that has not left the core: the queue entry and iteration it belongs to (R210,
R221). -/
structure SendFlit where
  flit : Flit
  entry : Nat
  iter : Nat
  deriving DecidableEq, Repr

/-! ## Clock, curls and partitions -/

/-- The partition states of R342. -/
inductive PartState where
  | off | enabling | on | draining | fenced
  deriving DecidableEq, Repr

/-- A clock island of a partition (R51–R53): its present droop below the setpoint in mV, and what stretching and stopping have cost
in this step: in 1/45 of a nominal beat, and in whole beats that it has already lost. -/
structure Isl where
  mv : Nat := 0
  lost : Nat := 0
  skipped : Nat := 0
  /-- more than 60 mV have been seen, and not yet less than 60 mV again -/
  deep : Bool := false
  /-- the beats that its clock has taken (R510) -/
  ticks : Nat := 0
  deriving DecidableEq, Repr

/-- An open cause of a curl other than an absent item (R61). -/
inductive CurlCause where
  | credit (of : CreditOf) (vc : Fin 4)
  | cue
  | brake
  | retry (c : CoreId)
  | droop
  deriving DecidableEq, Repr

/-- An absent item that a partition awaits: its due beat, and the cause that delayed it where the state shows it (R58, R63). -/
structure Absent where
  item : Item
  due : Nat
  cause : Tag := none
  deriving DecidableEq, Repr

/-- The curl counters and status of a partition (R73). -/
structure Curl where
  curled : Bool := false
  held : Bool := false
  breach : Bool := false
  timeout : Bool := false
  /-- cause tag of the current curl -/
  causeNow : Tag := none
  /-- a raised curl request (R58) -/
  request : Bool := false
  /-- the absent items awaited, earliest due first (R58, R75) -/
  absent : List Absent := []
  /-- the schedule beat in which the present curl froze the group -/
  frozeAt : Nat := 0
  /-- open causes other than items (R61, R79) -/
  causes : List CurlCause := []
  /-- tag of the cause that cleared last (R65, R79) -/
  lastTag : Tag := none
  /-- the last cause that cleared was an item without a valid tag (R65) -/
  lastUntagged : Bool := false
  /-- beats for which nothing has held the present curl any more (R60, R61) -/
  clearFor : Nat := 0
  /-- the partition's lag cause (R64) -/
  lag : Tag := none
  /-- curls in the current step (R71) -/
  inStep : Nat := 0
  /-- the beats for which the present curl has lasted -/
  lasted : Nat := 0
  count : BitVec 32 := 0
  beats : BitVec 64 := 0
  untagged : BitVec 32 := 0
  nearMiss : BitVec 32 := 0
  histCount : Table (BitVec 32) := []
  histBeats : Table (BitVec 64) := []
  deriving DecidableEq, Repr

/-- The clock registers of a partition (R73) and its glide (R49). -/
structure Clk where
  pace : Fin 8 := 0
  glide : Bool := false
  /-- the pace a cue has named and that is not yet applied -/
  pending : Option (Fin 8) := none
  beatCount : BitVec 64 := 0
  step : BitVec 48 := 0
  stepBeat : BitVec 32 := 0
  fll : BitVec 10 := 0
  droopCount : BitVec 32 := 0
  /-- the islands of the group: its eight cores, then its two clusters (R46, R51) -/
  isl : Table Isl := []
  /-- beats for which every island of the group has been below 25 mV while a droop curl is open (R52) -/
  droopOver : Nat := 0
  /-- the partition runs under a brake (R381) -/
  braked : Bool := false
  deriving DecidableEq, Repr

/-- The tier registers of a partition (R111). -/
structure TierPart where
  sealed : Bool := false
  overdue : Bool := false
  intrusion : Bool := false
  sealViolation : Bool := false
  ce : Bool := false
  ue : Bool := false
  ceCount : BitVec 32 := 0
  ueCount : BitVec 32 := 0
  /-- word address bits 39:4 of the last poisoned word -/
  ueAddr : BitVec 36 := 0
  ueSource : BitVec 2 := 0
  forced : BitVec 32 := 0
  windows : BitVec 32 := 0
  /-- a TIER_CORRECTED record has been written in the current second (R99) -/
  ceThisSecond : Bool := false
  /-- the time against which rows age, in 1/63,000 of a refresh operation (R90, R91) -/
  clock : Nat := 0
  deriving DecidableEq, Repr

/-- One partition (R341). -/
structure Part where
  state : PartState := .off
  stuck : Bool := false
  drainTimeout : Bool := false
  /-- the edge beat in which the drain began (R347) -/
  drainAt : Nat := 0
  /-- a fence has been ordered and has not yet taken effect (R347, R348) -/
  fencing : Bool := false
  ports : BitVec 12 := 0
  /-- PART_CREDITS_p (R349) -/
  flitsDiscarded : BitVec 32 := 0
  creditsRestored : BitVec 32 := 0
  clk : Clk := {}
  curl : Curl := {}
  tier : TierPart := {}
  abftTol : BitVec 16 := 0x1000
  share : BitVec 8 := 32
  request : Fin 8 := 7
  /-- the governor's request before the thermal term of R384 is added (R376) -/
  base : Fin 8 := 7
  limited : BitVec 3 := 0
  /-- B_p in mW (R370) -/
  budget : BitVec 32 := 0
  /-- consecutive evaluations in which the next faster pace has fitted (R376) -/
  fasterRuns : Nat := 0
  /-- service-island time in ms at which the partition entered ON (R374) -/
  onSince : Nat := 0
  /-- activity counts of the current window by class, in fifteenths (R371) -/
  activity : Table Nat := []
  /-- activity counts of the last complete 1 ms window -/
  lastActivity : Table Nat := []
  /-- step fault: faulted step and stopped bit (R486) -/
  faultStep : BitVec 48 := 0
  stopped : Bool := false
  deriving DecidableEq, Repr

/-! ## Cores -/

/-- The thread states of R123. -/
inductive ThreadState where
  | halted | running | waiting | faulted
  deriving DecidableEq, Repr

/-- The registers of a thread that a step snapshot holds (R122, R487). -/
structure ThreadRegs where
  state : ThreadState := .halted
  pc : BitVec 13 := 0
  g : Table Dword := []
  a : Table Addr := []
  /-- predicates p0–p7; bit 0 is never read (R122) -/
  p : BitVec 8 := 0
  waitAc : BitVec 5 := 0
  waitN : BitVec 16 := 0
  /-- vector instructions enqueued in the current step (R234) -/
  nVec : BitVec 32 := 0
  deriving DecidableEq, Repr

/-- One thread (R122, R123). -/
structure Thread where
  regs : ThreadRegs := {}
  stall : Bool := false
  /-- the queue entries that a SYNC waits for (R213) -/
  sync : Option (List Nat) := none
  waitBeats : BitVec 32 := 0
  /-- beats until the instruction after a taken branch may issue (R192) -/
  gap : Nat := 0
  /-- the general registers whose result is not ready, and the beats until it is (R192) -/
  pend : Table Nat := []
  /-- the instruction store of the thread, by word index (R119) -/
  code : Table Dword := []
  /-- the number of words that IMAGE_LOAD filled; 0 means no instruction stream -/
  codeLen : Nat := 0
  deriving DecidableEq, Repr

/-- One acorn counter (R138, R141). -/
structure Acorn where
  value : BitVec 16 := 0
  expected : BitVec 32 := 0
  overflow : Bool := false
  deriving DecidableEq, Repr

/-- One timer (R139, R150). -/
structure Timer where
  armed : Bool := false
  ac : BitVec 5 := 0
  beats : BitVec 32 := 0
  deriving DecidableEq, Repr

/-- An entry of an engine queue with what it captured at enqueue (R136). -/
structure QEntry where
  op : BitVec 8
  w : Eng
  thread : ThreadId
  pc : BitVec 13
  descD : BitVec 256 := 0
  descA : BitVec 256 := 0
  descB : BitVec 256 := 0
  lp : BitVec 512 := 0
  step : BitVec 48 := 0
  nVec : BitVec 32 := 0
  /-- vl and width of a SETVL entry (R196) -/
  vl : BitVec 12 := 0
  wide16 : Bool := false
  /-- the number under which it was enqueued; the entries of one FENCE share it (R212) -/
  id : Nat := 0
  /-- signals sent so far (R132, R142) -/
  sent : Nat := 0
  /-- a mover, vector or ballast entry has completed -/
  finished : Bool := false
  /-- passes of a vector instruction that has started (R225, R248) -/
  passes : Nat := 0
  /-- iterations (mover), tiles (matrix) or passes (vector) completed -/
  done : Nat := 0
  /-- the iteration, tile or instruction at the head of the queue has started -/
  active : Bool := false
  /-- a BALLAST entry runs its own pattern rather than pattern 0 (R374) -/
  ownPattern : Bool := true
  deriving DecidableEq, Repr

/-- Where an accumulator half stands (R168, R177, R183). -/
inductive HalfPhase where
  | idle
  /-- a tile accumulates -/
  | filling
  /-- a tile has ended and its drain is due -/
  | drainDue
  /-- the drain runs or its comparison is awaited -/
  | draining
  /-- a retry-policy comparison failed and the partition has yet to freeze -/
  | retryDue
  /-- frozen for the retry; the replay is due -/
  | retryFrozen
  /-- the run has been replayed and its second comparison is awaited -/
  | replayed
  deriving DecidableEq, Repr

/-- The run on a half: which instruction, which of its tiles, and how it drains (R168, R177). -/
structure Run where
  entry : QEntry
  /-- tile number within the instruction -/
  tile : Nat
  /-- the run began in an earlier instruction, so that it cannot be replayed (R177) -/
  spans : Bool
  /-- descriptor D and loop offset of the drain -/
  descD : BitVec 256
  offD : BitVec 40
  /-- the drain signals its instruction's counter (R170, R201) -/
  signals : Bool
  /-- handle D of the draining instruction (R179) -/
  handleD : BitVec 8 := 0
  /-- the four detail words of the first mismatch (R177) -/
  firstWords : BitVec 128 := 0
  /-- iterations of the tile that have been read, and the beats for which it has run (R201, R203) -/
  shown : Nat := 0
  beats : Nat := 0
  deriving DecidableEq, Repr

/-- One accumulator half: 128 × 256 cells with checksum row 128, checksum column 256 and the corner (R158, R168). Cell
(i, j) has index 257 × i + j. -/
structure AccHalf where
  cells : Table Word := []
  /-- checksums invalid (R171) -/
  invalid : Bool := false
  /-- an instruction has worked on the half since IMAGE_START cleared it (R177, R200) -/
  touched : Bool := false
  /-- poisoned rows, columns and cells (R101) -/
  poisonRows : List Nat := []
  poisonCols : List Nat := []
  poisonCells : List Nat := []
  phase : HalfPhase := .idle
  run : Option Run := none
  /-- the queue entries, by number, whose signals wait for the run's comparison under the retry policy (R201) -/
  held : List Nat := []
  /-- detail words 0, 2 and 3 of the first failing block check of the run (R174) -/
  blockFail : Option (Nat × Nat × Nat) := none
  /-- the cell inversion that the running drain applies (R180): cell index and bit -/
  injected : Option (Nat × Nat) := none
  deriving DecidableEq, Repr

/-- A mover iteration in flight: its entry and number, and the rows it read with their poison by 16-byte word (R101, R209). -/
structure MoverBuf where
  entry : QEntry
  iter : Nat
  rows : List (List Byte × List Bool)
  deriving DecidableEq, Repr

/-- An arriving transfer, by 256 × VC + handle: the captured descriptor, the place of the flit that arrived last, and its index
(R207, R266). -/
structure RxState where
  desc : BitVec 256 := 0
  pos : Nat := 0
  seq : BitVec 14 := 0
  deriving DecidableEq, Repr

/-- A step snapshot (R487). -/
structure Snap where
  step : BitVec 48
  threads : Table ThreadRegs
  acorns : Table Acorn
  timers : Table Timer
  handles : Table (BitVec 256)
  loops : Table (BitVec 512)
  vl : BitVec 12
  masks : Table (BitVec 2048)
  deriving DecidableEq, Repr

/-- The ABFT registers of a core (R180). -/
structure Abft where
  retrying : Bool := false
  faulted : Bool := false
  retriedOk : Bool := false
  mismatch : Bool := false
  last : BitVec 64 := 0
  delta : BitVec 64 := 0
  tiles : BitVec 64 := 0
  mismatches : BitVec 32 := 0
  retries : BitVec 32 := 0
  retriesPassed : BitVec 32 := 0
  skipped : BitVec 32 := 0
  injBit : BitVec 5 := 0
  injColumn : BitVec 9 := 0
  injRow : BitVec 9 := 0
  injArm : Bool := false
  deriving DecidableEq, Repr

/-- The vector engine (R223, R250). -/
structure Vec where
  /-- halfword 2,048 × register + index -/
  regs : Table (BitVec 16) := []
  /-- poisoned halfwords of the registers (R101) -/
  poison : List Nat := []
  masks : Table (BitVec 2048) := []
  /-- poisoned mask bits: 2,048 × mask + bit (R101) -/
  maskPoison : List Nat := []
  vl : BitVec 12 := 0
  wide16 : Bool := false
  ctrl : BitVec 4 := 0
  flags : BitVec 5 := 0
  seed : BitVec 32 := 0
  /-- the seed captured at IMAGE_START (R234, R255) -/
  seedRun : BitVec 32 := 0
  passes : BitVec 64 := 0
  /-- the halves that VRDACCs and VWRACCs in progress use, one for each (R251) -/
  usesHalf : List Half2 := []
  deriving DecidableEq, Repr

/-- One core (R119). -/
structure Core where
  threads : Table Thread := []
  handles : Table (BitVec 256) := []
  loops : Table (BitVec 512) := []
  acorns : Table Acorn := []
  timers : Table Timer := []
  acornOverflow : Bool := false
  bounds : Bool := false
  waitstall : Bool := false
  waitlock : Bool := false
  /-- beats for which the waitlock condition has held (R143) -/
  lockBeats : Nat := 0
  waitLimit : BitVec 32 := 0x00100000
  /-- the thread that issued last (R121) -/
  lastIssuer : ThreadId := 3
  /-- beats for which the issue port is still held (R189) -/
  portBusy : Nat := 0
  /-- the number that the next queue entry takes -/
  nextId : Nat := 0
  qMatrix : List QEntry := []
  qVector : List QEntry := []
  qMover : List QEntry := []
  halfA : AccHalf := {}
  halfB : AccHalf := {}
  /-- mover iterations whose reads have been made and whose writes have not, oldest first (R209) -/
  bufs : List MoverBuf := []
  /-- flits of MV.SENDs that have not left the core, oldest first (R54, R210) -/
  sendq : List SendFlit := []
  /-- the crossing FIFO of flits that have left the local output for this core (R54, R267) -/
  inbox : List Flit := []
  /-- the line of an MV.SEND that waits for its flit's second line (R206) -/
  sendCarry : Option (List Byte × List Bool) := none
  rx : Table RxState := []
  vec : Vec := {}
  abft : Abft := {}
  snaps : List Snap := []
  sealValid : Bool := false
  sealBase : BitVec 10 := 0
  sealLimit : BitVec 10 := 0
  refreshWait : BitVec 32 := 0
  /-- a carousel window is open, and the beats that it has left (R95) -/
  window : Bool := false
  windowLeft : Nat := 0
  /-- retired since the last ENABLING of its partition (R485) -/
  retired : Bool := false
  deriving DecidableEq, Repr

/-- The scratch registers of a cluster (R111). -/
structure Cluster where
  ce : Bool := false
  ue : Bool := false
  atomics : BitVec 64 := 0
  conflicts : BitVec 32 := 0
  ceCount : BitVec 32 := 0
  ueAddr : BitVec 36 := 0
  deriving DecidableEq, Repr

/-- What an access to scratch does to its line (R106): a thread's load into a register, a write, or an atomic of a format and an
operation code, which may return the old element to a thread's register. -/
inductive ScrKind where
  | load (t : ThreadId) (dst : BitVec 5)
  | write
  | atomic (fmt op : Nat) (ret : Option (ThreadId × BitVec 5))
  deriving DecidableEq, Repr

/-- Bytes of an access from an address, and whether they carry poison. -/
structure ScrUnit where
  addr : Nat
  bytes : List Byte
  bad : Bool := false
  deriving DecidableEq, Repr

/-- An access that has reached a cluster's scratch and has not been applied (R108): its cluster, its stamp — the schedule beat of the
partition, and the core, 64 for the host — and its bytes by address. -/
structure ScrAccess where
  cluster : Nat
  beat : Nat
  core : Nat
  /-- within the core: 0 a thread, 1 the vector engine, 2 the mover (R252) -/
  unit : Nat
  kind : ScrKind
  units : List ScrUnit
  deriving DecidableEq, Repr

/-- One tier bank's refresh controller (R93). -/
structure Bank where
  /-- the row that the rotation refreshes next, 0–383 -/
  row : Nat := 0
  busy : Bool := false
  /-- the operation under way is a forced one -/
  forced : Bool := false
  /-- the refresh time at which the operation under way started -/
  since : Nat := 0
  /-- operations that the open carousel window still has to complete in the bank (R95) -/
  left : Nat := 0
  /-- rows that a rise of the band refreshes at once (R92) -/
  owed : Nat := 0
  /-- refresh time of each row's last refresh; a row not listed was last refreshed at time 0 (R91, log 55) -/
  last : Table Nat := []
  deriving DecidableEq, Repr

/-! ## Troupes -/

/-- An entry of the member table (R20). -/
structure MemberEntry where
  partitions : BitVec 8
  entryChip : Bool
  exitChip : Bool
  ev7 : Bool
  laneFirst : Nat
  laneCount : Nat
  deriving DecidableEq, Repr

/-- An entry of the cue tree (R21). -/
structure CueEntry where
  parent : BitVec 16
  rxPort : BitVec 8
  txPort : BitVec 8
  offset : BitVec 32
  deriving DecidableEq, Repr

/-- A window of the carousel plan (R96). -/
structure CarouselEntry where
  core : Nat
  stepInCycle : Nat
  startBeat : Nat
  deriving DecidableEq, Repr

/-- What a member holds of its loaded image (R16–R22). -/
structure Image where
  members : Nat
  stepLength : Nat
  stepBatch : Nat
  mode : Byte
  startPace : Fin 8
  admissionCut : Nat
  table : List MemberEntry
  cueTree : List CueEntry
  /-- hop allowances of logical ports 0–11 (R284) -/
  hops : List Nat
  /-- logical port by destination position (R276) -/
  routes : Table Nat
  cycleSteps : Nat
  carousel : List CarouselEntry
  gate : Bool
  seed : BitVec 32
  /-- every digest matched (R23, check 1) -/
  digestsOk : Bool
  sections : Nat
  deriving DecidableEq, Repr

/-- Where a member's image stands (R32, R44, R345). -/
inductive RunState where
  /-- loaded or not, never started -/
  | idle
  /-- started and waiting for cue 0, or rerun and waiting for its cue -/
  | starting
  | running
  | stopped
  deriving DecidableEq, Repr

/-- A cue (R25). -/
structure Cue where
  troupe : BitVec 16
  step : BitVec 48
  pace : Fin 8
  stop : Bool
  admitted : Nat
  deriving DecidableEq, Repr

/-- The member of one troupe on this chip (R11). -/
structure Member where
  position : BitVec 16
  mask : BitVec 8
  /-- TROUPE_JOIN has completed with OK (R279) -/
  joined : Bool := false
  image : Option Image := none
  run : RunState := .idle
  /-- the step the member is in, or will begin next -/
  step : BitVec 48 := 0
  /-- the member is within a step rather than before one -/
  inStep : Bool := false
  /-- the last step the member has begun (R489); none before step 0 -/
  lastBegun : Option (BitVec 48) := none
  /-- cues that wait for the member's steps to end, oldest first, and the port each came on (R28) -/
  cues : List (PortId × Cue) := []
  /-- beats for which the member has waited at its step boundary for its cue (R28, R62) -/
  waited : Nat := 0
  /-- the member waits at a step boundary longer than the guard: a curl of cause cue (R28) -/
  cueCurl : Bool := false
  /-- paces that cues have named, by step number -/
  paces : Table Nat := []
  /-- the slowest pace that a start or rerun allows: start_pace, or the troupe pace last in force (R30, R489) -/
  firstPace : Fin 8 := 0
  /-- the next cue to arrive is the first of a start or rerun, whose pace holds for steps n and n + 1 too (log 15) -/
  firstCue : Bool := false
  /-- ringmaster: the pace that the last cue named (R379) -/
  named : Fin 8 := 0
  /-- ringmaster: positions from which READY is held (R30) -/
  ready : List Nat := []
  /-- ringmaster: latest request of each position (R379) -/
  requests : Table Nat := []
  /-- ringmaster: IMAGE_STOP or STOP_FORWARD received; the next cue carries STOP (R32) -/
  stopNext : Bool := false
  /-- the step number of the STOP cue that has been received: the member stops when it comes to that step (R32) -/
  stopping : Option (BitVec 48) := none
  /-- the member's start was cancelled before its cue 0 came (R41) -/
  cancelled : Bool := false
  /-- ringmaster: outstanding prepare notice, and the governor evaluations since it was sent (R379, log 13) -/
  notice : Option (Fin 8) := none
  noticeAge : Nat := 0
  /-- ringmaster: the position whose READY spoils this start (R38, R43) -/
  badStart : Option Nat := none
  /-- the prepared pace that the member holds, and the governor evaluations since its notice came (R379, log 13) -/
  prepared : Option (Fin 8) := none
  preparedAge : Nat := 0
  /-- ringmaster: streams newly admitted at the coming step (R35) -/
  admits : Nat := 0
  /-- STEP_RERUN pending: its step (R489) -/
  rerun : Option (BitVec 48) := none
  /-- the ballast LFSR (R374) -/
  lfsr : BitVec 16 := 0
  /-- the admission cut of the current step has been performed -/
  cutDone : Bool := false
  /-- the beat of the edge island in which that cut was performed (R33, R39) -/
  cutAt : Nat := 0
  /-- step numbers below this one have had their admission cut (R490) -/
  cutsBefore : Nat := 0
  /-- step numbers below this one have had their collect records delivered (R490) -/
  deliveredBefore : Nat := 0
  /-- feed buffer: 512 × parity + lane (R325) -/
  feed : Table (List Byte) := []
  /-- collect buffer: 512 × parity + lane (R325) -/
  collect : Table (List Byte) := []
  /-- poisoned collect records, same index (R327) -/
  collectPoison : List Nat := []
  /-- occupancy masks of the even and the odd step (R35, R325) -/
  occupancy : Table (BitVec 512) := []
  /-- a drain of one of its partitions has ended its stream commands (R351) -/
  draining : Bool := false
  deriving DecidableEq, Repr

/-! ## Fabric -/

/-- The port states of R272. -/
inductive PortState where
  | disabled | training | linked | active | ls1 | ls2 | refused | fenced | down
  deriving DecidableEq, Repr

/-- The sleep handshake of a port (R285, R287). -/
inductive SleepPhase where
  | idle
  /-- SLEEP_REQ sent -/
  | requested (ls : SleepState)
  /-- SLEEP_CANCEL sent after a request: a late SLEEP_ACK is ignored -/
  | cancelled
  /-- in LS1 or LS2 and waking -/
  | waking
  deriving DecidableEq, Repr

/-- A training that waits for TRCLK (R288): from stage 1, without stage 1, or stage 6 alone. -/
inductive TrainKind where
  | full | role | six
  deriving DecidableEq, Repr

/-- One Synsen port (R290). -/
structure Port where
  enable : Bool := false
  genMax : BitVec 2 := 3
  autoSleep : Bool := false
  autoLs2 : Bool := false
  idle : BitVec 32 := 0x00010000
  state : PortState := .disabled
  reason : BitVec 4 := 0
  level : BitVec 2 := 0
  gen : BitVec 2 := 0
  width : BitVec 2 := 0
  polarity : BitVec 8 := 0
  reversed : Bool := false
  remapped : Bool := false
  logical : BitVec 4 := 0
  lanesGood : BitVec 8 := 0
  hopOver : Bool := false
  lane : BitVec 64 := 0
  ident : BitVec 35 := 0
  hop : BitVec 16 := 0
  replay : BitVec 16 := 0
  sleeps : BitVec 32 := 0
  nak : Bool := false
  cwOk : BitVec 64 := 0
  cwBad : BitVec 32 := 0
  replays : BitVec 32 := 0
  errCue : BitVec 32 := 0
  errSeq : BitVec 32 := 0
  wakeDelay : BitVec 64 := 0
  /-- the 16-byte plan entry (R275); nbr_pos 0xFFFF is unused -/
  plan : BitVec 128 := 0xFFFF
  eab : Table (BitVec 10) := []
  eabHigh : Table (BitVec 10) := []
  /-- credits in hand for sending on each scheduled VC, as places spent of 512 (R66) -/
  spent : Table Nat := []
  /-- beats for which a scheduled flit has stood at its slot without credit, by VC (R61) -/
  creditWait : Table Nat := []
  /-- edge beats for which flits have waited for the port to wake (R286) -/
  wakeWait : Nat := 0
  /-- edge beats that a replay still delays arriving flits (R281) -/
  replayLeft : Nat := 0
  /-- the flits of the last 512 codewords sent, oldest first (R281, log 51) -/
  sent : List Flit := []
  /-- failed training attempts (R273) -/
  attempts : Nat := 0
  /-- a retrain without stage 1 runs (R281), or one from stage 6 (R467) -/
  retrain : Bool := false
  stage6 : Bool := false
  /-- the run of failing codewords, first and last, and how often its first has failed in succession (R281) -/
  failing : Option (Nat × Nat × Nat) := none
  /-- an identity has arrived since training (R277) -/
  heard : Bool := false
  /-- the identity with which the port holds, or held, its role (R297) -/
  known : Option (BitVec 35) := none
  /-- a training that could not start for want of TRCLK (R288) -/
  wants : Option TrainKind := none
  /-- the edge beat in which the port carried or queued its last flit (R285) -/
  lastUse : Nat := 0
  /-- the edge beat in which the port fell asleep, and whether a wake of that moment waives its residency (R285, R287) -/
  sleptAt : Nat := 0
  waived : Bool := false
  replayThisSecond : Bool := false
  sleepPhase : SleepPhase := .idle
  deriving DecidableEq, Repr

/-- The router state (R260, R264, R290). Slot entry i of output o of router r has index 384 × r + 64 × o + i. -/
structure Noc where
  slots : Table (BitVec 32) := []
  flitsSched : Table (BitVec 32) := []
  flitsBest : Table (BitVec 32) := []
  /-- the R265 buffers: 4 × partition + VC -/
  xeab : Table (BitVec 10) := []
  xeabHigh : Table (BitVec 10) := []
  drop : BitVec 32 := 0
  /-- the flits of router inputs and of the crossings and early-arrival buffers before them, oldest first, by bufIndex -/
  bufs : Table (List Flit) := []
  /-- the best-effort VC that an output served last, by 8 × router + output (R262) -/
  served : Table Nat := []
  /-- beats for which a scheduled flit has lacked credit to a partition, by 4 × partition + VC (R61, R265) -/
  creditWait : Table Nat := []
  /-- the beats of the edge island (R260) -/
  edgeBeat : Nat := 0
  deriving DecidableEq, Repr

/-! ## Host interface -/

/-- A status reply before its phase bit (R313). -/
structure Reply where
  tag : BitVec 16
  status : BitVec 8
  final : Bool
  /-- result bytes 4–15 -/
  result : List Byte
  /-- reply data under R433 -/
  data : List Byte := []
  /-- raise the ring's MSI-X vector after the reply (R310) -/
  interrupt : Bool := false
  deriving DecidableEq, Repr

/-- One ring pair (R306, R333). -/
structure Ring where
  sqBase : BitVec 52 := 0
  cqBase : BitVec 52 := 0
  sqOrder : BitVec 4 := 4
  cqOrder : BitVec 4 := 4
  enable : Bool := false
  sqTail : BitVec 15 := 0
  sqHead : BitVec 15 := 0
  cqHead : BitVec 15 := 0
  cqTail : BitVec 15 := 0
  phase : Bool := false
  dmaError : Bool := false
  badDoorbell : Bool := false
  inflight : BitVec 16 := 0
  /-- fetched packets that have not started, oldest first (R315) -/
  fetched : List Packet := []
  /-- entries that the doorbell has made known and that are not fetched yet -/
  waiting : List Packet := []
  /-- the doorbell of each waiting packet, of each fetched one, and of the packet taken last: its place in the order of R311, and the
  edge beat in which it was recorded -/
  waitingAt : List (Nat × Nat) := []
  fetchedAt : List (Nat × Nat) := []
  takenAt : Nat × Nat := (0, 0)
  /-- replies held for want of a free completion entry, oldest first (R309) -/
  heldReplies : List Reply := []
  deriving DecidableEq, Repr

/-- The stream slot states of R319. -/
inductive SlotState where
  | free | pending | bound | releasing | collect
  deriving DecidableEq, Repr

/-- What an entry chip keeps of a slot for a step: feed head and position counter before the fetches for it, and whether its
record was fetched (R324, R487). -/
structure FeedMark where
  step : BitVec 48
  head : BitVec 16
  position : BitVec 48
  fetched : Bool
  deriving DecidableEq, Repr

/-- One stream slot (R319, R333). -/
structure StreamSlot where
  state : SlotState := .free
  tenant : BitVec 10 := 0
  lane : BitVec 9 := 0
  troupe : BitVec 16 := 0
  identity : BitVec 64 := 0
  position : BitVec 48 := 0
  order : Nat := 4
  base : BitVec 64 := 0
  head : BitVec 16 := 0
  tail : BitVec 16 := 0
  /-- starved count on an entry chip, lost count on an exit chip -/
  count : BitVec 32 := 0
  /-- place of the open's doorbell in the order of R311 -/
  order311 : Nat := 0
  /-- the edge beat in which that doorbell was recorded (R33, R311) -/
  rungAt : Nat := 0
  /-- feed head and position before the fetches for each recent step, and whether a record was fetched (R487) -/
  history : List FeedMark := []
  /-- the member of the slot has left its troupe (R351) -/
  orphan : Bool := false
  deriving DecidableEq, Repr

/-- The work that a DEFERRED command of the EV9 waits for (R316). -/
inductive Work where
  | fence
  | imageLoad (troupe : BitVec 16)
  | imageStart (troupe : BitVec 16)
  | imageStop (troupe : BitVec 16)
  | rerun (troupe : BitVec 16)
  | streamOpen (slot : Nat)
  /-- a wait-form STREAM_COLLECT: slot and records still to be written -/
  | collectWait (slot : Nat) (left : Nat)
  | streamClose (slot : Nat)
  | copyIn (addr : BitVec 40) (iova : Dword) (len : Nat)
  | copyOut (addr : BitVec 40) (iova : Dword) (len : Nat)
  | enable (p : PartId)
  /-- drain; `waits` for an ENABLING partition to be ON (R359) -/
  | drain (p : PartId) (waits : Bool)
  | fencePart (p : PartId)
  | join (troupe : BitVec 16)
  | fwCommit
  deriving DecidableEq, Repr

/-- A command awaiting its final reply (R316). -/
structure Deferred where
  via : Carrier
  tag : BitVec 16
  interrupt : Bool
  work : Work
  /-- the partitions that the command names (R353) -/
  parts : BitVec 8
  deriving DecidableEq, Repr

/-- What leaves the chips: the record of outputs (log 5). -/
inductive Out where
  | cue (port : Nat) (cue : Cue)
  | ready (troupe : BitVec 16) (position : BitVec 16) (pace : Fin 8)
  | paceRequest (troupe : BitVec 16) (position : BitVec 16) (pace : Fin 8) (brake : Bool) (stepNo : BitVec 48)
  | prepare (troupe : BitVec 16) (port : Nat) (pace : Fin 8)
  | stopForward (troupe : BitVec 16) (position : BitVec 16)
  | admitCount (troupe : BitVec 16) (position : BitVec 16) (count : Nat)
  | flit (port : PortId) (hdr : Dword) (payload : List Byte)
  | credit (port : PortId) (vc : Fin 4) (n : Nat)
  | identity (port : PortId) (id : Identity)
  | replayRequest (port : PortId)
  /-- the flits of the replay buffer leave again (R281) -/
  | resend (port : PortId) (hdrs : List Dword)
  | sleepReq (port : PortId) (ls : SleepState)
  | sleepAck (port : PortId) (ls : SleepState)
  | sleepNak (port : PortId)
  | sleepCancel (port : PortId)
  | wake (port : PortId)
  /-- reads of host memory carry the function that makes them (R300): a feed record by slot and ring index, an image, a copy -/
  | feedFetch (function : Nat) (slot : Nat) (index : Nat)
  | fetchImage (function : Nat) (iova : Dword) (len : Nat)
  | fetchCopy (function : Nat) (iova : Dword) (len : Nat)
  | msix (function : Nat) (vector : Nat)
  | completion (data : List Byte) (poisoned : Bool)
  /-- a write to host memory carried in a poisoned TLP: function and IOVA (R327, R329) -/
  | poisonedWrite (function : Nat) (iova : Nat)
  | unsupported
  | registerRead (value : BitVec 32)
  | hostNotify (port : TwPort) (word : BitVec 16)
  | smbBlock (port : TwPort) (block : List Byte)
  | smbReset (port : TwPort)
  | vddCore (mv : Nat)
  | capWrite (slot : TraySlot) (watts : Nat)
  | logForward (slot : TraySlot)
  | rung (port : TwPort) (rung : Nat)
  | bootRom
  /-- a committed firmware image is written over image 0 or 1 -/
  | flashWrite (image : Nat) (major : BitVec 8)
  deriving DecidableEq, Repr

/-- The host interface (R333). -/
structure Hif where
  rate : BitVec 3 := 0
  width : BitVec 5 := 0
  flit : Bool := false
  reversed : Bool := false
  up : Bool := false
  errCorr : BitVec 32 := 0
  errUncorr : BitVec 32 := 0
  numVfs : BitVec 11 := 0
  vfEnable : Bool := false
  /-- PERST_N is high -/
  perst : Bool := false
  /-- link training has begun (R483) -/
  training : Bool := false
  rings : Table Ring := []
  quotas : Table (BitVec 13) := []
  binds : Table (BitVec 8) := []
  slots : Table StreamSlot := []
  generation : BitVec 32 := 0
  unmatched : BitVec 32 := 0
  /-- doorbells recorded (R311) -/
  doorbells : Nat := 0
  deferred : List Deferred := []
  /-- what the EV9 has written to host memory: 2^64 × function + IOVA, byte -/
  hostMem : List Host.Cell := []
  deriving DecidableEq, Repr

/-! ## Power, temperature, service island, management -/

/-- The power registers (R387) and the estimator (R372–R382). -/
structure Power where
  hostCap : BitVec 10 := 900
  slotLimit : BitVec 10 := 300
  ceiling : BitVec 10 := 900
  brakePace : Fin 8 := 6
  stale : Bool := false
  fallback : Bool := false
  measLost : Bool := false
  braked : Bool := false
  /-- active brake sources: bit 0 pin, 1 power, 2 thermal, 3 measurement -/
  brakeSrc : BitVec 4 := 0
  brakeSeen : Bool := false
  staleSeen : Bool := false
  flat : BitVec 10 := 0
  /-- the previous 1 s window was flat (R374) -/
  lastFlat : Bool := false
  est : BitVec 32 := 0
  residual : BitVec 32 := 0
  measPower : Table (BitVec 32) := []
  measVolts : Table (BitVec 16) := []
  fails : Table Nat := []
  /-- fitted coefficients; an absent entry is the fused value (R372) -/
  coef : Table Word := []
  /-- VDD_CORE power samples of the current 1 s window, in mW (R375) -/
  samples : List Nat := []
  /-- a BALLAST of pattern above 0 ran in the current window (R375) -/
  ballastRan : Bool := false
  /-- consecutive samples above 1.05 × cap (R380) and at or below the cap (R382) -/
  overRun : Nat := 0
  underRun : Nat := 0
  /-- consecutive samples that would allow a faster pace in fallback (R377) -/
  fasterRun : Nat := 0
  /-- P_fixed: the last 100 samples of the other rails, in mW (R370) -/
  fixedSamples : List Nat := []
  /-- commanded VDD_CORE in mV and whether a commanded rise has been reached (R368) -/
  vdd : Nat := 0
  vddReached : Bool := true
  deriving DecidableEq, Repr

/-- The temperature registers (R387). -/
structure Therm where
  tj : BitVec 8 := 0
  hottest : BitVec 7 := 0
  throttling : Bool := false
  onset : Bool := false
  throttle : BitVec 8 := 100
  sensors : Table (BitVec 8) := []
  /-- THERMTRIP_N is asserted (R385) -/
  trip : Bool := false
  /-- TIER_BAND (R111) -/
  band : BitVec 2 := 3
  bandFloor : BitVec 2 := 0
  tjMax : BitVec 8 := 0
  /-- samples of 100 µs in succession with Tj below 102 °C (R382), and with tj_max at least 5 °C below the limit of the next lower band
  (R92) -/
  brakeCool : Nat := 0
  bandCool : Nat := 0
  deriving DecidableEq, Repr

/-- A session and its elevation state (R439–R443). -/
structure Session where
  role : Role := .operator
  /-- times in ms of the failed elevations of the last 10 minutes (R442) -/
  fails : List Nat := []
  locked : Bool := false
  /-- time in ms of the last command or register access (R443); the idle seconds of AUTH_SESSION count from it -/
  lastMs : Nat := 0
  nonce : Option (BitVec 128) := none
  /-- time in ms at which the nonce was given (R441) -/
  nonceMs : Nat := 0
  deriving DecidableEq, Repr

/-- One two-wire port (R426, R456, R457). -/
structure TwoWire where
  speed : BitVec 2 := 1
  notify : Bool := true
  sclLow : Bool := false
  sdaLow : Bool := false
  stretch : Bool := false
  pecError : Bool := false
  failed : Bool := false
  isLocal : Bool := false
  rung : BitVec 3 := 0
  recoveries : BitVec 16 := 0
  arbLosses : BitVec 16 := 0
  pecErrors : BitVec 16 := 0
  vsel : Bool := false
  replies : List Reply := []
  lastBlock : List Byte := []
  /-- the bus is stuck and the ladder runs; the rung that it has climbed last (R436) -/
  stuck : Bool := false
  ladder : Nat := 0
  /-- a transaction of this controller waits to be retried (R430) -/
  retry : Bool := false
  /-- bit 14 of the Host Notify word (R434) -/
  news : Bool := false
  deriving DecidableEq, Repr

/-- An audit entry (R453). -/
structure AuditEntry where
  time : BitVec 64
  seq : BitVec 32
  carrier : BitVec 8
  kind : BitVec 8
  role : BitVec 8
  status : BitVec 8
  what : BitVec 32
  detail : BitVec 96
  deriving DecidableEq, Repr

/-- A fault record (R492). -/
structure FaultRec where
  stamp : BitVec 48
  step : BitVec 32
  source : BitVec 8
  part : BitVec 8
  core : BitVec 8
  flags : BitVec 8
  cause : BitVec 16
  d0 : BitVec 32
  d1 : BitVec 32
  d2 : BitVec 32
  d3 : BitVec 32
  deriving DecidableEq, Repr

/-- The boot stages of R479–R481. -/
inductive BootStage where
  /-- RESET_N low, or VDD_STBY absent -/
  | down
  /-- stage 1: the boot ROM verifies the firmware images -/
  | rom
  /-- stage 2: the rails are switched on in order; rail k (0–5 in stage order) is rising -/
  | rails (k : Nat)
  /-- stage 3 -/
  | fll
  /-- stage 4 -/
  | selfTest
  /-- stage 5 -/
  | complete
  | recovery
  | railFail
  deriving DecidableEq, Repr

/-- A firmware image being received (R446). -/
structure FwUpload where
  active : Bool := false
  /-- the session that sends it -/
  owner : SessionId := .pf
  /-- an image is being checked and written -/
  committing : Bool := false
  /-- that image was received whole and its length is within the limit -/
  commitOk : Bool := false
  length : Nat := 0
  bytes : Table Byte := []
  deriving DecidableEq, Repr

/-- The service island (R496, R440, R454). -/
structure Svc where
  boot : BootStage := .down
  fallback : Bool := false
  major : BitVec 8 := 0
  /-- rails on, in R365's order 0–5 -/
  rails : BitVec 6 := 0
  resetCause : BitVec 3 := 0
  resets : BitVec 16 := 0
  retire : BitVec 64 := 0
  selftestFail : BitVec 64 := 0
  repair : Table (BitVec 11) := []
  faults : Table FaultRec := []
  faultSeq : BitVec 32 := 0
  faultRead : BitVec 32 := 0
  faultLost : BitVec 32 := 0
  /-- service-island time in ms -/
  timeMs : Nat := 0
  /-- audit entries held, oldest first, at most 1,024 (R454) -/
  audit : List AuditEntry := []
  auditSeq : BitVec 32 := 0
  unforwarded : Nat := 0
  lost : BitVec 16 := 0
  /-- the lost count that the next forwarded batch reports (R454) -/
  lostToReport : BitVec 16 := 0
  /-- the installer key that SET_MODE item 2 stored; none is the shipped key (R440) -/
  installerKey : Option (List Byte) := none
  fw : FwUpload := {}
  /-- which of the two firmware images of the SPI NOR runs (R446, R480) -/
  image : Nat := 0
  slotId : BitVec 3 := 0
  vddStby : Bool := true
  deriving DecidableEq, Repr

/-- A peek selection (R527). -/
structure PeekSel where
  index : BitVec 12 := 0
  enable : Bool := false
  carrier : BitVec 2 := 0
  deriving DecidableEq, Repr

/-- A test access port: the instruction in force and the boundary register (R504, R506). -/
structure Tap where
  /-- TRST_N holds the port in Test-Logic-Reset -/
  held : Bool := true
  ir : BitVec 8 := 0x01
  boundary : BitVec 256 := 0
  deriving DecidableEq, Repr

/-- The EV9 debug registers (R527). -/
structure Debug where
  sel : Table PeekSel := []
  unlockPf : BitVec 2 := 0
  unlockSmb : BitVec 2 := 0
  jtagRefused : Bool := false
  factoryLow : Bool := false
  changes : BitVec 32 := 0
  tap : Tap := {}
  /-- the signal index and level of each pin when THERMTRIP_N stopped the islands (R531) -/
  held : Table (Nat × Bool) := []
  deriving DecidableEq, Repr

/-- A 4-byte read latch of a carrier (R74). -/
structure ReadLatch where
  addr : BitVec 26
  high : BitVec 32
  deriving DecidableEq, Repr

/-- The chip-wide registers (R73, R471). -/
structure ChipRegs where
  strict : Bool := false
  trPresent : Bool := false
  trLost : Bool := false
  trHoldover : Bool := false
  freqErr : BitVec 16 := 0
  curlLimit : BitVec 32 := 0x01000000
  drainLimit : BitVec 32 := 100000
  latchPf : Option ReadLatch := none
  latchSmb : Option ReadLatch := none
  deriving DecidableEq, Repr

/-- The EV9. -/
structure Ev9 where
  chip : ChipRegs := {}
  parts : Table Part := []
  cores : Table Core := []
  clusters : Table Cluster := []
  banks : Table Bank := []
  /-- scratch accesses that are not yet applied, in order of arrival (R108) -/
  scr : List ScrAccess := []
  /-- tier, scratch and operand-buffer bytes by internal address -/
  mem : List Host.Cell := []
  /-- poisoned 16-byte words, by address / 16, rising -/
  poison : List Nat := []
  members : Table Member := []
  noc : Noc := {}
  ports : Table Port := []
  hif : Hif := {}
  power : Power := {}
  therm : Therm := {}
  svc : Svc := {}
  sessPf : Session := {}
  sessSmb : Session := {}
  smb0 : TwoWire := {}
  smb1 : TwoWire := { speed := 2 }
  dbg : Debug := {}
  deriving DecidableEq, Repr

/-! ## The NW8 -/

/-- The slot channel states of R397. -/
inductive ChanState where
  | off | discharging | inrush | on | waitRetry | latched | blocked
  deriving DecidableEq, Repr

/-- The slot fault codes. -/
inductive SlotFault where
  | none | short | breaker | reversed | inrushTimeout | dischargeFail | thermtrip | coolant
  deriving DecidableEq, Repr

/-- The rack order of a slot (R447). -/
inductive RackOrder where
  | none | on | off
  deriving DecidableEq, Repr

/-- One slot channel with its orders and caps (R397, R418, R457). -/
structure TrayCh where
  breaker : BitVec 5 := 26
  restoreOn : Bool := false
  isolate : Bool := false
  state : ChanState := .off
  fault : SlotFault := .none
  present : Bool := false
  opened : Bool := false
  resetLow : Bool := false
  brakeLow : Bool := false
  alertLow : Bool := false
  aborts : BitVec 5 := 0
  current : BitVec 16 := 0
  volts : BitVec 16 := 0
  tripPeak : BitVec 16 := 0
  tripDidt : BitVec 12 := 0
  tripTime : BitVec 32 := 0
  hostOn : Bool := false
  rack : RackOrder := .none
  populated : Bool := true
  hostCap : BitVec 10 := 900
  ceiling : BitVec 10 := 900
  effective : BitVec 10 := 300
  source : BitVec 2 := 0
  share : BitVec 10 := 900
  /-- BRAKE_N under R450 or R451 -/
  capBrake : Bool := false
  /-- BRAKE_N of a SHED, not yet released (R451) -/
  shedBrake : Bool := false
  /-- the slot's EV9 has answered the last cap written (R450) -/
  capAnswered : Bool := true
  /-- bus voltage sampled at the start of INRUSH, in mV (R400) -/
  vs : Nat := 0
  /-- the ramp and the inrush timer hold (R400) -/
  hold : Bool := false
  /-- the interval in ms of the retry that the channel waits for, without its slot's share, and that of its next abort (R400) -/
  retryMs : Nat := 500
  retryNext : Nat := 500
  /-- seconds since the output of a channel in WAIT_RETRY fell below 2 V; none while it is above (R398, R400) -/
  lowSecs : Option Nat := none
  /-- seconds since the gate was turned off, and again since the output fell below 2 V (R398, R436) -/
  offSecs : Nat := 0
  /-- seconds since RESET_N rose (R484) -/
  upSecs : Nat := 0
  /-- seconds since SLOT_SWAP arrived (R495) -/
  swapSecs : Nat := 0
  /-- a new ON order must come before the channel leaves OFF (R403) -/
  awaitOrder : Bool := false
  /-- the cap last written to the slot's EV9 in W, 0 before the first (R414, R450) -/
  written : BitVec 10 := 0
  /-- a module present waits for its self-check (R484) -/
  identified : Bool := false
  checked : Bool := false
  /-- SLOT_SWAP stage 1–7, or none (R495) -/
  swap : Option Nat := none
  deriving DecidableEq, Repr

/-- One lamp (R411–R413). -/
structure Lamp where
  requested : BitVec 3 := 0
  /-- the pattern shown when kept mode began (R414, R415) -/
  kept : BitVec 3 := 0
  opened : Bool := false
  short : Bool := false
  deriving DecidableEq, Repr

/-- One backup fan (R410). -/
structure Fan where
  duty : BitVec 8 := 30
  tach : BitVec 16 := 0
  fault : Bool := false
  /-- seconds for which it has read below 500 rpm at a duty of 30 % or more (R410) -/
  slowSeconds : Nat := 0
  deriving DecidableEq, Repr

/-- Coolant sensing and the emergency (R406–R410). -/
structure Coolant where
  leak : Bool := false
  swapped : Bool := false
  flowReversed : Bool := false
  flowLow : Bool := false
  supplyHot : Bool := false
  pumpFault : Bool := false
  emergency : Bool := false
  sensorFault : Bool := false
  ts : Int := 0
  tr : Int := 0
  flow : Int := 0
  liveWatts : Nat := 0
  duty : BitVec 8 := 60
  tach : BitVec 16 := 0
  derate : BitVec 10 := 900
  kfactor : BitVec 16 := 1000
  /-- seconds for which D_raw has been below 300 W (R409) -/
  lowSeconds : Nat := 0
  /-- seconds for which the flow has been below −0.2 L/min (R408) -/
  reverseSeconds : Nat := 0
  /-- seconds since the emergency began and since the leak was found (R409) -/
  alarmSeconds : Nat := 0
  leakSeconds : Nat := 0
  /-- seconds for which no condition of the emergency has been found (R409) -/
  clearSeconds : Nat := 0
  deriving DecidableEq, Repr

/-- The hold domain's own registers (R414–R417). -/
structure Hold where
  kept : Bool := false
  cause : BitVec 4 := 0
  restarts : BitVec 16 := 0
  jtagRefused : Bool := false
  wdt : BitVec 8 := 20
  auto : BitVec 12 := 30
  autonomous : Bool := false
  timeMs : Nat := 0
  /-- hold-domain time of the last upstream command; none since VAUX power-up (R417) -/
  lastCmd : Option Nat := none
  /-- hardware events recorded in kept mode: hold-domain time and slot (8: the leak rope) (R415, R421) -/
  events : List (Nat × Nat) := []
  /-- time of the last watchdog kick -/
  lastKick : Nat := 0
  peek0 : BitVec 8 := 0
  peek1 : BitVec 8 := 0
  deriving DecidableEq, Repr

/-- The work that a DEFERRED command of the NW8 waits for. -/
inductive NwWork where
  /-- SLOT_POWER ON: slots awaited, slots not waited for, overriding source -/
  | slotOn (waits : BitVec 8) (overridden : BitVec 8) (src : BitVec 8)
  | slotOff (waits : BitVec 8) (overridden : BitVec 8) (src : BitVec 8)
  | swap (n : TraySlot)
  | fwCommit
  deriving DecidableEq, Repr

/-- A command of the NW8 awaiting its final reply. -/
structure NwDeferred where
  via : Carrier
  tag : BitVec 16
  work : NwWork
  deriving DecidableEq, Repr

/-- The NW8 (R396–R425, R426–R457, R515). -/
structure Nw8 where
  /-- the CPU firmware runs (R417) -/
  running : Bool := false
  hold : Hold := {}
  busMv : Nat := 0
  feedReversed : Bool := false
  chans : Table TrayCh := []
  lamps : Table Lamp := []
  /-- locate conditions of slots 0–7 and of the tray (8) (R412) -/
  locates : List Nat := []
  /-- those of them that end by themselves, with the seconds that they have left -/
  locTimed : Table Nat := []
  cool : Coolant := {}
  fans : Table Fan := []
  budget : BitVec 14 := 12000
  overhead : BitVec 8 := 80
  budgetReceived : Bool := false
  sessHost : Session := {}
  sessRack : Session := {}
  host : TwoWire := {}
  rackPort : TwoWire := {}
  down : Table TwoWire := []
  /-- entries of the FRAM log, oldest first, at most 8,192 (R455) -/
  audit : List AuditEntry := []
  auditSeq : BitVec 32 := 0
  wraps : BitVec 16 := 0
  /-- the place in the FRAM ring that the next entry takes (R455) -/
  logPos : Nat := 0
  deferred : List NwDeferred := []
  installerKey : Option (List Byte) := none
  fw : FwUpload := {}
  major : Option (BitVec 8) := none
  /-- FACTORY_N jumper fitted (R440) -/
  factoryLow : Bool := false
  unlockHost : BitVec 2 := 0
  unlockRack : BitVec 2 := 0
  addr : BitVec 2 := 0
  tap : Tap := {}
  deriving DecidableEq, Repr

/-- The default of the NW8's downstream ports: speed 1 MHz (R457). -/
def TwoWire.downstream : TwoWire := { speed := 2 }

/-- The platform's state. -/
structure State where
  /-- the commands that wait, first in, first out -/
  pending : List Instr := []
  ev9 : Ev9 := {}
  nw8 : Nw8 := {}
  /-- what has left the chips, oldest first (log 5) -/
  outbox : List Out := []
  /-- the counter from which free values are drawn (log 4) -/
  fresh : Nat := 0
  /-- W1C bits that a hardware event has set in the present beat, as 64 × offset + bit, with their value before it (R9, R10) -/
  w1cNow : List (Nat × Bool) := []
  /-- pulse signals of the peek pins in the present beat, an NW8 signal as 4,096 + index (R507, R515) -/
  pulses : List Nat := []
  deriving DecidableEq, Repr

/-- The platform right after reset: VDD_STBY and VAUX valid, RESET_N low, nothing else running (R414, R477). -/
def State.reset : State := {}

end Sys2Proof.Machine
end

