-- ==== Sys2Proof/Machine/Table.lean ====
section
/-! DEFINITION. Table.lean: the operations over the sparse tables, the finite sets of numbers, the byte strings and the
memory that State holds. Every one of them keeps its canonical form. -/

namespace Sys2Proof.Machine

open Sys2Proof

/-! ## Tables -/

/-- The entry at index `k`, if the table lists one. -/
def tfind {α : Type} (t : Table α) (k : Nat) : Option α :=
  match t with
  | [] => none
  | (i, v) :: r => if i == k then some v else tfind r k

/-- The entry at index `k`; `d` where the table lists none. -/
def tget {α : Type} (d : α) (t : Table α) (k : Nat) : α := (tfind t k).getD d

/-- The table without an entry at index `k`. -/
def tdel {α : Type} (t : Table α) (k : Nat) : Table α :=
  match t with
  | [] => []
  | (i, v) :: r => if i == k then tdel r k else (i, v) :: tdel r k

/-- The table with entry `v` at index `k`, indices rising. -/
def tins {α : Type} (t : Table α) (k : Nat) (v : α) : Table α :=
  match t with
  | [] => [(k, v)]
  | (i, w) :: r => if k < i then (k, v) :: (i, w) :: r else if i == k then (k, v) :: r else (i, w) :: tins r k v

/-- The table with `v` at index `k`; an entry equal to the default `d` is not listed. -/
def tput {α : Type} [DecidableEq α] (d : α) (t : Table α) (k : Nat) (v : α) : Table α :=
  if v = d then tdel t k else tins t k v

/-- The table with the entry at `k` changed by `f`. -/
def tmod {α : Type} [DecidableEq α] (d : α) (t : Table α) (k : Nat) (f : α → α) : Table α :=
  tput d t k (f (tget d t k))

/-- The canonical form: indices strictly rising and no entry equal to the default. -/
def twf {α : Type} [DecidableEq α] (d : α) (t : Table α) : Bool :=
  match t with
  | [] => true
  | (i, v) :: r => decide (v ≠ d) && r.all (fun e => i < e.1) && twf d r

/-! ## Sets of numbers, held rising -/

/-- The set with `n` added. -/
def sadd (l : List Nat) (n : Nat) : List Nat :=
  match l with
  | [] => [n]
  | m :: r => if n < m then n :: m :: r else if m == n then m :: r else m :: sadd r n

/-- The set without `n`. -/
def sdel (l : List Nat) (n : Nat) : List Nat := l.filter fun m => m != n

/-! ## Byte strings, little-endian (R4) -/

/-- The number that the bytes spell, least significant byte first. -/
def leNat : List Byte → Nat
  | [] => 0
  | b :: r => b.toNat + 256 * leNat r

/-- The `n` bytes of a number, least significant byte first. -/
def leBytes (n : Nat) (x : Nat) : List Byte :=
  match n with
  | 0 => []
  | k + 1 => BitVec.ofNat 8 x :: leBytes k (x / 256)

/-- Byte `i` of a byte string, 0 past its end. -/
def byteAt (l : List Byte) (i : Nat) : Byte := (l[i]?).getD 0

/-- The `n` bytes from byte `i`. -/
def slice (l : List Byte) (i n : Nat) : List Byte := (l.drop i).take n

/-- The number in the `n` bytes from byte `i`. -/
def fieldAt (l : List Byte) (i n : Nat) : Nat := leNat (slice l i n)

/-- The byte string cut or filled with zeros to `n` bytes. -/
def padTo (n : Nat) (l : List Byte) : List Byte := l.take n ++ List.replicate (n - l.length) 0

/-- The numbers from `a`, `n` of them. -/
def upFrom (a n : Nat) : List Nat := (List.range n).map fun i => a + i

/-! ## Memory: address and byte pairs, addresses strictly rising, no listed byte 0; an unlisted byte reads 0 (log 2) -/

/-- The byte at an address. -/
def memRead (m : List Host.Cell) (a : Nat) : Byte := tget 0 m a

/-- The memory with one byte written. -/
def memWrite (m : List Host.Cell) (a : Nat) (b : Byte) : List Host.Cell := tput 0 m a b

/-- The `n` bytes from an address. -/
def memReads (m : List Host.Cell) (a n : Nat) : List Byte := (upFrom a n).map (memRead m)

/-- The memory with a byte string written from an address. -/
def memWrites (m : List Host.Cell) (a : Nat) (l : List Byte) : List Host.Cell :=
  match l with
  | [] => m
  | b :: r => memWrites (memWrite m a b) (a + 1) r

/-- The canonical form of memory. -/
def Memory.wf (m : List Host.Cell) : Bool := twf 0 m

end Sys2Proof.Machine
end

