-- ==== Sys2Proof/Machine/Ops.lean ====
section
/-! DEFINITION. Ops.lean: the named operations that every family uses: the accessors of the state's parts, outputs, free
values, Host Notify, fault records and audit entries. -/

namespace Sys2Proof

/-- A role as a number (R439, R453). -/
def Role.num : Role → Nat
  | .operator => 0
  | .installer => 1
  | .maker => 2

/-- The role rank suffices. -/
def Role.atLeast (need have_ : Role) : Bool := decide (need.num ≤ have_.num)

end Sys2Proof

namespace Sys2Proof.Machine

open Sys2Proof

/-! ## Outputs and free values -/

/-- Something leaves the chips (log 5). -/
def emit (o : Out) (s : State) : State := { s with outbox := s.outbox ++ [o] }

/-- The state after a free value has been drawn (log 4). -/
def drawn (s : State) : State := { s with fresh := s.fresh + 1 }

/-- The EV9 changed by `f`. -/
def onEv9 (f : Ev9 → Ev9) (s : State) : State := { s with ev9 := f s.ev9 }

/-- The NW8 changed by `f`. -/
def onNw8 (f : Nw8 → Nw8) (s : State) : State := { s with nw8 := f s.nw8 }

/-! ## Accessors -/

/-- Partition `p`. -/
def Ev9.part (e : Ev9) (p : Nat) : Part := tget {} e.parts p
/-- Partition `p` changed by `f`. -/
def Ev9.onPart (p : Nat) (f : Part → Part) (e : Ev9) : Ev9 := { e with parts := tmod {} e.parts p f }
/-- Core `c`. -/
def Ev9.core (e : Ev9) (c : Nat) : Core := tget {} e.cores c
/-- Core `c` changed by `f`. -/
def Ev9.onCore (c : Nat) (f : Core → Core) (e : Ev9) : Ev9 := { e with cores := tmod {} e.cores c f }
/-- Cluster `k`. -/
def Ev9.cluster (e : Ev9) (k : Nat) : Cluster := tget {} e.clusters k
/-- Cluster `k` changed by `f`. -/
def Ev9.onCluster (k : Nat) (f : Cluster → Cluster) (e : Ev9) : Ev9 := { e with clusters := tmod {} e.clusters k f }
/-- Port `n`. -/
def Ev9.port (e : Ev9) (n : Nat) : Port := tget {} e.ports n
/-- Port `n` changed by `f`. -/
def Ev9.onPort (n : Nat) (f : Port → Port) (e : Ev9) : Ev9 := { e with ports := tmod {} e.ports n f }
/-- Ring `r`; 65,536 is the management ring. -/
def Ev9.ring (e : Ev9) (r : Nat) : Ring := tget {} e.hif.rings r
/-- The host interface changed by `f`. -/
def Ev9.onHif (f : Hif → Hif) (e : Ev9) : Ev9 := { e with hif := f e.hif }
/-- Ring `r` changed by `f`. -/
def Ev9.onRing (r : Nat) (f : Ring → Ring) (e : Ev9) : Ev9 := e.onHif fun h => { h with rings := tmod {} h.rings r f }
/-- Stream slot `n`. -/
def Ev9.slot (e : Ev9) (n : Nat) : StreamSlot := tget {} e.hif.slots n
/-- Stream slot `n` changed by `f`. -/
def Ev9.onSlot (n : Nat) (f : StreamSlot → StreamSlot) (e : Ev9) : Ev9 :=
  e.onHif fun h => { h with slots := tmod {} h.slots n f }
/-- The member of troupe `t` on this chip, if there is one. -/
def Ev9.member? (e : Ev9) (t : Nat) : Option Member := tfind e.members t
/-- The member of troupe `t` changed by `f`; nothing where there is none. -/
def Ev9.onMember (t : Nat) (f : Member → Member) (e : Ev9) : Ev9 :=
  match tfind e.members t with
  | none => e
  | some m => { e with members := tins e.members t (f m) }
/-- The service island changed by `f`. -/
def Ev9.onSvc (f : Svc → Svc) (e : Ev9) : Ev9 := { e with svc := f e.svc }
/-- Thread `t` of a core. -/
def Core.thread (c : Core) (t : Nat) : Thread := tget {} c.threads t
/-- Thread `t` of a core changed by `f`. -/
def Core.onThread (t : Nat) (f : Thread → Thread) (c : Core) : Core := { c with threads := tmod {} c.threads t f }
/-- A thread with its registers changed by `f`. -/
def Thread.onRegs (f : ThreadRegs → ThreadRegs) (t : Thread) : Thread := { t with regs := f t.regs }
/-- Slot channel `n` of the tray. -/
def Nw8.chan (w : Nw8) (n : Nat) : TrayCh := tget {} w.chans n
/-- Slot channel `n` changed by `f`. -/
def Nw8.onChan (n : Nat) (f : TrayCh → TrayCh) (w : Nw8) : Nw8 := { w with chans := tmod {} w.chans n f }
/-- Downstream port `n` of the NW8. -/
def Nw8.downPort (w : Nw8) (n : Nat) : TwoWire := tget TwoWire.downstream w.down n
/-- Downstream port `n` changed by `f`. -/
def Nw8.onDown (n : Nat) (f : TwoWire → TwoWire) (w : Nw8) : Nw8 :=
  { w with down := tmod TwoWire.downstream w.down n f }

/-- A partition changed by `f`. -/
def onPart (p : Nat) (f : Part → Part) (s : State) : State := onEv9 (Ev9.onPart p f) s
/-- A core changed by `f`. -/
def onCore (c : Nat) (f : Core → Core) (s : State) : State := onEv9 (Ev9.onCore c f) s
/-- A port changed by `f`. -/
def onPort (n : Nat) (f : Port → Port) (s : State) : State := onEv9 (Ev9.onPort n f) s
/-- A member changed by `f`. -/
def onMember (t : Nat) (f : Member → Member) (s : State) : State := onEv9 (Ev9.onMember t f) s

/-- The partition of a core (R2, R341). -/
def partOf (c : Nat) : Nat := c / 8
/-- The cluster of a core (R2). -/
def clusterOf (c : Nat) : Nat := c / 4

/-- Bit `i` of a mask. -/
def maskBit {n : Nat} (m : BitVec n) (i : Nat) : Bool := m.getLsbD i
/-- A mask with one bit set. -/
def setBit {n : Nat} (m : BitVec n) (i : Nat) : BitVec n := m ||| BitVec.ofNat n (2 ^ i)
/-- A mask with one bit cleared. -/
def clrBit {n : Nat} (m : BitVec n) (i : Nat) : BitVec n := m &&& ~~~ (BitVec.ofNat n (2 ^ i))
/-- The partitions of a mask, rising. -/
def maskParts (m : BitVec 8) : List Nat := (List.range 8).filter fun p => maskBit m p
/-- A saturating increment. -/
def satAdd {n : Nat} (x : BitVec n) (k : Nat) : BitVec n := BitVec.ofNat n (min (x.toNat + k) (2 ^ n - 1))
/-- A Boolean as a number. -/
def bit (b : Bool) : Nat := if b then 1 else 0

/-- The troupe id and member that a partition belongs to (R12). -/
def Ev9.memberOf (e : Ev9) (p : Nat) : Option (Nat × Member) := e.members.find? fun m => maskBit m.2.mask p

/-- The image of the member is running (R345). -/
def Member.isRunning (m : Member) : Bool := m.run == .running || m.run == .starting

/-- The partitions of a member, rising. -/
def Member.parts (m : Member) : List Nat := maskParts m.mask

/-- The core is retired in this life of its partition (R485). -/
def Ev9.retired (e : Ev9) (c : Nat) : Bool := (e.core c).retired

/-- The partition's islands run: it is ON, or DRAINING, where queued engine instructions still complete (R342, R346). -/
def Part.runs (x : Part) : Bool := x.state == .on || x.state == .draining

/-- The partition runs and is neither frozen, held nor stopped on a fault (R59, R67, R486). -/
def Part.free (x : Part) : Bool := x.runs && !x.curl.curled && !x.curl.held && !x.stopped

/-- The chip runs: boot is complete, and THERMTRIP_N has not stopped its islands (R385, R479). -/
def Ev9.up (e : Ev9) : Bool := e.svc.boot == .complete && !e.therm.trip

/-- The member's steps let schedule beats run: they stand while it waits for a cue and once it has stopped (R28, R32). -/
def Member.beats (m : Member) : Bool :=
  match m.run with
  | .idle | .starting => true
  | .running => m.inStep
  | .stopped => false

/-- Island `i` of a partition: 0–7 its cores, 8 and 9 its clusters. -/
def Part.island (x : Part) (i : Nat) : Isl := tget {} x.clk.isl i

/-- A deep droop has stopped the island's clock; in strict mode the stop is a curl of the group instead (R51, R52). -/
def Part.islandStopped (strict : Bool) (x : Part) (i : Nat) : Bool := !strict && (x.island i).deep

/-- The partition takes schedule beats: it is neither frozen nor stopped, its member is within a step, and some island of it has a
running clock (R51). -/
def Ev9.live (e : Ev9) (p : Nat) : Bool :=
  e.up && (e.part p).free && (List.range 10).any (fun i => !(e.part p).islandStopped e.chip.strict i)
    && ((e.part p).state == .draining || match e.memberOf p with
      | none => true
      | some (_, m) => m.beats)

/-- A thread, engine, mover or ASU of core `c` can act (R51, R59, R485). -/
def Ev9.coreLive (e : Ev9) (c : Nat) : Bool :=
  e.live (partOf c) && !e.retired c && !(e.part (partOf c)).islandStopped e.chip.strict (c % 8)

/-- `n` fifteenths of class `j` in a partition. -/
def activity (p j n : Nat) (s : State) : State :=
  if n = 0 then s else onPart p (fun x => { x with activity := tmod 0 x.activity j fun a => a + n }) s

/-! ## Host Notify (R434) -/

/-- The Host Notify word of SMB_0. -/
def smbWord (e : Ev9) : Nat :=
  min e.smb0.replies.length 8 + 0x4000 * bit e.smb0.news + 0x8000 * bit (decide (0 < e.svc.unforwarded))

/-- The Host Notify word of an upstream port of the NW8. -/
def nwWord (p : TwoWire) : Nat := min p.replies.length 8 + 0x4000 * bit p.news

/-- SMB_0 calls its controller when its word changes from zero (R434). -/
def callSmb (before : Nat) (s : State) : State :=
  if before = 0 ∧ smbWord s.ev9 ≠ 0 ∧ s.ev9.smb0.notify = true then
    emit (.hostNotify .smb0 (BitVec.ofNat 16 (smbWord s.ev9))) s
  else s

/-- The EV9 changed by `f`, with SMB_0's call if its word changes from zero. -/
def withSmb (f : State → State) (s : State) : State := callSmb (smbWord s.ev9) (f s)

/-- A target port of the NW8 changed by `f`; it calls if its word changes from zero. -/
def callsAfter (f : TwoWire → TwoWire) (p : TwoWire) : Bool := nwWord p == 0 && nwWord (f p) != 0 && p.notify

/-- The HOST port of the NW8 changed by `f`, with its call if its word changes from zero. -/
def onHostPort (f : TwoWire → TwoWire) (s : State) : State :=
  let call := callsAfter f s.nw8.host
  let s := onNw8 (fun w => { w with host := f w.host }) s
  if call then emit (.hostNotify .nwHost (BitVec.ofNat 16 (nwWord s.nw8.host))) s else s

/-- The RACK port of the NW8 changed by `f`, with its call if its word changes from zero. -/
def onRackPort (f : TwoWire → TwoWire) (s : State) : State :=
  let call := callsAfter f s.nw8.rackPort
  let s := onNw8 (fun w => { w with rackPort := f w.rackPort }) s
  if call then emit (.hostNotify .nwRack (BitVec.ofNat 16 (nwWord s.nw8.rackPort))) s else s

/-- Bit 14 of the NW8's Host Notify words: a new fault or amber-lamp condition (R434). -/
def nwNews (s : State) : State :=
  onRackPort (fun p => { p with news := true }) (onHostPort (fun p => { p with news := true }) s)

/-- A pulse signal of the peek pins in this beat (R507). -/
def pulse (i : Nat) (s : State) : State := { s with pulses := sadd s.pulses i }

/-! ## W1C bits that an event sets (R9, R10) -/

/-- The place of a bit of a register among the W1C bits. -/
def w1cKey (off i : Nat) : Nat := 64 * off + i

/-- A hardware event sets a W1C bit in this beat, whose value before was `before`. -/
def noteSet (off i : Nat) (before : Bool) (s : State) : State :=
  if s.w1cNow.any fun x => x.1 == w1cKey off i then s else { s with w1cNow := s.w1cNow ++ [(w1cKey off i, before)] }

/-- A W1C bit after a write: a 1 clears it, unless a hardware event has set it in this beat (R9). -/
def State.w1c (s : State) (off : Nat) (v : Dword) (i : Nat) (b : Bool) : Bool :=
  b && (!v.getLsbD i || s.w1cNow.any fun x => x.1 == w1cKey off i)

/-- A W1C bit as a read returns it: as it stood before an event of this beat (R10). -/
def State.w1cRead (s : State) (off i : Nat) (b : Bool) : Bool :=
  match s.w1cNow.find? fun x => x.1 == w1cKey off i with
  | some x => x.2
  | none => b

/-- The place of an NW8 register among the offsets of W1C bits: beyond BAR0. -/
def offNw8 (addr : Nat) : Nat := 0x4000000 + addr
/-- The offset of CORE_STATUS_c. -/
def offCoreStatus (c : Nat) : Nat := 0x2000000 + 0x10000 * c
/-- The offset of CORE_ACORN_c_i. -/
def offAcorn (c i : Nat) : Nat := offCoreStatus c + 0x100 + 8 * i
/-- The offset of TIER_STATUS_p. -/
def offTierStatus (p : Nat) : Nat := 0x2800100 + 0x40 * p

/-! ## Fault records (R492, R493) -/

/-- What a rule puts into a fault record. -/
structure FaultArgs where
  source : Nat
  part : Option Nat
  core : Nat := 0xFF
  stepFault : Bool := false
  held : Bool := false
  /-- the step that the record names, where it is not the partition's present one -/
  step : Option Nat := none
  cause : Nat
  d0 : Nat := 0
  d1 : Nat := 0
  d2 : Nat := 0
  d3 : Nat := 0
  deriving DecidableEq, Repr

/-- The 32-byte record of R492: a partition's record carries its beat count and step, a chip record the time in ms. -/
def Ev9.mkRec (e : Ev9) (a : FaultArgs) : FaultRec where
  stamp := match a.part with
    | some p => BitVec.ofNat 48 (e.part p).clk.beatCount.toNat
    | none => BitVec.ofNat 48 e.svc.timeMs
  step := match a.part with
    | some p => BitVec.ofNat 32 (a.step.getD (e.part p).clk.step.toNat)
    | none => 0
  source := BitVec.ofNat 8 a.source
  part := match a.part with
    | some p => BitVec.ofNat 8 (p % 8)
    | none => 0x80
  core := BitVec.ofNat 8 a.core
  flags := BitVec.ofNat 8 (bit e.chip.strict + 2 * bit a.stepFault + 4 * bit a.held)
  cause := BitVec.ofNat 16 a.cause
  d0 := BitVec.ofNat 32 a.d0
  d1 := BitVec.ofNat 32 a.d1
  d2 := BitVec.ofNat 32 a.d2
  d3 := BitVec.ofNat 32 a.d3

/-- The record that a never written entry of the fault ring reads as: zeros (R496). -/
def FaultRec.blank : FaultRec := ⟨0, 0, 0, 0, 0, 0, 0, 0, 0, 0, 0⟩

/-- Record number s goes to entry s mod 256; a record that overwrites one beyond SVC_FAULT_READ is counted lost (R493). -/
def Svc.addRec (r : FaultRec) (v : Svc) : Svc :=
  { v with
    faults := tput FaultRec.blank v.faults (v.faultSeq.toNat % 256) r
    faultSeq := v.faultSeq + 1
    faultLost := if 256 ≤ (v.faultSeq - v.faultRead).toNat then satAdd v.faultLost 1 else v.faultLost }

/-- A fault record is written: the ring, MSI-X vector 1 of the physical function and bit 14 of SMB_0's word (R493). -/
def faultRecord (a : FaultArgs) (s : State) : State :=
  emit (.msix 0 1) (withSmb (onEv9 fun e =>
    { e.onSvc (Svc.addRec (e.mkRec a)) with smb0 := { e.smb0 with news := true } }) s)

/-! ## Audit entries (R453–R455) -/

/-- What an audit entry carries. -/
structure AuditArgs where
  /-- 0 physical function or HOST, 1 SMB_0 or RACK, 2 internal -/
  carrier : Nat
  kind : Nat
  role : Role := .operator
  status : Nat := 0
  what : Nat := 0
  detail : Nat := 0
  deriving DecidableEq, Repr

/-- The audit entry of R453. -/
def mkAudit (time : Nat) (seq : BitVec 32) (a : AuditArgs) : AuditEntry where
  time := BitVec.ofNat 64 time
  seq := seq
  carrier := BitVec.ofNat 8 a.carrier
  kind := BitVec.ofNat 8 a.kind
  role := BitVec.ofNat 8 (Role.num a.role)
  status := BitVec.ofNat 8 a.status
  what := BitVec.ofNat 32 a.what
  detail := BitVec.ofNat 96 a.detail

/-- The EV9's log takes an entry. With 1,024 entries held the oldest gives way; if every entry is unforwarded it is lost and
counted (R454). -/
def Svc.addAudit (a : AuditArgs) (v : Svc) : Svc :=
  let full := decide (1024 ≤ v.audit.length)
  let lose := decide (1024 ≤ v.unforwarded)
  { v with
    audit := (if full then v.audit.drop 1 else v.audit) ++ [mkAudit v.timeMs v.auditSeq a]
    auditSeq := v.auditSeq + 1
    unforwarded := if lose then v.unforwarded else v.unforwarded + 1
    lost := if lose then satAdd v.lost 1 else v.lost
    lostToReport := if lose then satAdd v.lostToReport 1 else v.lostToReport }

/-- An entry in the EV9's audit log; bit 15 of SMB_0's word says that it waits. -/
def auditEv9 (a : AuditArgs) (s : State) : State := withSmb (onEv9 (Ev9.onSvc (Svc.addAudit a))) s

/-- The NW8's log takes an entry: a ring of 8,192, whose wraps are counted (R455). -/
def Nw8.addEntry (x : AuditEntry) (w : Nw8) : Nw8 :=
  { w with
    audit := (if 8192 ≤ w.audit.length then w.audit.drop 1 else w.audit) ++ [x]
    logPos := (w.logPos + 1) % 8192
    wraps := if w.logPos + 1 = 8192 then satAdd w.wraps 1 else w.wraps }

/-- An entry of the NW8's own. -/
def auditNw8 (a : AuditArgs) (s : State) : State :=
  onNw8 (fun w => { w.addEntry (mkAudit w.hold.timeMs w.auditSeq a) with auditSeq := w.auditSeq + 1 }) s

/-! ## Elapsed time -/

/-- An interval of `limit` ms may have passed on a clock that has advanced by `gone` ms and advances by `tick` ms at a time (log 59). -/
def mayHavePassed (tick limit gone : Nat) : Bool := decide (limit < gone + tick)

/-- A second counter's form of it: `n` whole seconds have been counted. -/
def secondsPassed (limit n : Nat) : Bool := mayHavePassed 1000 limit (1000 * n)

/-- The time in ms of a chip's clock: the service island's, or the hold domain's 32-bit counter. -/
def State.now (s : State) : Chip → Nat
  | .ev9 => s.ev9.svc.timeMs
  | .nw8 => s.nw8.hold.timeMs

/-- An interval of `limit` ms since `t` may have passed on a chip's clock: 1 ms steps on the EV9, 1 s steps of a counter of 32 bits on
the NW8 (R414, log 59). -/
def State.since (s : State) (c : Chip) (t limit : Nat) : Bool :=
  match c with
  | .ev9 => mayHavePassed 1 limit (s.now c - t)
  | .nw8 => mayHavePassed 1000 limit ((s.now c + 2 ^ 32 - t) % 2 ^ 32)

/-- An interval of `limit` ms since `t` has passed for certain on a chip's clock. -/
def State.surelySince (s : State) (c : Chip) (t limit : Nat) : Bool :=
  match c with
  | .ev9 => decide (limit + 1 ≤ s.now c - t)
  | .nw8 => decide (limit + 1000 ≤ (s.now c + 2 ^ 32 - t) % 2 ^ 32)

/-! ## Sessions (R439) -/

/-- A command of the spec that does not occur in the present state: nothing changes. -/
def stay (s : State) : Host.Outcome State Fault Refusal := .next s

/-- The EV9's session of the management carriers. -/
def Ev9.onSessPf (f : Session → Session) (e : Ev9) : Ev9 := { e with sessPf := f e.sessPf }
/-- The EV9's session of SMB_0. -/
def Ev9.onSessSmb (f : Session → Session) (e : Ev9) : Ev9 := { e with sessSmb := f e.sessSmb }

/-- A session by its carrier. -/
def State.session (s : State) : SessionId → Session
  | .pf => s.ev9.sessPf
  | .smb0 => s.ev9.sessSmb
  | .nwHost => s.nw8.sessHost
  | .nwRack => s.nw8.sessRack

/-- A session changed by `f`. -/
def onSession (i : SessionId) (f : Session → Session) (s : State) : State :=
  match i with
  | .pf => onEv9 (Ev9.onSessPf f) s
  | .smb0 => onEv9 (Ev9.onSessSmb f) s
  | .nwHost => onNw8 (fun w => { w with sessHost := f w.sessHost }) s
  | .nwRack => onNw8 (fun w => { w with sessRack := f w.sessRack }) s

/-- The carrier number of an audit entry and of a MAC (R441, R453). -/
def sessCarrier : SessionId → Nat
  | .pf | .nwHost => 0
  | .smb0 | .nwRack => 1

/-- Which chip a session is on. -/
def sessChip : SessionId → Chip
  | .pf | .smb0 => .ev9
  | .nwHost | .nwRack => .nw8

/-- An audit entry of the chip that holds the session. -/
def auditBy (i : SessionId) (a : AuditArgs) (s : State) : State :=
  match sessChip i with
  | .ev9 => auditEv9 { a with carrier := sessCarrier i } s
  | .nw8 => auditNw8 { a with carrier := sessCarrier i } s

end Sys2Proof.Machine
end

