-- ==== Sys2Proof/Machine/Reply.lean ====
section
/-! DEFINITION. Reply.lean: command packets and their replies (R312–R316, R431–R435): where a packet comes from, the four
checks of R314, the status codes, and the immediate, deferred and final replies on every carrier. -/

namespace Sys2Proof

open Sys2Proof.Machine

/-! ## Packets (R312) -/

/-- Byte `i` of a packet as a number. -/
def Packet.byte (p : Packet) (i : Nat) : Nat := (byteAt p.bytes i).toNat
/-- The field of `n` bytes from byte `i`. -/
def Packet.field (p : Packet) (i n : Nat) : Nat := fieldAt p.bytes i n
/-- The opcode. -/
def Packet.op (p : Packet) : Nat := p.byte 0
/-- Byte 1 bit 0: interrupt on the final reply. -/
def Packet.wantsInterrupt (p : Packet) : Bool := (byteAt p.bytes 1).getLsbD 0
/-- Byte 1 bit 1: the order flag of R315. -/
def Packet.ordered (p : Packet) : Bool := (byteAt p.bytes 1).getLsbD 1
/-- The tag. -/
def Packet.tag (p : Packet) : BitVec 16 := BitVec.ofNat 16 (p.field 2 2)
/-- The check word. -/
def Packet.check (p : Packet) : Nat := p.field 4 4

/-- The opcodes of R317. -/
def definedOpcodes : List Nat :=
  [0x01, 0x02, 0x10, 0x11, 0x12, 0x13, 0x14, 0x20, 0x21, 0x22, 0x23, 0x30, 0x31, 0x50, 0x80, 0x81, 0x82, 0x83, 0x88,
    0x90, 0x91, 0x92, 0x98, 0x99, 0xB0, 0xB1, 0xA0, 0xA1, 0xA8, 0xC0, 0xC8, 0xE0, 0xD0, 0xD1, 0xD4, 0xD5, 0xD8]

/-- Reserved bits of the flags are zero, and so is every byte from 8 on that no range of `used` (first byte, length) holds
(R314, check 3). -/
def Packet.reservedOk (p : Packet) (used : List (Nat × Nat)) : Bool :=
  p.byte 1 < 4 && (upFrom 8 56).all fun i =>
    p.byte i == 0 || used.any fun u => decide (u.1 ≤ i) && decide (i < u.1 + u.2)

/-! ## Carriers -/

/-- The ring index of a carrier that is a ring; 65,536 is the management ring. -/
def Carrier.ring? : Carrier → Option Nat
  | .ring r => some r.val
  | .mgmt => some 65536
  | _ => none

/-- The tenant of a tenant ring (R305). -/
def tenantOf (r : Nat) : Nat := r / 64

/-- The function that owns a ring: 0 is the physical function, tenant t is virtual function t + 1 (R300). -/
def ringFunction (r : Nat) : Nat := if r < 65536 then tenantOf r + 1 else 0

/-- The check word that a carrier demands (R312). -/
def Carrier.checkWord : Carrier → Nat
  | .ring r => r.val + tenantOf r.val * 65536
  | _ => 0x80000000

/-- The session of a management carrier (R439). -/
def Carrier.session? : Carrier → Option SessionId
  | .ring _ => none
  | .mgmt => some .pf
  | .smb0 => some .smb0
  | .nwHost => some .nwHost
  | .nwRack => some .nwRack

/-- The carrier is on the EV9. -/
def Carrier.onEv9 : Carrier → Bool
  | .ring _ | .mgmt | .smb0 => true
  | _ => false

/-- The carrier is a tenant ring: the runtime opcodes of R312. -/
def Carrier.isTenant : Carrier → Bool
  | .ring _ => true
  | _ => false

/-- The management ring or SMB_0. -/
def Carrier.isEv9Mgmt : Carrier → Bool
  | .mgmt | .smb0 => true
  | _ => false

/-- One of the NW8's upstream ports. -/
def Carrier.isNw8 : Carrier → Bool
  | .nwHost | .nwRack => true
  | _ => false

/-- The opcodes that demand the installer, and the ones that R356 records from any role (R356, R445, R449). -/
def Packet.privileged (p : Packet) (via : Carrier) : Bool :=
  [0x88, 0x90, 0x91, 0xB0, 0xC8, 0xE0].contains p.op || (p.op == 0xA0 && via.isNw8 && p.byte 10 == 3)

end Sys2Proof

namespace Sys2Proof.Machine

open Sys2Proof

/-! ## Status codes (R316) -/

def stOk : Nat := 0x00
def stDeferred : Nat := 0x01
def stBusy : Nat := 0x02
def stPending : Nat := 0x03
def stBadOpcode : Nat := 0x10
def stBadParam : Nat := 0x11
def stNotPermitted : Nat := 0x12
def stWrongState : Nat := 0x13
def stModeConflict : Nat := 0x14
def stFaultAbft : Nat := 0x20
def stFaultLink : Nat := 0x21
def stFaultMemory : Nat := 0x22
def stWaitlock : Nat := 0x23
def stBreach : Nat := 0x24
def stCapConstrained : Nat := 0x30

/-- The role that a carrier holds; tenants are operators (R439). -/
def State.role (s : State) (via : Carrier) : Role :=
  match via.session? with
  | none => .operator
  | some i => (s.session i).role

/-- Where in the EV9's host memory an IOVA of a function lies (log 5). -/
def hostKey (fn iova : Nat) : Nat := fn * 2 ^ 64 + iova % 2 ^ 64

/-- The EV9 writes bytes to host memory (R300). -/
def Ev9.hostWrite (fn iova : Nat) (l : List Byte) (e : Ev9) : Ev9 :=
  e.onHif fun h => { h with hostMem := memWrites h.hostMem (hostKey fn iova) l }

/-! ## Completion rings (R306–R309) -/

/-- Entries of a ring of an order; an order below 4 acts as 4 (R333). -/
def ringSize (order : BitVec 4) : Nat := 2 ^ max 4 order.toNat

/-- The next index of a ring. -/
def ringNext (order : BitVec 4) (i : Nat) : Nat := (i + 1) % ringSize order

/-- The completion ring has a free entry (R309). -/
def Ring.hasRoom (r : Ring) : Bool := ringNext r.cqOrder r.cqTail.toNat != r.cqHead.toNat

/-- The 16 bytes of a reply with a phase bit (R313). -/
def Reply.bytes (r : Reply) (phase : Bool) : List Byte :=
  leBytes 2 r.tag.toNat ++ [r.status, BitVec.ofNat 8 (bit phase + 2 * bit r.final)] ++ padTo 12 r.result

/-- The ring after a reply has been written at its tail. -/
def Ring.afterReply (r : Ring) (x : Reply) : Ring :=
  let n := ringNext r.cqOrder r.cqTail.toNat
  { r with
    cqTail := BitVec.ofNat 15 n
    phase := if n = 0 then !r.phase else r.phase
    inflight := if x.status = 0x01 then r.inflight else r.inflight - 1 }

/-- A reply is written at the tail of ring `r`'s completion ring. -/
def Ev9.writeReply (r : Nat) (x : Reply) (e : Ev9) : Ev9 :=
  let g := e.ring r
  let e := e.hostWrite (ringFunction r) (g.cqBase.toNat * 4096 + 16 * g.cqTail.toNat) (x.bytes g.phase)
  e.onRing r fun g => g.afterReply x

/-- A reply goes to ring `r`: it is written if the completion ring has room and no older reply is held, else it is held
(R309); an MSI-X vector follows a final reply that asked for one (R310). -/
def ringReply (r : Nat) (x : Reply) (s : State) : State :=
  let g := s.ev9.ring r
  if g.hasRoom && g.heldReplies.isEmpty then
    let s := onEv9 (Ev9.writeReply r x) s
    if x.interrupt then emit (.msix (ringFunction r) (if r < 65536 then r % 64 else 0)) s else s
  else onEv9 (Ev9.onRing r fun g => { g with heldReplies := g.heldReplies ++ [x] }) s

/-- The replies that ring `r` holds are written while the completion ring has room, at most `n` of them. -/
def releaseReplies (r : Nat) (n : Nat) (s : State) : State :=
  match n with
  | 0 => s
  | k + 1 =>
    let g := s.ev9.ring r
    match g.heldReplies with
    | [] => s
    | x :: rest =>
      if g.hasRoom then
        let s := onEv9 (Ev9.onRing r fun g => { g with heldReplies := rest }) s
        let s := onEv9 (Ev9.writeReply r x) s
        let s := if x.interrupt then emit (.msix (ringFunction r) (if r < 65536 then r % 64 else 0)) s else s
        releaseReplies r k s
      else s

/-- A reply goes to its carrier: a completion ring, or the reply queue of a two-wire port (R432). -/
def sendReply (via : Carrier) (x : Reply) (s : State) : State :=
  match via with
  | .ring r => ringReply r.val x s
  | .mgmt => ringReply 65536 x s
  | .smb0 => withSmb (onEv9 fun e => { e with smb0 := { e.smb0 with replies := e.smb0.replies ++ [x] } }) s
  | .nwHost => onHostPort (fun p => { p with replies := p.replies ++ [x] }) s
  | .nwRack => onRackPort (fun p => { p with replies := p.replies ++ [x] }) s

/-! ## Deferred commands (R316) -/

/-- FENCE commands that are first of their ring leave the list (R318); the list's other commands keep their order. -/
def sweep (kept : List Deferred) : List Deferred → List Deferred × List Deferred
  | [] => (kept, [])
  | d :: r =>
    if d.work = .fence ∧ kept.all (fun k => k.via ≠ d.via) then
      ((sweep kept r).1, d :: (sweep kept r).2)
    else sweep (kept ++ [d]) r

/-- The final reply of a deferred command. -/
def finalReply (d : Deferred) (status : Nat) (result data : List Byte) : Reply :=
  { tag := d.tag, status := BitVec.ofNat 8 status, final := true, result := result, data := data,
    interrupt := d.interrupt }

/-- Every FENCE whose earlier commands all have their final reply completes OK. -/
def sweepFences (s : State) : State :=
  let p := sweep [] s.ev9.hif.deferred
  p.2.foldl (fun s d => sendReply d.via (finalReply d stOk [] []) s)
    (onEv9 (Ev9.onHif fun h => { h with deferred := p.1 }) s)

/-- Every deferred command that `sel` picks gets its final reply. -/
def finish (sel : Deferred → Bool) (status : Deferred → Nat) (result : Deferred → List Byte) (s : State) : State :=
  let done := s.ev9.hif.deferred.filter sel
  sweepFences (done.foldl (fun s d => sendReply d.via (finalReply d (status d) (result d) []) s)
    (onEv9 (Ev9.onHif fun h => { h with deferred := h.deferred.filter fun d => !sel d }) s))

/-- Every deferred command that `sel` picks ends without a reply (R336). -/
def dropDeferred (sel : Deferred → Bool) (s : State) : State :=
  let done := s.ev9.hif.deferred.filter sel
  sweepFences (done.foldl (fun s d =>
      match d.via.ring? with
      | some r => onEv9 (Ev9.onRing r fun g => { g with inflight := g.inflight - 1 }) s
      | none => s)
    (onEv9 (Ev9.onHif fun h => { h with deferred := h.deferred.filter fun d => !sel d }) s))

/-- The commands of a carrier that await their final reply. -/
def Ev9.awaiting (e : Ev9) (via : Carrier) : List Deferred := e.hif.deferred.filter fun d => d.via == via

/-! ## Answering a packet -/

/-- A privileged command is recorded with the status given: kind 9 for phases 2 and 4 of FW_UPDATE, else kind 5 (R453). Its detail
is packet bytes 8–15 (log 32). -/
def notePrivileged (via : Carrier) (pkt : Packet) (status : Nat) (s : State) : State :=
  match via.session? with
  | some i =>
    if pkt.privileged via then
      auditBy i { carrier := 0, kind := if pkt.op = 0xE0 ∧ (pkt.byte 8 = 2 ∨ pkt.byte 8 = 4) then 9 else 5, role := s.role via,
                  status := status, what := pkt.op, detail := pkt.field 8 8 } s
    else s
  | none => s

/-- The one reply of a command that fails a check of R314. -/
def reject (via : Carrier) (pkt : Packet) (status : Nat) (s : State) : State :=
  sendReply via { tag := pkt.tag, status := BitVec.ofNat 8 status, final := false, result := [],
                  interrupt := pkt.wantsInterrupt } s

/-- The one reply of a command that completes at once. -/
def answerData (via : Carrier) (pkt : Packet) (status : Nat) (result data : List Byte) (s : State) : State :=
  let x : Reply :=
    { tag := pkt.tag, status := BitVec.ofNat 8 status, final := false, result := result, data := data,
      interrupt := pkt.wantsInterrupt }
  sendReply via x (notePrivileged via pkt status s)

/-- The one reply of a command that completes at once, without reply data. -/
def answer (via : Carrier) (pkt : Packet) (status : Nat) (result : List Byte) (s : State) : State :=
  answerData via pkt status result [] s

/-- A deferred command of the EV9: BUSY if its ring already holds 64 (R316), else the DEFERRED reply with its result, the
effect, and a place in the list. -/
def deferEv9 (via : Carrier) (pkt : Packet) (work : Work) (parts : BitVec 8) (result : List Byte)
    (effect : State → State) (s : State) : State :=
  if via.ring?.isSome && decide (64 ≤ (s.ev9.awaiting via).length) then answer via pkt stBusy [] s
  else
    let s := notePrivileged via pkt stDeferred s
    let s := sendReply via { tag := pkt.tag, status := BitVec.ofNat 8 stDeferred, final := false, result := result } s
    effect (onEv9 (Ev9.onHif fun h =>
      { h with deferred := h.deferred ++ [⟨via, pkt.tag, pkt.wantsInterrupt, work, parts⟩] }) s)

/-- Reply data that a command returns: to the management ring it is written at the IOVA of bytes 56–63 before the reply, on
the bus it follows the reply (R433). -/
def answerWithData (via : Carrier) (pkt : Packet) (status : Nat) (result data : List Byte) (s : State) : State :=
  match via with
  | .mgmt => answer via pkt status result (onEv9 (Ev9.hostWrite 0 (pkt.field 56 8) (data.take 8192)) s)
  | _ => answerData via pkt status result (data.take 64) s

/-! ## Taking a packet -/

/-- The ring lets its next packet start: no reply of a command that completed at once waits to be written, and with the order flag no
reply and no final reply is outstanding (R309, R315). -/
def Ring.admits (waits ordered : Bool) (g : Ring) : Bool :=
  if ordered then !waits && g.heldReplies.isEmpty
  else g.heldReplies.all fun x => x.final || x.status == BitVec.ofNat 8 stDeferred

/-- The packet can be taken from its carrier: it is the next fetched packet of the ring, which lets it start (R315); on a two-wire port
fewer than 8 replies wait and the chip answers (R432, R479). -/
def State.packetReady (s : State) (via : Carrier) (pkt : Packet) : Bool :=
  match via with
  | .ring _ | .mgmt =>
    let r := (via.ring?).getD 0
    (s.ev9.ring r).fetched.head? == some pkt && (s.ev9.ring r).admits (!(s.ev9.awaiting via).isEmpty) pkt.ordered
  | .smb0 => decide (s.ev9.smb0.replies.length < 8)
      && (s.ev9.svc.boot == .complete || s.ev9.svc.boot == .recovery || s.ev9.svc.boot == .railFail)
  | .nwHost => decide (s.nw8.host.replies.length < 8) && s.nw8.running
  | .nwRack => decide (s.nw8.rackPort.replies.length < 8) && s.nw8.running

/-- A command counts as activity of its session (R443). -/
def touch (i : Option SessionId) (s : State) : State :=
  match i with
  | none => s
  | some i =>
    onSession i (fun x => { x with lastMs := s.now (sessChip i) }) s

/-- The ring without its next fetched packet, whose place in the order of R311 is kept. -/
def Ring.taken (g : Ring) : Ring :=
  { g with fetched := g.fetched.drop 1, fetchedAt := g.fetchedAt.drop 1, takenAt := g.fetchedAt.headD (0, 0) }

/-- The packet leaves the ring's fetched list; its carrier's session is active. On the NW8's ports it is an upstream command,
which ends autonomous mode (R417). -/
def takePacket (via : Carrier) (s : State) : State :=
  let s := touch via.session? s
  match via.ring? with
  | some r => onEv9 (Ev9.onRing r Ring.taken) s
  | none =>
    if via.onEv9 then s
    else onNw8 (fun w => { w with hold := { w.hold with lastCmd := some w.hold.timeMs, autonomous := false } }) s

/-- The opcodes that a chip in recovery or rail failure still serves (R480). -/
def recoveryOpcodes : List Nat := [0x80, 0x81, 0x82, 0x83, 0xE0]

/-- The EV9 answers in recovery (R480, R481). -/
def Ev9.inRecovery (e : Ev9) : Bool := e.svc.boot == .recovery || e.svc.boot == .railFail

/-- What a packet's row demands of it. -/
structure PacketRule where
  /-- the packet names this row -/
  mine : Bool
  /-- check 1 of R314 -/
  allowed : Bool
  /-- the byte ranges that the parameters use -/
  used : List (Nat × Nat)
  /-- the rest of check 3 -/
  paramsOk : Bool
  /-- the partitions that the command names, for the binding check of a tenant (R352, R353) -/
  parts : List Nat := []
  /-- the role of check 4 -/
  role : Role := .operator

/-- The tenant of the carrier is bound to every partition (R352). -/
def State.boundTo (s : State) (via : Carrier) (parts : List Nat) : Bool :=
  match via with
  | .ring r => parts.all fun p => maskBit (tget 0 s.ev9.hif.binds (tenantOf r.val)) p
  | _ => true

/-- The status of the first of checks 1–4 that fails (R314), with R480's answer in recovery. -/
def State.packetFault (s : State) (via : Carrier) (pkt : Packet) (k : PacketRule) : Option Nat :=
  if !k.mine || !k.allowed then some stBadOpcode
  else if via.onEv9 && s.ev9.inRecovery && !recoveryOpcodes.contains pkt.op then some stWrongState
  else if pkt.check ≠ via.checkWord then some stNotPermitted
  else if !(pkt.reservedOk k.used && k.paramsOk) then some stBadParam
  else if !(s.boundTo via k.parts && k.role.atLeast (s.role via)) then some stNotPermitted
  else none

/-- A management packet below its role is a denied attempt (R7). -/
def noteDenied (via : Carrier) (pkt : Packet) (k : PacketRule) (s : State) : State :=
  match via.session? with
  | some i =>
    if k.role.atLeast (s.role via) then s
    else auditBy i { carrier := 0, kind := 4, role := s.role via, status := stNotPermitted, what := pkt.op } s
  | none => s

/-- A packet is served: nothing happens unless it is this row's packet, or one of an undefined opcode, at the front of its
carrier; the checks of R314 answer the first failure; then the opcode's own effect follows. -/
def servePacket (via : Carrier) (pkt : Packet) (k : PacketRule) (body : State → State) (s : State) :
    Host.Outcome State Fault Refusal :=
  if s.packetReady via pkt && (k.mine || !definedOpcodes.contains pkt.op) then
    let s := takePacket via s
    match s.packetFault via pkt k with
    | some st =>
      let s := if st = stNotPermitted then noteDenied via pkt k s else s
      .next (reject via pkt st s)
    | none => .next (body s)
  else stay s

end Sys2Proof.Machine
end

