-- ==== Sys2Proof/Machine/RegOps.lean ====
section
/-! DEFINITION. RegOps.lean: who may write a register (R6–R8, R439, R443, R453), and the fields of a written value. -/

namespace Sys2Proof

/-- The session of a register path; tenants have none (R439). -/
def RegPath.session? : RegPath → Option SessionId
  | .pf => some .pf
  | .smb0 => some .smb0
  | .vf _ => none
  | .nwHost => some .nwHost
  | .nwRack => some .nwRack

/-- A path to the EV9's own registers: BAR0 of the physical function, or the service island for SMB_0 (R304). -/
def RegPath.isEv9 : RegPath → Bool
  | .pf | .smb0 => true
  | _ => false

/-- One of the NW8's upstream ports. -/
def RegPath.isNw8 : RegPath → Bool
  | .nwHost | .nwRack => true
  | _ => false

end Sys2Proof

namespace Sys2Proof.Machine

open Sys2Proof

/-- The host reaches the EV9: boot is complete, the islands run and the PCI Express link is up (R385, R479, R483). -/
def Ev9.hostUp (e : Ev9) : Bool := e.up && e.hif.up

/-- The service island answers SMB_0 (R479–R481). -/
def Ev9.smbUp (e : Ev9) : Bool := e.svc.boot == .complete || e.inRecovery

/-- Register accesses can arrive on a path. -/
def State.pathUp (s : State) (p : RegPath) : Bool :=
  match p with
  | .pf => s.ev9.hostUp
  | .smb0 => s.ev9.smbUp
  | .vf t => s.ev9.hostUp && s.ev9.hif.vfEnable && decide (t.val < s.ev9.hif.numVfs.toNat)
  | .nwHost | .nwRack => s.nw8.running

/-- The role of a path's carrier. -/
def State.pathRole (s : State) (p : RegPath) : Role :=
  match p.session? with
  | none => .operator
  | some i => (s.session i).role

/-- A register access is activity of its session (R443); on the NW8 it is an upstream command, which ends autonomous mode
(R417). -/
def touchPath (p : RegPath) (s : State) : State :=
  let s := touch p.session? s
  if p.isNw8 then
    onNw8 (fun w => { w with hold := { w.hold with lastCmd := some w.hold.timeMs, autonomous := false } }) s
  else s

/-- An audit entry of a register access: the offset, and the value as detail (R453). -/
def auditReg (p : RegPath) (kind off value : Nat) (status : Nat) (s : State) : State :=
  match p.session? with
  | some i => auditBy i { carrier := 0, kind := kind, role := s.pathRole p, status := status, what := off, detail := value } s
  | none => s

/-- An RWI or RWM write: with the role it takes effect and is recorded as a privileged write (kind 5); without it it is ignored
and recorded as a denied attempt (kind 4, R6, R7). -/
def privWrite (p : RegPath) (role : Role) (off value : Nat) (effect : State → State) (s : State) : State :=
  if role.atLeast (s.pathRole p) then effect (auditReg p 5 off value 0 s)
  else auditReg p 4 off value stNotPermitted s

/-- A register write that arrives on a path: nothing where the path does not lead to the register's chip or carries nothing. -/
def pathWrite (p : RegPath) (ok : Bool) (effect : State → State) (s : State) : Host.Outcome State Fault Refusal :=
  if ok && s.pathUp p then .next (effect (touchPath p s)) else stay s

/-- Field [hi:lo] of a written value. -/
def field (v : Dword) (hi lo : Nat) : Nat := v.toNat / 2 ^ lo % 2 ^ (hi + 1 - lo)

end Sys2Proof.Machine
end

