-- ==== Sys2Proof/Machine/PortOps.lean ====
section
/-! DEFINITION. PortOps.lean: what a Synsen port is to a flit that is sent or taken: its role, its sleep, its credits and the places
of its early-arrival buffers (R66, R269, R272, R277, R286, R287). -/

namespace Sys2Proof.Machine

open Sys2Proof

/-! ## States (R272) -/

/-- The port sleeps. -/
def PortState.asleep : PortState → Bool
  | .ls1 | .ls2 => true
  | _ => false

/-- The port holds a role: it is ACTIVE or sleeps. -/
def PortState.inRole (s : PortState) : Bool := s == .active || s.asleep

/-- The physical port that plays a logical port's role (R277). -/
def Ev9.roleOf (e : Ev9) (logical : Nat) : Option Nat :=
  (List.range 12).find? fun n => (e.port n).state.inRole && (e.port n).logical.toNat == logical

/-- The physical port towards a destination position, by the member's route table (R270, R276). -/
def Ev9.route (e : Ev9) (m : Member) (dpos : Nat) : Option Nat :=
  match m.image with
  | none => none
  | some g => match tfind g.routes dpos with
    | none => none
    | some l => e.roleOf l

/-! ## Waking (R286, R287) -/

/-- The offset of SNL_PM_s. -/
def offSnlPm (n : Nat) : Nat := 0x1200028 + 0x10000 * n

/-- SNL_PM_s.nak is set (R287, R290). -/
def setNak (n : Nat) (s : State) : State :=
  noteSet (offSnlPm n) 7 (s.ev9.port n).nak (onPort n (fun x => { x with nak := true }) s)

/-- The port needs to be awake. A request of its own is cancelled; a sleeping port begins to wake, and where it has entered the state
that it agreed to in this very beat, it waives the residency and shows the refusal of R287 (R286, R292). -/
def wakePort (n : Nat) (s : State) : State :=
  let x := s.ev9.port n
  match x.sleepPhase with
  | .requested _ =>
    emit (.sleepCancel (Fin.ofNat 12 n)) (setNak n (onPort n (fun x => { x with sleepPhase := .cancelled }) s))
  | .waking => s
  | _ =>
    if x.state.asleep then
      let race := x.sleptAt == s.ev9.noc.edgeBeat
      let s := onPort n (fun x => { x with sleepPhase := .waking, waived := race }) s
      emit (.wake (Fin.ofNat 12 n)) (if race then setNak n s else s)
    else s

/-! ## Places and credits (R66, R265, R269) -/

/-- A place is taken in a table of occupancies, with its high-water mark. -/
def takePlace (i : Nat) (t high : Table (BitVec 10)) : Table (BitVec 10) × Table (BitVec 10) :=
  let n := min 512 ((tget 0 t i).toNat + 1)
  (tput 0 t i (BitVec.ofNat 10 n), tmod 0 high i fun h => if h.toNat < n then BitVec.ofNat 10 n else h)

/-- A codeword with a flit comes on a port: one that FEC has corrected counts (R280), and the port is in use, so that its idle time
starts anew (R285). -/
def Port.hear (corrected : Bool) (now : Nat) (x : Port) : Port :=
  { x with cwOk := if corrected then satAdd x.cwOk 1 else x.cwOk, lastUse := now }

/-- A scheduled flit takes a place in a port's early-arrival buffer. -/
def Port.arrive (vc : Nat) (x : Port) : Port :=
  let r := takePlace vc x.eab x.eabHigh
  { x with eab := r.1, eabHigh := r.2 }

/-- A flit leaves a port's early-arrival buffer, and the credit returns to the sender. -/
def releasePlace (n vc : Nat) (s : State) : State :=
  if tget 0 (s.ev9.port n).eab vc = 0 then s
  else emit (.credit (Fin.ofNat 12 n) (Fin.ofNat 4 vc) 1)
    (onPort n (fun x => { x with eab := tmod 0 x.eab vc fun k => k - 1 }) s)

/-- The network registers changed by `f`. -/
def onNoc (f : Noc → Noc) (s : State) : State := onEv9 (fun e => { e with noc := f e.noc }) s

/-- A flit leaves an output of a router: it is counted, and a mesh router's flit is activity of its partition (R290, R371). -/
def countOutput (r o vc : Nat) (s : State) : State :=
  let i := 8 * r + o
  let s := onNoc (fun x => if vc < 4 then { x with flitsSched := tmod 0 x.flitsSched i fun k => satAdd k 1 }
    else { x with flitsBest := tmod 0 x.flitsBest i fun k => satAdd k 1 }) s
  if r < 16 then activity (r / 2) 10 15 s else s

/-- A scheduled flit between two partitions takes a place in the receiver's buffer of R265. -/
def arriveAcross (p vc : Nat) (s : State) : State :=
  onNoc (fun x =>
    let r := takePlace (4 * p + vc) x.xeab x.xeabHigh
    { x with xeab := r.1, xeabHigh := r.2 }) s

/-- A flit leaves a buffer of R265. -/
def releaseAcross (p vc : Nat) (s : State) : State :=
  onNoc (fun x => { x with xeab := tmod 0 x.xeab (4 * p + vc) fun k => k - 1 }) s

/-- A message or cue leaves on a port: the port wakes if it sleeps, and a scheduled one spends a credit (R66, R286). -/
def queueFlit (n vc : Nat) (s : State) : State :=
  let s := onPort n (fun x => { x with lastUse := s.ev9.noc.edgeBeat }) (wakePort n s)
  if vc < 4 then onPort n (fun x => { x with spent := tmod 0 x.spent vc fun k => min 512 (k + 1) }) s else s

/-- A message or flit that is counted as a sequence error (R43, R266, R268). -/
def countSeq (port : Nat) (s : State) : State := onPort port (fun x => { x with errSeq := satAdd x.errSeq 1 }) s

end Sys2Proof.Machine
end

