-- ==== Sys2Proof/Machine/CurlOps.lean ====
section
/-! DEFINITION. CurlOps.lean: how a partition freezes, resumes, is held, and faults its step (R58–R80, R486). -/

namespace Sys2Proof.Machine

open Sys2Proof

/-- The code of a cause that is no item (R61, R63). -/
def CurlCause.code : CurlCause → Fin 8
  | .droop => 0
  | .credit _ _ => 3
  | .cue => 4
  | .brake => 5
  | .retry _ => 7

/-- A curl cause on a partition changed by `f`. -/
def onCurl (f : Curl → Curl) (x : Part) : Part := { x with curl := f x.curl }

/-- The clock of a partition changed by `f`. -/
def onClk (f : Clk → Clk) (x : Part) : Part := { x with clk := f x.clk }

/-- The group freezes (R58, R59): a new curl begins unless one is active. -/
def Curl.freeze (at_ : Nat) (tag : Tag) (c : Curl) : Curl :=
  if c.curled then c
  else { c with curled := true, causeNow := tag, frozeAt := at_, lasted := 0, clearFor := 0, lastTag := none,
                lastUntagged := false }

/-- A cause of R61 begins; it adds to a curl that is already active (R79, R80). -/
def Curl.openCause (at_ : Nat) (k : CurlCause) (c : Curl) : Curl :=
  let c := c.freeze at_ (some k.code)
  { c with causes := if c.causes.contains k then c.causes else c.causes ++ [k], causeNow := some k.code, clearFor := 0 }

/-- A cause of R61 clears: it is the last one to have cleared (R65, R79). -/
def Curl.closeCause (k : CurlCause) (c : Curl) : Curl :=
  if c.causes.contains k then
    { c with causes := c.causes.filter (· ≠ k), lastTag := some k.code, lastUntagged := false, clearFor := 0 }
  else c

/-- Nothing holds the curl any more. -/
def Curl.cleared (c : Curl) : Bool := c.absent.isEmpty && c.causes.isEmpty

/-- Beats of a curl, or of a boundary wait, in the histogram. -/
def Curl.charge (code : Nat) (beats : Nat) (c : Curl) : Curl :=
  { c with beats := satAdd c.beats beats, histBeats := tmod 0 c.histBeats code fun b => satAdd b beats }

/-- The group resumes after a curl of `beats` beats, which is attributed to what cleared last (R60, R64, R65, R75, R79). -/
def Curl.resume (beats : Nat) (c : Curl) : Curl :=
  let code := c.lastTag.getD 0
  let c := c.charge code.val beats
  { c with
    curled := false
    request := false
    causeNow := none
    count := satAdd c.count 1
    histCount := tmod 0 c.histCount code.val fun b => satAdd b 1
    untagged := if c.lastUntagged then satAdd c.untagged 1 else c.untagged
    lag := some code
    inStep := c.inStep + 1
    lasted := 0
    clearFor := 0
    lastTag := none
    lastUntagged := false }

/-- A boundary wait of R62: its beats are counted, and it is no curl. -/
def Curl.boundaryWait (beats : Nat) (c : Curl) : Curl := c.charge 4 beats

/-- Every counter of the partition returns to zero (R68, R73). -/
def Curl.zero (c : Curl) : Curl :=
  { c with count := 0, beats := 0, untagged := 0, nearMiss := 0, histCount := [], histBeats := [] }

/-- The longest curl (R73): a value below 4,096 acts as 4,096. -/
def Ev9.curlLimit (e : Ev9) : Nat := max 4096 e.chip.curlLimit.toNat

/-- The offset of CURL_STATUS_p. -/
def offCurlStatus (p : Nat) : Nat := 0x2100 + 0x100 * p

/-- A strict curl sets CURL_STATUS_p.breach (R73). -/
def noteBreach (p : Nat) (s : State) : State :=
  if s.ev9.chip.strict then
    noteSet (offCurlStatus p) 2 (s.ev9.part p).curl.breach (onPart p (onCurl fun c => { c with breach := true }) s)
  else s

/-- The group of a partition freezes on an absent item (R58). -/
def freezeGroup (p : Nat) (s : State) : State :=
  if (s.ev9.part p).curl.curled then s
  else noteBreach p (onPart p (fun x => onCurl (Curl.freeze x.clk.stepBeat.toNat none) x) s)

/-- A cause of R61 begins in a partition. -/
def openCause (p : Nat) (k : CurlCause) (s : State) : State :=
  noteBreach p (onPart p (fun x => onCurl (Curl.openCause x.clk.stepBeat.toNat k) x) s)

/-- A cause of the partition clears. -/
def closeCause (p : Nat) (k : CurlCause) (s : State) : State := onPart p (onCurl (Curl.closeCause k)) s

/-- The DETERMINISM_BREACH record of the step that ends: a strict partition writes one for each step in which it curled, with
the number of its curls (R71). -/
def flushBreach (p : Nat) (s : State) : State :=
  let n := (s.ev9.part p).curl.inStep
  let s := if s.ev9.chip.strict && decide (0 < n) then
      faultRecord { source := 6, part := some p, cause := 0x0500, d0 := n } s
    else s
  onPart p (onCurl fun c => { c with inStep := 0 }) s

/-- A curl that something other than its causes ends is one curl of its step all the same (R71, R489). -/
def cutCurl (p : Nat) (s : State) : State :=
  if (s.ev9.part p).curl.curled && !(s.ev9.part p).curl.held then
    onPart p (onCurl fun c => { c with inStep := c.inStep + 1 }) s
  else s

/-- Pending commands that name a partition of the mask (R353). -/
def Deferred.names (mask : BitVec 8) (d : Deferred) : Bool := (d.parts &&& mask) != 0

/-- A wait-form STREAM_COLLECT: a fault of the partition does not end it, its disabling does (R338, R351). -/
def Work.isCollect : Work → Bool
  | .collectWait _ _ => true
  | _ => false

/-- Every deferred command that names the mask completes with a status (R145, R148, R179, R338, R486). -/
def finishNamed (mask : BitVec 8) (status : Nat) (s : State) : State :=
  finish (fun d => d.names mask && d.work != .fence && !d.work.isCollect) (fun _ => status) (fun _ => []) s

/-- A pending rerun of a member ends with WRONG_STATE (R497). -/
def endRerun (t : Nat) (s : State) : State :=
  onMember t (fun m => { m with rerun := none })
    (finish (fun d => d.work == .rerun (BitVec.ofNat 16 t)) (fun _ => stWrongState) (fun _ => []) s)

/-- A partition enters the held state of R67: it stays frozen until it is fenced, and a rerun pending on its member ends. -/
def enterHeld (p : Nat) (s : State) : State :=
  let s := onPart p (onCurl fun c => { c with held := true, curled := true }) s
  match s.ev9.memberOf p with
  | none => s
  | some (t, m) => if m.rerun.isSome then endRerun t s else s

/-- A control message of a member goes out on the port of its route to the ringmaster, and wakes it (R268, R286). -/
def toRingmaster (m : Member) (o : Out) (s : State) : State :=
  let s := emit o s
  match s.ev9.route m 0 with
  | some n => queueFlit n 7 s
  | none => s

/-- A STOP_FORWARD or IMAGE_STOP reaches the ringmaster, here or over VC7 (R32, R486). -/
def stopForward (t : Nat) (m : Member) (s : State) : State :=
  if m.position = 0 then onMember t (fun m => { m with stopNext := true }) s
  else toRingmaster m (.stopForward (BitVec.ofNat 16 t) m.position) s

/-- Partition `p` faults its step (R486): every partition of its member stops its schedule beats, the step is recorded, the
ringmaster hears of it, and pending commands complete with `status`. A partition outside every troupe stops alone. -/
def stepFault (p : Nat) (status : Nat) (s : State) : State :=
  let s := onPart p (fun x => { x with faultStep := x.clk.step, stopped := true }) s
  match s.ev9.memberOf p with
  | none => finishNamed (BitVec.ofNat 8 (2 ^ p)) status s
  | some (t, m) =>
    let s := m.parts.foldl (fun s q => onPart q (fun x => { x with stopped := true }) s) s
    let s := onMember t (fun m => { m with run := .stopped }) s
    let s := stopForward t m s
    finishNamed m.mask status s

end Sys2Proof.Machine
end

