-- ==== Sys2Proof/Machine/Fabric.lean ====
section
/-! DEFINITION. Fabric.lean: the routers of the chip: where each output leads, the slot tables, the flits in router inputs and in the
crossings before them, and one beat of every output (R54, R257–R262, R265, R266, R269, R270, R286, R290). -/

namespace Sys2Proof.Machine

open Sys2Proof

/-! ## Flit headers (R266) -/

/-- The fields of a flit header. -/
structure Header where
  dpos : Nat
  dcore : Nat
  dh : Nat
  dac : Nat
  rsig : Bool
  mark : Bool
  first : Bool
  half : Bool
  vc : Nat
  kind : Nat
  tag : Nat
  poison : Nat
  seq : Nat
  deriving DecidableEq, Repr

/-- The 64 bits of a header. -/
def Header.bits (h : Header) : Dword :=
  BitVec.ofNat 64 (h.seq % 16384 + 2 ^ 14 * (h.poison % 256) + 2 ^ 22 * (h.tag % 16) + 2 ^ 26 * (h.kind % 4)
    + 2 ^ 28 * (h.vc % 8) + 2 ^ 31 * bit h.half + 2 ^ 32 * bit h.first + 2 ^ 33 * bit h.mark + 2 ^ 34 * bit h.rsig
    + 2 ^ 35 * (h.dac % 32) + 2 ^ 40 * (h.dh % 256) + 2 ^ 48 * (h.dcore % 64) + 2 ^ 54 * (h.dpos % 1024))

/-- The header that 64 bits spell. -/
def headerOf (x : Dword) : Header :=
  { dpos := dbits x 63 54, dcore := dbits x 53 48, dh := dbits x 47 40, dac := dbits x 39 35, rsig := x.getLsbD 34,
    mark := x.getLsbD 33, first := x.getLsbD 32, half := x.getLsbD 31, vc := dbits x 30 28, kind := dbits x 27 26,
    tag := dbits x 25 22, poison := dbits x 21 14, seq := dbits x 13 0 }

/-- The header of a flit. -/
def Flit.h (f : Flit) : Header := headerOf f.hdr

/-- The VC of a flit. -/
def Flit.vc (f : Flit) : Nat := dbits f.hdr 30 28

/-- The tag of a header: bit 3 of the four is the valid bit (R63). -/
def Header.tagOf (h : Header) : Tag := if 8 ≤ h.tag then some (Fin.ofNat 8 h.tag) else none

/-- The first block that delays a flit tags it; a tag that it carries is kept (R63). -/
def Flit.retag (code : Option Nat) (f : Flit) : Flit :=
  match code with
  | none => f
  | some k => if 8 ≤ f.h.tag then f else { f with hdr := { f.h with tag := 8 + k % 8 }.bits }

/-- The cause tag that a partition gives an untagged item that island `i` of it sends: brake while it runs under one, droop after a
lost beat of the island, else the partition's lag cause (R53, R63, R64, R381, log 25). -/
def Part.tagOut (i : Nat) (x : Part) : Option Nat :=
  if x.clk.braked then some 5
  else if 45 ≤ (x.island i).lost then some 0
  else x.curl.lag.map (·.val)

/-! ## Where outputs lead (R257) -/

/-- The perimeter clusters, to which stations attach (R257). -/
def perimeter : List Nat := [0, 1, 2, 3, 7, 11, 15, 14, 13, 12, 8, 4]

/-- Output `o` of router `r` exists (R257). -/
def outputExists (r o : Nat) : Bool :=
  if r < 16 then
    match o with
    | 0 => decide (4 ≤ r)
    | 1 => r % 4 != 3
    | 2 => decide (r < 12)
    | 3 => r % 4 != 0
    | 4 => true
    | 5 => perimeter.contains r
    | _ => false
  else
    match o with
    | 0 | 1 | 3 => decide (r < 30)
    | 2 | 4 => decide (r < 28)
    | _ => false

/-- The mesh router to which station `n` attaches. -/
def attachedTo (n : Nat) : Nat := perimeter.getD n 0

/-- The station that attaches to mesh router `k`. -/
def stationOf (k : Nat) : Nat := perimeter.findIdx (· == k)

/-- The router that an output faces, and its input that faces back; none for a local output and a port lane. -/
def outputTo (r o : Nat) : Option (Nat × Nat) :=
  if !outputExists r o then none
  else if r < 16 then
    match o with
    | 0 => some (r - 4, 2)
    | 1 => some (r + 1, 3)
    | 2 => some (r + 4, 0)
    | 3 => some (r - 1, 1)
    | 5 => some (16 + stationOf r, 2)
    | _ => none
  else
    match o with
    | 0 => some (16 + (r - 16 + 1) % 14, 1)
    | 1 => some (16 + (r - 16 + 13) % 14, 0)
    | 2 => some (attachedTo (r - 16), 5)
    | _ => none

/-! ## Slot tables (R260) -/

/-- Valid bit of a slot entry. -/
def slotValid (x : BitVec 32) : Bool := x.getLsbD 31
/-- Due bit of a slot entry. -/
def slotDue (x : BitVec 32) : Bool := x.getLsbD 30
/-- Input and VC of a slot entry. -/
def slotSource (x : BitVec 32) : Nat := (x.extractLsb' 25 5).toNat
/-- Owner of a slot entry. -/
def slotOwner (x : BitVec 32) : Nat := (x.extractLsb' 22 3).toNat
/-- Source core within the cluster of a slot entry. -/
def slotCore (x : BitVec 32) : Nat := (x.extractLsb' 20 2).toNat

/-- The router whose table an output follows: the port lanes of a station follow the role of its port (R277). -/
def Ev9.tableOf (e : Ev9) (r o : Nat) : Nat :=
  if r < 16 || (o != 3 && o != 4) then r
  else if r < 28 && (e.port (r - 16)).state.inRole then 16 + (e.port (r - 16)).logical.toNat else r

/-- The entry that an output selects in this beat: a mesh router by its partition's step beat, a station by the edge beat. -/
def Ev9.slotNow (e : Ev9) (r o : Nat) : BitVec 32 :=
  let i := if r < 16 then (e.part (r / 2)).clk.stepBeat.toNat % 64 else e.noc.edgeBeat % 64
  tget 0 e.noc.slots (384 * e.tableOf r o + 64 * o + i)

/-! ## Buffers -/

/-- The index of the flits at input `inp` of router `r` on a VC; `core` tells the local sources of a cluster apart. -/
def bufIndex (r inp vc core : Nat) : Nat := ((r * 6 + inp) * 8 + vc) * 4 + core
/-- The router of a buffer. -/
def bufRouter (k : Nat) : Nat := k / 192
/-- The input of a buffer. -/
def bufInput (k : Nat) : Nat := k / 32 % 6

/-- The flits of a buffer. -/
def Noc.buf (x : Noc) (k : Nat) : List Flit := tget [] x.bufs k

/-- The flit at the head of an input: it has reached it. -/
def Noc.head (x : Noc) (k : Nat) : Option Flit :=
  match x.buf k with
  | f :: _ => if f.wait = 0 then some f else none
  | [] => none

/-- A flit joins a buffer. -/
def pushFlit (k : Nat) (f : Flit) (s : State) : State :=
  onNoc (fun x => { x with bufs := tmod [] x.bufs k fun l => l ++ [f] }) s

/-- The flits that a buffer holds: a crossing FIFO holds 4 (R54), any other input 8 (R262); the places of a port's early-arrival
buffer are counted by its credits. -/
def bufCap (r inp vc : Nat) : Nat :=
  if 4 ≤ vc || (16 ≤ r && inp != 2) then 8 else 4

/-- There is a place behind an output for a flit of the VC. -/
def Ev9.hasRoom (e : Ev9) (d : Nat × Nat) (vc : Nat) : Bool :=
  decide ((e.noc.buf (bufIndex d.1 d.2 vc 0)).length < bufCap d.1 d.2 vc)
    && (decide (16 ≤ d.1) || (e.part (d.1 / 2)).state != .fenced)

/-! ## Places and discards (R265, R269, R270) -/

/-- The place that a flit holds is free again, and its credit returns. -/
def freePlace (f : Flit) (s : State) : State :=
  match f.place with
  | some (.port n) => releasePlace n f.vc s
  | some (.part q) => releaseAcross q.val f.vc s
  | none => s

/-- A flit is discarded: it is counted, and its place is free (R270). -/
def dropFlit (f : Flit) (s : State) : State :=
  freePlace f (onNoc (fun x => { x with drop := satAdd x.drop 1 }) s)

/-- The flits of the network that `sel` picks, by buffer. -/
def Noc.picked (x : Noc) (sel : Nat → Flit → Bool) : List Flit := x.bufs.flatMap fun b => b.2.filter (sel b.1)

/-- The network without the flits that `sel` picks. -/
def Noc.without (x : Noc) (sel : Nat → Flit → Bool) : Noc :=
  { x with bufs := (x.bufs.map fun b => (b.1, b.2.filter fun f => !sel b.1 f)).filter fun b => !b.2.isEmpty }

/-- Every flit that `sel` picks leaves the network, and its place is free (R349, R489). -/
def purgeFlits (sel : Nat → Flit → Bool) (s : State) : State :=
  let l := s.ev9.noc.picked sel
  l.foldl (fun s f => freePlace f s) (onNoc (fun x => x.without sel) s)

/-! ## The way of a flit (R262, R270) -/

/-- The port by which a flit leaves the chip: that of its member's route; none where it is for the member itself. -/
def Ev9.exitPort (e : Ev9) (f : Flit) : Option (Option Nat) :=
  match e.memberOf f.part with
  | none => none
  | some (_, m) =>
    if f.h.dpos = m.position.toNat then some none
    else match e.route m f.h.dpos with
      | some n => some (some n)
      | none => none

/-- The output of mesh router `r` towards mesh router `d`: X first, then Y. -/
def meshStep (r d : Nat) : Nat :=
  if r % 4 < d % 4 then 1 else if d % 4 < r % 4 then 3 else if r < d then 2 else if d < r then 0 else 4

/-- The output that a best-effort flit takes next: over the mesh to its core's router, or to the router of its port's station and over
the ring to it, by the shorter way and clockwise on a tie. -/
def Ev9.beOutput (e : Ev9) (r : Nat) (f : Flit) : Option Nat :=
  match e.exitPort f with
  | none => none
  | some none =>
    if r < 16 then some (meshStep r (clusterOf f.h.dcore)) else if r < 28 then some 2 else some 0
  | some (some n) =>
    if r < 16 then
      if r = attachedTo n then some 5 else some (meshStep r (attachedTo n))
    else if r = 16 + n then some 3
    else some (if (n + 14 - (r - 16)) % 14 ≤ 7 then 0 else 1)

/-! ## One beat of an output -/

/-- What an output does with the flit at a head. -/
inductive Move where
  /-- to an input of a router -/
  | link (r inp : Nat)
  /-- to the crossing FIFO of a core -/
  | core (c : Nat)
  /-- out of a port -/
  | port (n : Nat)
  /-- held: no place, or no credit of the buffer named -/
  | hold (want : Option CreditOf)
  /-- its destination partition is not ON -/
  | drop
  deriving DecidableEq, Repr

/-- The partition whose buffer of R265 a scheduled flit enters when it leaves the mesh for another partition of its member. -/
def Ev9.acrossTo (e : Ev9) (r o : Nat) (f : Flit) : Option PartId :=
  if r < 16 && o == 5 && decide (f.vc < 4) && partOf f.h.dcore != f.part && e.exitPort f == some none then
    some (Fin.ofNat 8 (partOf f.h.dcore))
  else none

/-- Where an output takes a flit in this beat. -/
def Ev9.moveOf (e : Ev9) (r o : Nat) (f : Flit) : Move :=
  match outputTo r o with
  | some d =>
    if !e.hasRoom d f.vc then .hold none
    else match e.acrossTo r o f with
      | some q => if 512 ≤ (tget 0 e.noc.xeab (4 * q.val + f.vc)).toNat then .hold (some (.part q)) else .link d.1 d.2
      | none => .link d.1 d.2
  | none =>
    if r < 16 then
      let c := 4 * r + f.h.dcore % 4
      if (e.part (partOf c)).state != .on then .drop
      else if (e.core c).inbox.length < 4 then .core c else .hold none
    else if r < 28 then
      let x := e.port (r - 16)
      if x.state != .active then .hold none
      else if f.vc < 4 ∧ 512 ≤ tget 0 x.spent f.vc then .hold (some (.port (Fin.ofNat 12 (r - 16)))) else .port (r - 16)
    else .hold none

/-- A flit moves on: it is tagged by the block that delays it, and stands in the next input three beats later (R53, R64, R258). -/
def takeFlit (r o k : Nat) (f : Flit) (mv : Move) (s : State) : State :=
  let s := onNoc (fun x => { x with bufs := tmod [] x.bufs k fun l => l.drop 1 }) s
  let s := if r < 16 && bufInput k == 5 then freePlace f s else s
  let f := if r < 16 && bufInput k == 5 then { f with place := none } else f
  let f := if r < 16 then f.retag ((s.ev9.part (r / 2)).tagOut (8 + r % 2)) else f
  let s := countOutput r o f.vc s
  match mv with
  | .link d i =>
    match s.ev9.acrossTo r o f with
    | some q => pushFlit (bufIndex d i f.vc 0) { f with wait := 3, place := some (.part q) } (arriveAcross q.val f.vc s)
    | none => pushFlit (bufIndex d i f.vc 0) { f with wait := 3 } s
  | .core c => onCore c (fun x => { x with inbox := x.inbox ++ [{ f with wait := 3 }] }) s
  | .port n =>
    let s := freePlace f s
    let s := if f.vc < 4 then onPort n (fun x => { x with spent := tmod 0 x.spent f.vc fun j => j + 1 }) s else s
    let now := s.ev9.noc.edgeBeat
    let s := onPort n (fun x => { x with sent := (x.sent ++ [f]).drop (x.sent.length + 1 - 512), lastUse := now }) s
    emit (.flit (Fin.ofNat 12 n) f.hdr f.payload) s
  | .drop => dropFlit f s
  | .hold _ => s

/-- A flit that finds its port asleep wakes it; in elastic mode the wake tags it, and the beats are the port's wake delay (R286). -/
def waitAsleep (r k : Nat) (s : State) : State :=
  let n := r - 16
  if 16 ≤ r ∧ r < 28 ∧ (s.ev9.port n).state.asleep = true then
    let s := onPort n (fun x => { x with wakeWait := x.wakeWait + 1 }) (wakePort n s)
    if s.ev9.chip.strict then s
    else onNoc (fun x => { x with bufs := tmod [] x.bufs k fun l => l.map (Flit.retag (some 2)) }) s
  else s

/-- A scheduled flit stands at its slot without credit: the wait of R61 begins. -/
def startWait (want : Option CreditOf) (vc : Nat) (s : State) : State :=
  match want with
  | some (.port n) => onPort n.val (fun x => { x with creditWait := tmod 0 x.creditWait vc fun j => max 1 j }) s
  | some (.part q) => onNoc (fun x => { x with creditWait := tmod 0 x.creditWait (4 * q.val + vc) fun j => max 1 j }) s
  | none => s

/-- The router's clock lets its outputs move best-effort flits: a station always, a mesh router unless its partition is FENCED or a
droop has stopped its island (R51, R59, R349). -/
def Ev9.routerRuns (e : Ev9) (r : Nat) : Bool :=
  if r < 16 then
    (e.part (r / 2)).state != .fenced && !(e.part (r / 2)).islandStopped e.chip.strict (8 + r % 2)
  else true

/-- The router follows its slot tables on VC0–VC3: a frozen partition's does not (R59). -/
def Ev9.tablesRun (e : Ev9) (r : Nat) : Bool :=
  if r < 16 then e.live (r / 2) && e.routerRuns r else true

/-- The buffer that an output's entry of this beat names, if the entry is valid. -/
def Ev9.slotBuf (e : Ev9) (r o : Nat) : Option Nat :=
  let x := e.slotNow r o
  if e.tablesRun r && slotValid x then
    some (bufIndex r (slotSource x / 4) (slotSource x % 4) (if r < 16 && slotSource x / 4 == 4 then slotCore x else 0))
  else none

/-- The best-effort VCs in the order in which an output serves them: VC7, then VC4–VC6 from the one after the last served (R262). -/
def beOrder (last : Nat) : List Nat :=
  7 :: match last with
    | 4 => [5, 6, 4]
    | 5 => [6, 4, 5]
    | _ => [4, 5, 6]

/-- The buffer of a best-effort VC at router `r` whose head takes output `o` and can move, lowest input first. -/
def Ev9.beBuf (e : Ev9) (r o vc : Nat) : Option (Nat × Flit) :=
  ((List.range 24).map fun j => bufIndex r (j / 4) vc (j % 4)).findSome? fun k =>
    match e.noc.head k with
    | none => none
    | some f =>
      if e.beOutput r f = some o then
        match e.moveOf r o f with
        | .hold _ => none
        | _ => some (k, f)
      else none

/-- One beat of an output: the flit that a valid entry names, else a best-effort flit (R261, R262, R294). -/
def routerOutput (r o : Nat) (s : State) : State :=
  let named := match s.ev9.slotBuf r o with
    | none => none
    | some k => (s.ev9.noc.head k).map fun f => (k, f)
  match named with
  | some (k, f) =>
    match s.ev9.moveOf r o f with
    | .hold want => startWait want f.vc (if o = 3 ∨ o = 4 then waitAsleep r k s else s)
    | mv => takeFlit r o k f mv s
  | none =>
    if !s.ev9.routerRuns r then s
    else match (beOrder (tget 0 s.ev9.noc.served (8 * r + o))).findSome? fun vc => s.ev9.beBuf r o vc with
      | none => s
      | some (k, f) =>
        onNoc (fun x => if f.vc = 7 then x else { x with served := tput 0 x.served (8 * r + o) f.vc })
          (takeFlit r o k f (s.ev9.moveOf r o f) s)

/-- A flit is queued for a port: it stands in the port's station on its way out (R285). -/
def Ev9.queuedFor (e : Ev9) (n : Nat) : Bool :=
  e.noc.bufs.any fun b => bufRouter b.1 == 16 + n && b.2.any fun f => e.exitPort f == some (some n)

/-- Best-effort flits that wait at a station for a sleeping port wake it. -/
def wakeWaiting (r : Nat) (s : State) : State :=
  if 16 ≤ r ∧ r < 28 ∧ (s.ev9.port (r - 16)).state.asleep = true then
    (s.ev9.noc.bufs.filter fun b => bufRouter b.1 == r).foldl (fun s b =>
      match s.ev9.noc.head b.1 with
      | some f => if s.ev9.beOutput r f = some 3 ∧ 4 ≤ f.vc then waitAsleep r b.1 s else s
      | none => s) s
  else s

/-- One beat of a router: each of its outputs moves at most one flit (R258). -/
def routerBeat (r : Nat) (s : State) : State :=
  (List.range 6).foldl (fun s o => if outputExists r o then routerOutput r o s else s) (wakeWaiting r s)

/-! ## Cores and the network (R54, R210) -/

/-- The mover's oldest flit enters its router's local input, if its crossing has a place: a full crossing holds the sender's write
(R54). It is tagged by its core (R53, R64). -/
def sendFlit (c : Nat) (s : State) : State :=
  match (s.ev9.core c).sendq with
  | [] => s
  | x :: rest =>
    let k := bufIndex (clusterOf c) 4 x.flit.vc (c % 4)
    if (s.ev9.noc.buf k).length < bufCap (clusterOf c) 4 x.flit.vc then
      let f := x.flit.retag ((s.ev9.part (partOf c)).tagOut (c % 8))
      pushFlit k { f with wait := 3 } (onCore c (fun y => { y with sendq := rest }) s)
    else s

/-- The cores whose movers hold flits that have not left them, and that run. -/
def Ev9.sending (e : Ev9) : List Nat := (e.cores.filter fun x => !x.2.sendq.isEmpty && e.coreLive x.1).map (·.1)

/-! ## One edge beat -/

/-- Flits come nearer to the inputs that they move to. -/
def Flit.age (f : Flit) : Flit := { f with wait := f.wait - 1 }

/-- Waits for credit go on while there is none (R61). -/
def Port.ageWaits (x : Port) : Port :=
  { x with creditWait := (x.creditWait.filter fun w => decide (512 ≤ tget 0 x.spent w.1)).map fun w => (w.1, w.2 + 1)
           replayLeft := x.replayLeft - 1
           failing := if x.replayLeft = 1 then none else x.failing }

/-- The network's own ageing: flits on the way, waits for credit, and the edge beat. -/
def Noc.age (x : Noc) : Noc :=
  { x with
    edgeBeat := x.edgeBeat + 1
    bufs := x.bufs.map fun b => (b.1, b.2.map Flit.age)
    creditWait := (x.creditWait.filter fun w => decide (512 ≤ (tget 0 x.xeab w.1).toNat)).map fun w => (w.1, w.2 + 1) }

/-- One beat of the network and of the ports (R46: the edge never freezes). -/
def fabricBeat (s : State) : State :=
  let rs := s.ev9.noc.bufs.foldl (fun l b => sadd l (bufRouter b.1)) []
  let s := rs.foldl (fun s r => routerBeat r s) s
  let s := s.ev9.sending.foldl (fun s c => sendFlit c s) s
  let ps := (s.ev9.ports.filter fun x => x.2.creditWait != [] || x.2.replayLeft != 0).map (·.1)
  let s := ps.foldl (fun s n => onPort n Port.ageWaits s) s
  let cs := (s.ev9.cores.filter fun x => !x.2.inbox.isEmpty).map (·.1)
  cs.foldl (fun s c => onCore c (fun x => { x with inbox := x.inbox.map Flit.age }) s) (onNoc Noc.age s)

/-! ## Credits end curls (R61) -/

/-- A buffer has a free place again. -/
def Ev9.hasCredit (e : Ev9) (of : CreditOf) (vc : Nat) : Bool :=
  match of with
  | .port n => decide (tget 0 (e.port n.val).spent vc < 512)
  | .part q => decide ((tget 0 e.noc.xeab (4 * q.val + vc)).toNat < 512)

/-- The waits for credit of a partition that are over. -/
def Ev9.creditCauses (e : Ev9) (p : Nat) : List CurlCause :=
  (e.part p).curl.causes.filter fun k => match k with
    | .credit of vc => e.hasCredit of vc.val
    | _ => false

/-- Curls for want of credit whose credit has returned have only their 16 beats left. -/
def settleCredits (s : State) : State :=
  (List.range 8).foldl (fun s p => (s.ev9.creditCauses p).foldl (fun s k => closeCause p k s) s) s

end Sys2Proof.Machine
end

