-- ==== Sys2Proof/Machine/StepOps.lean ====
section
/-! DEFINITION. StepOps.lean: acorn counters and waits (R138–R151), the VDD_CORE setpoint and paces (R367, R368, R379–R382),
and how a member begins and ends steps (R25–R32, R487). -/

namespace Sys2Proof.Machine

open Sys2Proof

/-! ## Acorn counters (R138–R151) -/

/-- An addition to a counter, saturating (R140); an arrival signal also subtracts 1 from X (R141). -/
def Acorn.add (n : Nat) (arrival : Bool) (a : Acorn) : Acorn :=
  { a with value := satAdd a.value n
           overflow := a.overflow || decide (65535 < a.value.toNat + n)
           expected := if arrival then a.expected - 1 else a.expected }

/-- Counter `i` of a core. -/
def Core.acorn (c : Core) (i : Nat) : Acorn := tget {} c.acorns i

/-- A thread's WAIT on a counter proceeds: n is subtracted and the thread runs (R139). -/
def Core.proceed (t : Nat) (c : Core) : Core :=
  let th := c.thread t
  let i := th.regs.waitAc.toNat
  let n := th.regs.waitN.toNat
  if th.regs.state = .waiting ∧ n ≤ (c.acorn i).value.toNat then
    { c with acorns := tmod {} c.acorns i fun a => { a with value := BitVec.ofNat 16 (a.value.toNat - n) } }.onThread t
      fun th => { th with regs := { th.regs with state := .running, waitAc := 0, waitN := 0 }, waitBeats := 0 }
  else c

/-- The waits that `sel` picks are checked in ascending thread order, each with what those before it left. -/
def Core.proceedIf (sel : Thread → Bool) (c : Core) : Core :=
  (List.range 4).foldl (fun x t => if sel (x.thread t) then x.proceed t else x) c

/-- The waits of a beat: those of earlier beats in ascending thread order, then a WAIT issued in this beat (R151). -/
def Core.resolveWaits (c : Core) : Core :=
  (c.proceedIf fun t => t.waitBeats != 0).proceedIf fun t => t.waitBeats == 0

/-- A counter of a core takes an addition. -/
def Core.addAcorn (i n : Nat) (arrival : Bool) (c : Core) : Core :=
  let o := decide (65535 < (c.acorn i).value.toNat + n)
  { c with acorns := tmod {} c.acorns i (Acorn.add n arrival), acornOverflow := c.acornOverflow || o }

/-- A counter takes an addition. The subtractions of a beat follow all its additions, when the beat ends (R151, Core.tick). -/
def signalCore (c i n : Nat) (arrival : Bool) (s : State) : State :=
  let x := s.ev9.core c
  let s := if 65535 < (x.acorn i).value.toNat + n then
    noteSet (offAcorn c i) 17 (x.acorn i).overflow (noteSet (offCoreStatus c) 4 x.acornOverflow s) else s
  onCore c (Core.addAcorn i n arrival) s

/-- The cores of a partition (R341). -/
def coresOf (p : Nat) : List Nat := upFrom (8 * p) 8

/-! ## VDD_CORE (R367, R368) -/

/-- The setpoint of a pace in mV: the table of R367 less the trim. -/
def setpoint (strict : Bool) (k : Nat) : Nat :=
  let base := match k with
    | 0 => 810 | 1 => 770 | 2 => 730 | 3 => 690 | 4 => 650 | 5 => 620 | 6 => 585 | _ => 550
  (if strict then base + 35 else base) - Config.vddTrim

/-- The paces that a partition holds for the setpoint: the one in force, those that cues have named, and a prepared one. -/
def Ev9.heldPaces (e : Ev9) (p : Nat) : List Nat :=
  (e.part p).clk.pace.val :: ((e.part p).clk.pending.toList.map (·.val)
    ++ match e.memberOf p with
      | none => []
      | some (_, m) => m.paces.map (·.2) ++ m.prepared.toList.map (·.val))

/-- The partition takes part in the choice of VDD_CORE and in budgets: it is ENABLING or ON. -/
def Part.powered (x : Part) : Bool := x.state == .on || x.state == .enabling

/-- The highest setpoint that a list of partitions hold. -/
def Ev9.wantedVdd (e : Ev9) (ps : List Nat) : Nat :=
  (ps.filter fun p => (e.part p).powered).foldl (fun v p =>
    (e.heldPaces p).foldl (fun v k => max v (setpoint e.chip.strict k)) v) 0

/-- A rise of VDD_CORE is commanded at once, a fall only when no glide runs (R368). With no partition ENABLING or ON the
setpoint stands. -/
def settleVdd (s : State) : State :=
  let want := s.ev9.wantedVdd (List.range 8)
  let gliding := (List.range 8).any fun p => (s.ev9.part p).clk.glide
  if want = 0 ∨ want = s.ev9.power.vdd then s
  else if s.ev9.power.vdd < want then
    emit (.vddCore want) (onEv9 (fun e => { e with power := { e.power with vdd := want, vddReached := false } }) s)
  else if gliding then s
  else emit (.vddCore want) (onEv9 (fun e => { e with power := { e.power with vdd := want, vddReached := true } }) s)

/-- VDD_CORE has reached the setpoint of a pace. -/
def Ev9.vddFor (e : Ev9) (k : Nat) : Bool :=
  decide (setpoint e.chip.strict k ≤ e.power.vdd) && e.power.vddReached

/-! ## Paces -/

/-- A pace as a number is again a pace. -/
def toPace (n : Nat) : Fin 8 := Fin.ofNat 8 n

/-- The partition takes a new pace and begins to glide (R49). -/
def Clk.setPace (k : Fin 8) (c : Clk) : Clk :=
  if c.pace = k then c else { c with pace := k, glide := true }

/-- A pace that a cue has named comes into force at a step boundary (R29). A braked partition ignores a faster one and keeps it
pending, unless every source has released and VDD_CORE has reached its setpoint: then it applies and the brake ends (R381,
R382, R389). -/
def applyNamed (k : Fin 8) (p : Nat) (s : State) : State :=
  let c := (s.ev9.part p).clk
  if !c.braked then onPart p (onClk fun c => { c.setPace k with pending := none }) s
  else if s.ev9.power.brakeSrc = 0 ∧ s.ev9.vddFor k.val = true then
    onPart p (onClk fun c => { c.setPace k with pending := none, braked := false }) s
  else if c.pace ≤ k then onPart p (onClk fun c => { c.setPace k with pending := none }) s
  else onPart p (onClk fun c => { c with pending := some k }) s

/-- PWR_STATUS.braked falls when no partition is braked and no source is active (R382, R387). -/
def settleBrake (s : State) : State :=
  if s.ev9.power.brakeSrc = 0 ∧ (List.range 8).all (fun p => !(s.ev9.part p).clk.braked) = true then
    onEv9 (fun e => { e with power := { e.power with braked := false } }) s
  else s

/-- The slower of two paces. -/
def slower (a b : Fin 8) : Fin 8 := if a ≤ b then b else a

/-- A member's request is the slowest of its partitions' (R378). -/
def Ev9.memberRequest (e : Ev9) (m : Member) : Fin 8 :=
  m.parts.foldl (fun k p => slower k (e.part p).request) 0

/-- A PACE_REQUEST goes to the ringmaster (R379). -/
def sendRequest (t : Nat) (brake : Bool) (s : State) : State :=
  match s.ev9.member? t with
  | none => s
  | some m =>
    let r := s.ev9.memberRequest m
    let k := if brake then slower s.ev9.power.brakePace r else r
    if m.position = 0 then onMember t (fun m => { m with requests := tins m.requests 0 k.val }) s
    else toRingmaster m (.paceRequest (BitVec.ofNat 16 t) m.position k brake m.step) s

/-! ## Cues (R25–R27) -/

/-- The logical tx ports of a member's children in the cue tree (R21). -/
def Member.children (m : Member) : List Nat :=
  match m.image with
  | none => []
  | some g => (g.cueTree.filter fun c => c.parent == m.position).map fun c => c.txPort.toNat

/-- A cue or notice goes to the member's children, by the ports that play the roles of its tx ports (R27, R277). -/
def toChildren (m : Member) (vc : Nat) (o : Nat → Out) (s : State) : State :=
  m.children.foldl (fun s l => match s.ev9.roleOf l with
    | some n => queueFlit n vc (emit (o n) s)
    | none => s) s

/-- A cue goes to the member's children on VC0 (R25, R27). -/
def forwardCue (m : Member) (c : Cue) (s : State) : State := toChildren m 0 (fun n => .cue n c) s

/-- A prepare notice goes down the cue tree, and the member holds the prepared pace (R368, R379). -/
def forwardNotice (t : Nat) (k : Fin 8) (s : State) : State :=
  match s.ev9.member? t with
  | none => s
  | some m =>
    let s := toChildren m 7 (fun n => .prepare (BitVec.ofNat 16 t) n k) s
    settleVdd (onMember t (fun m => { m with prepared := some k, preparedAge := 0 }) s)

/-- The slowest latest request of the troupe. -/
def Member.slowestRequest (m : Member) : Nat := m.requests.foldl (fun k r => max k r.2) 0

/-- The pace that the ringmaster's cue names, and whether a notice goes out with it (R379, R391): S slower than Q or equal to
it is named and withdraws a notice; a faster one is named one pace at a time, 200 µs after its notice (log 13). -/
def Member.nextPace (m : Member) : Nat × Option (Fin 8) × Bool :=
  let q := m.named.val
  if q ≤ m.slowestRequest then (m.slowestRequest, none, false)
  else
    match m.notice with
    | some k =>
      if k.val = q - 1 ∧ 3 ≤ m.noticeAge then (q - 1, none, false) else (q, some k, false)
    | none => (q, some (toPace (q - 1)), true)

/-- The member holds what a cue says: its pace comes into force at step n + 2, and for the first cue of a start or rerun at steps
n and n + 1 too (R29, log 15). A cue that names the prepared pace releases it (R379). -/
def Member.noteCue (c : Cue) (m : Member) : Member :=
  let n := c.step.toNat
  let base := if m.firstCue then tins (tins m.paces n c.pace.val) (n + 1) c.pace.val else m.paces
  { m with
    paces := tins base (n + 2) c.pace.val
    firstCue := false
    prepared := if m.prepared = some c.pace then none else m.prepared }

/-- The next pace that a cue has named and that is not yet applied shows as pending (R73). -/
def notePending (t : Nat) (s : State) : State :=
  match s.ev9.member? t with
  | none => s
  | some m =>
    let next := (m.paces.find? fun e => decide (m.step.toNat < e.1) || (!m.inStep && e.1 == m.step.toNat)).map (·.2)
    m.parts.foldl (fun s p => onPart p (onClk fun c =>
      if c.braked && c.pending.isSome then c else { c with pending := next.map toPace }) s) s

/-- The ringmaster issues cue `n` (R26, R32, R379). A cue with STOP starts no step; the pace that it carries is the one that the last
cue named (DESIGN CHOICE, log 52). -/
def issueCue (t : Nat) (n : BitVec 48) (stop : Bool) (s : State) : State :=
  match s.ev9.member? t with
  | none => s
  | some m =>
    let (k, notice, send) := if stop then (m.named.val, m.notice, false) else m.nextPace
    let c : Cue := ⟨BitVec.ofNat 16 t, n, toPace k, stop, m.admits⟩
    let s := onMember t (fun m => { (if stop then m else m.noteCue c) with
      named := toPace k, notice := notice, noticeAge := if send then 0 else m.noticeAge, admits := 0 }) s
    let s := forwardCue m c s
    match send, notice with
    | true, some k => forwardNotice t k s
    | _, _ => s

/-! ## Steps (R28, R124, R138, R487) -/

/-- What a core holds in its step snapshot (R487). -/
def Core.snap (n : BitVec 48) (c : Core) : Snap where
  step := n
  threads := c.threads.map fun e => (e.1, e.2.regs)
  acorns := c.acorns
  timers := c.timers
  handles := c.handles
  loops := c.loops
  vl := c.vec.vl
  masks := c.vec.masks

/-- Beat 0 of step n on a core: threads of a new run start, the counts of R234 start at 0, the snapshot is taken, and ac0 takes
its 1 (R124, R138, R234, R487). -/
def Core.stepStart (n : BitVec 48) (starting : Bool) (c : Core) : Core :=
  let run (th : Thread) : Thread :=
    { th with regs := { th.regs with
        nVec := 0
        state := if starting && decide (0 < th.codeLen) && th.regs.state == .halted then .running else th.regs.state } }
  let c := (((c.onThread 0 run).onThread 1 run).onThread 2 run).onThread 3 run
  let c := { c with snaps := ((c.snaps.filter fun (x : Snap) => decide (x.step.toNat < n.toNat)) ++ [c.snap n]).reverse.take 3 |>.reverse }
  c.addAcorn 0 1 false

/-- The lost beats of a partition's islands count from the start of the step (R53). -/
def Clk.freshLost (c : Clk) : Clk :=
  { c with isl := (List.range 10).foldl (fun t i => tmod {} t i fun x => { x with lost := 0, skipped := 0 }) c.isl }

/-- A partition begins step n at beat 0 (R28, R29, R53, R64, R71). -/
def partStep (n : BitVec 48) (named : Option (Fin 8)) (onArrival starting : Bool) (p : Nat) (s : State) : State :=
  let s := flushBreach p s
  let s := onPart p (fun x =>
    { x with clk := { x.clk.freshLost with step := n, stepBeat := 0 }
             curl := if onArrival then { x.curl with lag := none } else x.curl }) s
  let s := match named with
    | none => s
    | some k => applyNamed k p s
  (coresOf p).foldl (fun s c => if s.ev9.retired c then s else onCore c (Core.stepStart n starting) s) s

/-- The slot's lane is occupied in step n of troupe t (R324). -/
def StreamSlot.occupiedIn (t n : Nat) (g : StreamSlot) : Bool :=
  g.troupe.toNat == t && (g.state == .bound || g.state == .releasing) &&
    (g.history.any fun k => k.step.toNat == n && k.fetched)

/-- The position counter of a slot counts the steps in which its lane is occupied, saturating (R324, R333). -/
def countOccupied (t : Nat) (n : Nat) (s : State) : State :=
  let bump (e : Nat × StreamSlot) : Nat × StreamSlot :=
    if e.2.occupiedIn t n then (e.1, { e.2 with position := satAdd e.2.position 1 }) else e
  onEv9 (Ev9.onHif fun h => { h with slots := h.slots.map bump }) s

/-- The cue of the member's next step, if it has come. -/
def Member.cueDue (m : Member) : Option (PortId × Cue) := m.cues.find? fun c => c.2.step == m.step

/-- A cue leaves the early-arrival buffer in which it waited (R28, R66). -/
def releaseCues (l : List (PortId × Cue)) (s : State) : State := l.foldl (fun s c => releasePlace c.1.val 0 s) s

/-- The member begins its step. The ringmaster issues the step's cue at beat 0 (R26). Cues up to this step leave their buffers. -/
def beginStep (t : Nat) (onArrival : Bool) (s : State) : State :=
  match s.ev9.member? t with
  | none => s
  | some m0 =>
    let n := m0.step
    let starting := m0.run == .starting && m0.lastBegun.isNone
    let s := if m0.position = 0 then issueCue t n false s else s
    match s.ev9.member? t with
    | none => s
    | some m =>
      let named := (tfind m.paces n.toNat).map toPace
      let s := m.parts.foldl (fun s p => partStep n named onArrival starting p s) s
      let s := releaseCues (m.cues.filter fun c => decide (c.2.step.toNat ≤ n.toNat)) s
      let s := onMember t (fun m =>
        { m with run := .running, inStep := true, lastBegun := some n, cueCurl := false, waited := 0, cancelled := false,
                 cues := m.cues.filter fun c => decide (n.toNat < c.2.step.toNat),
                 rerun := none, cutDone := false,
                 paces := m.paces.filter fun e => decide (n.toNat < e.1) }) s
      countOccupied t n.toNat (settleBrake (settleVdd (notePending t s)))

/-- The member stands at a step boundary and every partition of it can run. -/
def Ev9.atBoundary (e : Ev9) (m : Member) : Bool := !m.inStep && m.parts.all fun p => (e.part p).free

/-- The start or rerun awaited on the ringmaster completes: IMAGE_START with CAP_CONSTRAINED when the first steps run slower
than start_pace (R31, R395), STEP_RERUN with OK. -/
def completeStart (t : Nat) (pace : Nat) (s : State) : State :=
  match s.ev9.member? t with
  | none => s
  | some m =>
    let start := match m.image with
      | some g => g.startPace.val
      | none => 0
    let st := if start < pace then stCapConstrained else stOk
    let s := finish (fun d => d.work == .imageStart (BitVec.ofNat 16 t)) (fun _ => st) (fun _ => []) s
    finish (fun d => d.work == .rerun (BitVec.ofNat 16 t)) (fun _ => stOk) (fun _ => []) s

/-- READY is held from every position of the member table (R30). -/
def Member.allReady (m : Member) : Bool :=
  match m.image with
  | some g => (List.range g.members).all fun i => m.ready.contains i
  | none => false

/-- The ringmaster holds READY from every position: cue n goes out and its step begins, as soon as none of its partitions is frozen
(R30, R489). -/
def launch (t : Nat) (s : State) : State :=
  match s.ev9.member? t with
  | none => s
  | some m =>
    if m.position = 0 ∧ m.run = .starting ∧ m.allReady = true ∧ m.badStart = none ∧ s.ev9.atBoundary m = true then
      let pace := max m.firstPace.val m.slowestRequest
      let s := onMember t (fun m =>
        { m with named := toPace pace, notice := none, noticeAge := 0, ready := [], firstCue := true }) s
      let s := beginStep t false s
      completeStart t pace s
    else s

/-- A member that waits for its cue, or for its partitions to resume, begins its step if nothing holds it any more (R28, R30). -/
def tryBegin (t : Nat) (onArrival : Bool) (s : State) : State :=
  match s.ev9.member? t with
  | none => s
  | some m =>
    if m.position = 0 then
      if m.run = .starting then launch t s
      else if m.run = .running ∧ s.ev9.atBoundary m = true then beginStep t onArrival s else s
    else if (m.run = .running ∨ m.run = .starting) ∧ m.cueDue.isSome = true ∧ s.ev9.atBoundary m = true then
      beginStep t onArrival s
    else s

/-- A frozen group resumes (R60): its curl has lasted its frozen beats, and a member that stood at its boundary begins its step. -/
def resumeGroup (p : Nat) (s : State) : State :=
  let s := onPart p (onCurl fun c => c.resume c.lasted) s
  match s.ev9.memberOf p with
  | none => s
  | some (t, _) => tryBegin t false s

/-- A cause of the partition clears, and the group resumes in the same beat if nothing else holds it. -/
def endCause (p : Nat) (k : CurlCause) (s : State) : State :=
  let s := closeCause p k s
  let c := (s.ev9.part p).curl
  if c.curled && !c.held && c.cleared then resumeGroup p s else s

/-- A slot is free again. -/
def freeSlot (n : Nat) (s : State) : State := onEv9 (Ev9.onHif fun h => { h with slots := tdel h.slots n }) s

/-- The slots of a troupe on this chip in a state. -/
def Ev9.slotsOf (e : Ev9) (t : Nat) (st : SlotState) : List Nat :=
  (e.hif.slots.filter fun x => x.2.troupe.toNat == t && x.2.state == st && !x.2.orphan).map (·.1)

/-- Every pending STREAM_OPEN of the troupe completes with WRONG_STATE and its slot is freed (R40, R351). -/
def failOpens (t : Nat) (s : State) : State :=
  let ns := s.ev9.slotsOf t .pending
  let s := finish (fun d => match d.work with | .streamOpen n => ns.contains n | _ => false)
    (fun _ => stWrongState) (fun _ => []) s
  ns.foldl (fun s n => freeSlot n s) s

/-- The member stops at the end of its step: deferred IMAGE_STOPs complete OK, and streams still pending are refused (R32,
R40). -/
def stopMember (t : Nat) (s : State) : State :=
  match s.ev9.member? t with
  | none => s
  | some m =>
    let s := m.parts.foldl (fun s p => flushBreach p s) s
    let s := onMember t (fun m =>
      { m with run := .stopped, inStep := false, stopping := none, stopNext := false, cues := [], cueCurl := false,
               waited := 0 }) (releaseCues m.cues s)
    failOpens t (finish (fun d => d.work == .imageStop (BitVec.ofNat 16 t)) (fun _ => stOk) (fun _ => []) s)

/-! ## READY and the start (R30, R31, R38, R41, R43, R489) -/

/-- Who spoils a start: a second READY for a position, or a position beyond the member count, of this READY or of one that came before
the count was known (R38, R43). -/
def Member.spoiler (m : Member) (position : Nat) : Option Nat :=
  match m.image with
  | none => if m.ready.contains position then some position else none
  | some g =>
    if m.ready.contains position || decide (g.members ≤ position) then some position
    else m.ready.find? fun i => decide (g.members ≤ i)

/-- A start that a READY has spoiled: the commands that await cue 0 complete with BAD_PARAM, naming the position (R38, R43). -/
def spoilStart (t position : Nat) (s : State) : State :=
  let sel : Deferred → Bool := fun d =>
    d.work == .imageStart (BitVec.ofNat 16 t) || d.work == .rerun (BitVec.ofNat 16 t)
  onMember t (fun m => { m with badStart := some position, rerun := none })
    (finish sel (fun _ => stBadParam) (fun _ => leBytes 2 position) s)

/-- The ringmaster takes a READY (R30, R38, R43). -/
def takeReady (t : Nat) (position : Nat) (pace : Fin 8) (s : State) : State :=
  match s.ev9.member? t with
  | none => s
  | some m =>
    match m.spoiler position with
    | some q => spoilStart t q s
    | none =>
      launch t (onMember t (fun m =>
        { m with ready := sadd m.ready position, requests := tins m.requests position pace.val }) s)

/-- READY goes to the ringmaster (R30). -/
def sendReady (t : Nat) (s : State) : State :=
  match s.ev9.member? t with
  | none => s
  | some m =>
    let k := s.ev9.memberRequest m
    if m.position = 0 then takeReady t 0 k s
    else toRingmaster m (.ready (BitVec.ofNat 16 t) m.position k) s

end Sys2Proof.Machine
end

