-- ==== Sys2Proof/Machine/Curls.lean ====
section
/-! DEFINITION. Curls.lean: the events of clocks, droop and curls (R47–R80). An event that cannot occur in the present state
changes nothing (log 11). -/

namespace Sys2Proof.Machine

open Sys2Proof

/-- An entry of this beat whose due bit is set names an input and VC of router `r`, in the partition's cluster islands (R260,
R261). -/
def Ev9.dueEntry (e : Ev9) (p : Nat) (r inp vc : Nat) : Option (BitVec 32) :=
  if r < 16 ∧ r / 2 = p then
    (List.range 6).findSome? fun o =>
      let x := e.slotNow r o
      if outputExists r o && slotValid x && slotDue x && slotSource x == 4 * inp + vc then some x else none
  else none

/-- The buffer of a flit item; a local input's source core is the one that the entry names. -/
def Ev9.dueBuf (e : Ev9) (r inp vc : Nat) (x : BitVec 32) : List Flit :=
  e.noc.buf (bufIndex r inp vc (if inp = 4 then slotCore x else 0))

/-- A bank of the core's channel is being refreshed. -/
def Ev9.channelBusy (e : Ev9) (c ch : Nat) : Bool :=
  (List.range 16).any fun b => (tget {} e.banks (64 * c + 16 * ch + b)).busy

/-- The cause that the state shows for an item that is absent at its due beat: a refresh or the core's own window for a near read,
the host window for its reads (R63, R113). -/
def Ev9.delayCause (e : Ev9) (i : Item) : Tag :=
  match i with
  | .read c ch => if (e.core c).window || e.channelBusy c ch then some 1 else none
  | .hostWindow _ => some 6
  | _ => none

/-- A refresh outside the core's carousel window delays a scheduled access of a strict partition: an intrusion (R97, R111). -/
def noteIntrusion (p : Nat) (i : Item) (s : State) : State :=
  match i with
  | .read c ch =>
    if s.ev9.chip.strict && !(s.ev9.core c).window && s.ev9.channelBusy c ch then
      noteSet (offTierStatus p) 3 (s.ev9.part p).tier.intrusion
        (onPart p (fun x => { x with tier := { x.tier with intrusion := true } }) s)
    else s
  | _ => s

/-- An item is absent at its due beat: a curl request is raised (R58). -/
def Curl.await (a : Absent) (c : Curl) : Curl := { c with request := true, absent := c.absent ++ [a], clearFor := 0 }

/-- An item is absent at the present beat of partition `p`. -/
def raiseRequest (p : Nat) (i : Item) (s : State) : State :=
  noteIntrusion p i (onPart p (fun x =>
    onCurl (Curl.await ⟨i, x.clk.stepBeat.toNat, s.ev9.delayCause i⟩) x) s)

/-- DUE_CHECK (R58, R75, R261, R294): at its due beat an item is absent and a curl request is raised. A frozen group checks nothing.
For a flit the due beat is that of a slot entry with the due bit, and the state shows whether the flit is at the head. -/
def execDueCheck (p : PartId) (item : Item) (present : Bool) (s : State) : Host.Outcome State Fault Refusal :=
  if !s.ev9.live p then stay s
  else match item with
    | .flit r i v =>
      match s.ev9.dueEntry p r.val i.val v.val with
      | none => stay s
      | some x => if (s.ev9.dueBuf r.val i.val v.val x).any (fun f => f.wait == 0) then stay s else .next (raiseRequest p item s)
    | _ => if present then stay s else .next (raiseRequest p item s)

/-- CURL_FREEZE (R58, R59, R71): an item is still absent 16 beats after it was due, and the group freezes. -/
def execCurlFreeze (p : PartId) (s : State) : Host.Outcome State Fault Refusal :=
  let x := s.ev9.part p
  if s.ev9.live p && x.curl.absent.any (fun a => decide (a.due + 16 ≤ x.clk.stepBeat.toNat)) then .next (freezeGroup p s)
  else stay s

/-- The absent entry of an item that was due in a beat (R75: several items may be absent, and of one kind). -/
def Curl.absentOf (c : Curl) (i : Item) (due : Nat) : Option Absent := c.absent.find? fun a => a.item == i && a.due == due

/-- An absent item has come: its entry is erased, and no other. -/
def Curl.present (a : Absent) (c : Curl) : Curl := { c with absent := c.absent.erase a }

/-- An item arrives while the group is frozen: the last to arrive ends the curl and gives it its cause (R60, R65, R75). -/
def Curl.lateArrival (a : Absent) (tag : Tag) (c : Curl) : Curl :=
  { c.present a with lastTag := tag, lastUntagged := tag.isNone, causeNow := tag, clearFor := 0 }

/-- An item arrives by due + 16 and the group has not frozen: a near miss, which cancels the request (R58). -/
def Curl.nearArrival (a : Absent) (c : Curl) : Curl :=
  let c := c.present a
  { c with request := !c.absent.isEmpty, nearMiss := satAdd c.nearMiss 1 }

/-- The wait of a scheduled read that a refresh delayed is counted for its core (R111). -/
def noteRefreshWait (a : Absent) (wait : Nat) (s : State) : State :=
  match a.item with
  | .read c _ =>
    if a.cause = some 1 then onCore c (fun x => { x with refreshWait := satAdd x.refreshWait wait }) s else s
  | _ => s

/-- The tag with which an absent item arrives: that of its flit, the cause noted at its due beat, or for a mover arrival the one
given. The last component says that the item has come; a read that waits for its core's carousel window has not before its end
(R113). -/
def Ev9.arrivalTag (e : Ev9) (a : Absent) (tag : Tag) : Tag × Bool :=
  match a.item with
  | .flit r i v =>
    let k := bufIndex r.val i.val v.val
    let fs := (if i.val = 4 then (List.range 4).flatMap fun c => e.noc.buf (k c) else e.noc.buf (k 0)).filter fun f => f.wait == 0
    match fs.getLast? with
    | some f => (f.h.tagOf, true)
    | none => (none, false)
  | .mover _ => (tag, true)
  | .read c _ => (a.cause, !(e.core c).window)
  | _ => (a.cause, true)

/-- ITEM_ARRIVAL (R58, R60, R63, R76). An arrival in a held partition changes nothing: it stays frozen (R67). -/
def execItemArrival (p : PartId) (item : Item) (due : Nat) (tag : Tag) (s : State) : Host.Outcome State Fault Refusal :=
  let x := s.ev9.part p
  match x.curl.absentOf item due with
  | none => stay s
  | some a =>
    let g := s.ev9.arrivalTag a tag
    if x.curl.held || !g.2 then stay s
    else if x.curl.curled then
      .next (noteRefreshWait a (x.clk.stepBeat.toNat - due + x.curl.lasted) (onPart p (onCurl (Curl.lateArrival a g.1)) s))
    else if x.clk.stepBeat.toNat ≤ due + 16 then
      .next (noteRefreshWait a (x.clk.stepBeat.toNat - due) (onPart p (onCurl (Curl.nearArrival a)) s))
    else stay s

/-- How detail word 1 of a CURL_TIMEOUT record names what is awaited (R67, log 14). -/
def Curl.awaited (c : Curl) : BitVec 32 :=
  match c.absent.head?, c.causes.head? with
  | some a, _ => Config.itemName a.item
  | none, some (.credit (.port n) _) => Config.eventName 3 n.val
  | none, some (.credit (.part q) _) => Config.eventName 3 (16 + q.val)
  | none, some k => Config.eventName k.code.val 0
  | none, none => 0

/-- CURL_TIMEOUT (R67, R76): the curl has lasted CURL_LIMIT beats. The record names the absent item or the event; the curl counts,
and no cause has ended it, so that only an open event is charged (log 14). -/
def execCurlTimeout (p : PartId) (s : State) : Host.Outcome State Fault Refusal :=
  let c := (s.ev9.part p).curl
  if !c.curled || c.held || c.cleared || decide (c.lasted < s.ev9.curlLimit) then stay s
  else
    let limit := s.ev9.curlLimit
    let t := onPart p (onCurl fun c =>
      { c with timeout := true, count := satAdd c.count 1, inStep := c.inStep + 1
               beats := satAdd c.beats limit
               histCount := match c.causes.head? with
                 | some k => tmod 0 c.histCount k.code.val fun b => satAdd b 1
                 | none => c.histCount
               histBeats := match c.causes.head? with
                 | some k => tmod 0 c.histBeats k.code.val fun b => satAdd b limit
                 | none => c.histBeats }) (noteSet (offCurlStatus p) 3 c.timeout s)
    .next (enterHeld p (faultRecord { source := 6, part := some p.val, held := true, cause := 0x0900, d1 := c.awaited.toNat } t))

/-- A partition has sent a flit that has not left the chip's routers. -/
def Ev9.sendsOn (e : Ev9) (p vc : Nat) : Bool :=
  e.noc.bufs.any fun b => b.2.any fun f => f.part == p && f.port.isNone && f.vc == vc

/-- A scheduled send has lacked a credit for 16 beats (R61). -/
def Ev9.creditDue (e : Ev9) (of : CreditOf) (vc : Nat) : Bool :=
  match of with
  | .port n => decide (16 ≤ tget 0 (e.port n.val).creditWait vc)
  | .part q => decide (16 ≤ tget 0 e.noc.creditWait (4 * q.val + vc))

/-- CREDIT_CURL (R61, R265): a scheduled send of the partition has lacked credit for 16 beats. -/
def execCreditCurl (p : PartId) (of : CreditOf) (vc : Fin 4) (s : State) : Host.Outcome State Fault Refusal :=
  if s.ev9.live p && !s.ev9.hasCredit of vc.val && s.ev9.creditDue of vc.val && s.ev9.sendsOn p vc.val then
    .next (openCause p (.credit of vc) s)
  else stay s

/-- CUE_WAIT_CURL (R28, R61, R62): the member has waited more than 16 beats for its cue; the curl counts from the end of its step. -/
def execCueWaitCurl (troupe : BitVec 16) (s : State) : Host.Outcome State Fault Refusal :=
  match s.ev9.member? troupe.toNat with
  | none => stay s
  | some m =>
    if m.run == .running && !m.inStep && m.position != 0 && m.cueDue.isNone && !m.cueCurl && decide (16 < m.waited)
        && m.parts.all (fun p => (s.ev9.part p).free) then
      .next (onMember troupe.toNat (fun m => { m with cueCurl := true })
        (m.parts.foldl (fun s p =>
          onPart p (onCurl fun c => { c with lasted := m.waited }) (openCause p .cue s)) s))
    else stay s

/-- The index of an island within its partition, and the partition. -/
def islandAt : Island → Nat × Nat
  | .core c => (partOf c.val, c.val % 8)
  | .cluster k => (k.val / 2, 8 + k.val % 2)

/-- An island with a new droop: above 60 mV its clock has stopped, until the droop falls below 60 mV (R51). -/
def Isl.droop (mv : Nat) (x : Isl) : Isl :=
  { x with mv := mv, deep := if 60 < mv then true else if mv < 60 then false else x.deep }

/-- Some island of the group is at 15 mV or more. -/
def Part.drooping (x : Part) : Bool := (List.range 10).any fun i => decide (15 ≤ (x.island i).mv)

/-- A strict group whose islands run stops its clocks while one of them is 35 mV or more below the setpoint: a curl of cause droop
(R51, R52, R80). -/
def strictDroop (p : Nat) (s : State) : State :=
  let x := s.ev9.part p
  if s.ev9.chip.strict && x.runs && !x.curl.held && !x.stopped && (List.range 10).any (fun i => decide (35 ≤ (x.island i).mv)) then
    openCause p .droop s
  else s

/-- DROOP_CHANGE (R51, R52, R80): an island of the group stretches or stops; in strict mode a stop is a curl of cause droop. An
episode of 15 mV or more in the group is counted when it begins (R73). -/
def execDroopChange (i : Island) (mv : Nat) (s : State) : Host.Outcome State Fault Refusal :=
  let (p, k) := islandAt i
  let x := s.ev9.part p
  if x.state == .off then stay s
  else
    let fresh := !x.drooping && decide (15 ≤ mv)
    .next (strictDroop p (onPart p (onClk fun c =>
      { c with isl := tmod {} c.isl k (Isl.droop mv), droopOver := if 25 ≤ mv then 0 else c.droopOver
               droopCount := if fresh then satAdd c.droopCount 1 else c.droopCount }) s))

/-- DROOP_STOP_END (R52): 16 beats after the droop has fallen below 25 mV the strict group resumes, unless another cause is
open (R79). -/
def execDroopStopEnd (p : PartId) (s : State) : Host.Outcome State Fault Refusal :=
  let x := s.ev9.part p
  if x.curl.causes.contains .droop && decide (16 ≤ x.clk.droopOver) && !x.curl.held then .next (endCause p .droop s)
  else stay s

/-- The breach record of a strict chip without a partition (R50). -/
def chipBreach (s : State) : State :=
  if s.ev9.chip.strict then faultRecord { source := 6, part := none, cause := 0x0500 } s else s

/-- The offset of CLK_TRCLK_STATUS. -/
def offTrclk : Nat := 0x1000

/-- TRCLK_LOSS (R50): the FLLs hold their setting, and a chip record says so. -/
def execTrclkLoss (s : State) : Host.Outcome State Fault Refusal :=
  if !s.ev9.chip.trPresent then stay s
  else
    let s := noteSet offTrclk 1 s.ev9.chip.trLost
      (onEv9 (fun e => { e with chip := { e.chip with trPresent := false, trLost := true, trHoldover := true } }) s)
    .next (chipBreach (faultRecord { source := 6, part := none, cause := 0x0900, d0 := 1 } s))

/-! ## Writes of CURL_CLEAR and CURL_LIMIT (R73, R77, R475) -/

/-- The offset of CURL_CLEAR_p. -/
def offCurlClear (p : Nat) : Nat := 0x2128 + 0x100 * p
/-- The offset of CURL_LIMIT. -/
def offCurlLimit : Nat := 0x2000

/-- Writing 1 zeroes every CURL_ counter of the partition. -/
def writeCurlClear (p : Nat) (v : Dword) (s : State) : State :=
  if v.getLsbD 0 then onPart p (onCurl Curl.zero) s else s

/-- CURL_LIMIT takes a value, which applies to a curl in progress too (R475). -/
def writeCurlLimit (path : RegPath) (v : Dword) (s : State) : State :=
  privWrite path .installer offCurlLimit v.toNat
    (onEv9 fun e => { e with chip := { e.chip with curlLimit := BitVec.ofNat 32 (field v 31 0) } }) s

/-- CURL_CLEAR (R73, R77). -/
def execCurlClear (path : RegPath) (p : PartId) (value : Dword) (s : State) : Host.Outcome State Fault Refusal :=
  pathWrite path path.isEv9 (writeCurlClear p value) s

/-- CURL_LIMIT_WRITE (R73, R475). -/
def execCurlLimitWrite (path : RegPath) (value : Dword) (s : State) : Host.Outcome State Fault Refusal :=
  pathWrite path path.isEv9 (writeCurlLimit path value) s

end Sys2Proof.Machine
end

