-- ==== Sys2Proof/Machine/Float.lean ====
section
/-! DEFINITION. Float.lean: exact arithmetic on binary floating-point values and its one rounding into FP32, BF16 or FP16
(R107, R230–R233). A value is converted to an exact dyadic number, computed on exactly, and narrowed once. -/

namespace Sys2Proof.Machine

open Sys2Proof

/-- An exact value: a NaN, a signed infinity, or (−1)^neg × m × 2^e, which keeps the sign of zero. -/
inductive FV where
  | nan
  | inf (neg : Bool)
  | fin (neg : Bool) (m : Nat) (e : Int)
  deriving DecidableEq, Repr

/-- A binary format with `eb` exponent bits and `mb` stored fraction bits (R230). -/
structure Fmt where
  eb : Nat
  mb : Nat
  deriving DecidableEq, Repr

/-- binary32 -/
def Fmt.fp32 : Fmt := ⟨8, 23⟩
/-- bfloat16 -/
def Fmt.bf16 : Fmt := ⟨8, 7⟩
/-- binary16 -/
def Fmt.fp16 : Fmt := ⟨5, 10⟩

/-- The exponent bias. -/
def Fmt.bias (f : Fmt) : Nat := 2 ^ (f.eb - 1) - 1
/-- The exponent of the smallest subnormal. -/
def Fmt.low (f : Fmt) : Int := 1 - (f.bias : Int) - (f.mb : Int)
/-- The all-ones exponent field. -/
def Fmt.top (f : Fmt) : Nat := 2 ^ f.eb - 1
/-- The canonical quiet NaN (R107, R230). -/
def Fmt.nan (f : Fmt) : Nat := f.top * 2 ^ f.mb + 2 ^ (f.mb - 1)
/-- The bits of a sign, an exponent field and a fraction field. -/
def Fmt.pack (f : Fmt) (neg : Bool) (ex fr : Nat) : Nat :=
  (if neg then 2 ^ (f.eb + f.mb) else 0) + ex * 2 ^ f.mb + fr
/-- The largest finite value of a sign. -/
def Fmt.big (f : Fmt) (neg : Bool) : Nat := f.pack neg (f.top - 1) (2 ^ f.mb - 1)
/-- A signed infinity. -/
def Fmt.inf (f : Fmt) (neg : Bool) : Nat := f.pack neg f.top 0

/-- The exact value of a bit pattern. -/
def Fmt.value (f : Fmt) (x : Nat) : FV :=
  let fr := x % 2 ^ f.mb
  let ex := x / 2 ^ f.mb % 2 ^ f.eb
  let neg := x / 2 ^ (f.eb + f.mb) % 2 == 1
  if ex = f.top then (if fr = 0 then .inf neg else .nan)
  else if ex = 0 then .fin neg fr f.low
  else .fin neg (2 ^ f.mb + fr) (f.low + (ex : Int) - 1)

/-- The rounding of R226 and R233; `r` is the element's random value. -/
inductive Rnd where
  | nearest
  | zero
  | stoch (r : BitVec 32)
  deriving DecidableEq, Repr

/-- The magnitude `m` without its low `sh` bits, rounded. -/
def roundBits (mode : Rnd) (m sh : Nat) : Nat :=
  let q := m / 2 ^ sh
  let rem := m % 2 ^ sh
  match mode with
  | .zero => q
  | .nearest => if 2 ^ sh < 2 * rem ∨ (2 ^ sh = 2 * rem ∧ q % 2 = 1) then q + 1 else q
  | .stoch r => if r.toNat < rem * 2 ^ 32 / 2 ^ sh then q + 1 else q

/-- A rounded result with its flags (R232). -/
structure Rounded where
  bits : Nat
  overflow : Bool := false
  under : Bool := false
  inexact : Bool := false
  deriving DecidableEq, Repr

/-- An exact value is narrowed once into a format. UF is raised by a non-zero value below the normal range that is not
representable (R232, log 18). -/
def Fmt.round (f : Fmt) (mode : Rnd) (v : FV) : Rounded :=
  match v with
  | .nan => { bits := f.nan }
  | .inf neg => { bits := f.inf neg }
  | .fin neg m e =>
    if m = 0 then { bits := f.pack neg 0 0 }
    else
      let lead : Int := (Nat.log2 m : Int) + e
      let unit : Int := max f.low (lead - (f.mb : Int))
      let inexact := decide (e < unit) && decide (m % 2 ^ (unit - e).toNat ≠ 0)
      let q := if e < unit then roundBits mode m (unit - e).toNat else m * 2 ^ (e - unit).toNat
      let tiny := decide (lead < f.low + (f.mb : Int))
      let under := tiny && inexact
      if q < 2 ^ f.mb then { bits := f.pack neg 0 q, under := under, inexact := inexact }
      else
        let carry := decide (q = 2 ^ (f.mb + 1))
        let fr := if carry then 0 else q - 2 ^ f.mb
        let ex := (unit - f.low).toNat + 1 + (if carry then 1 else 0)
        if f.top ≤ ex then
          { bits := match mode with
              | .zero => f.big neg
              | _ => f.inf neg
            overflow := true, inexact := true }
        else { bits := f.pack neg ex fr, under := under, inexact := inexact }

/-- A result before it is narrowed, and whether it is invalid (R232, NV). -/
structure Exact where
  value : FV
  invalid : Bool := false
  deriving DecidableEq, Repr

/-- The signed integer of a sign and a magnitude. -/
def signed (neg : Bool) (m : Nat) : Int := if neg then -(m : Int) else (m : Int)

/-- The negated value. -/
def FV.neg : FV → FV
  | .nan => .nan
  | .inf n => .inf (!n)
  | .fin n m e => .fin (!n) m e

/-- The exact sum. A zero sum of values that are not both −0 is +0. -/
def FV.add (a b : FV) : Exact :=
  match a, b with
  | .nan, _ => ⟨.nan, false⟩
  | _, .nan => ⟨.nan, false⟩
  | .inf x, .inf y => if x = y then ⟨.inf x, false⟩ else ⟨.nan, true⟩
  | .inf x, .fin _ _ _ => ⟨.inf x, false⟩
  | .fin _ _ _, .inf y => ⟨.inf y, false⟩
  | .fin x m e, .fin y k g =>
    let low := min e g
    let s := signed x m * 2 ^ (e - low).toNat + signed y k * 2 ^ (g - low).toNat
    if s = 0 then ⟨.fin (x && y && decide (m = 0) && decide (k = 0)) 0 low, false⟩
    else ⟨.fin (decide (s < 0)) s.natAbs low, false⟩

/-- The exact product. -/
def FV.mul (a b : FV) : Exact :=
  match a, b with
  | .nan, _ => ⟨.nan, false⟩
  | _, .nan => ⟨.nan, false⟩
  | .inf x, .inf y => ⟨.inf (x != y), false⟩
  | .inf x, .fin y k _ => if k = 0 then ⟨.nan, true⟩ else ⟨.inf (x != y), false⟩
  | .fin x m _, .inf y => if m = 0 then ⟨.nan, true⟩ else ⟨.inf (x != y), false⟩
  | .fin x m e, .fin y k g => ⟨.fin (x != y) (m * k) (e + g), false⟩

/-- The exact fused multiply-add a × b + c. -/
def FV.fma (a b c : FV) : Exact :=
  let p := a.mul b
  if p.invalid then ⟨.nan, true⟩ else p.value.add c

/-- a is less than b, with −0 below +0 (R107, R230); false if either is a NaN. -/
def FV.less (a b : FV) : Bool :=
  match a, b with
  | .nan, _ => false
  | _, .nan => false
  | .inf x, .inf y => x && !y
  | .inf x, .fin _ _ _ => x
  | .fin _ _ _, .inf y => !y
  | .fin x m e, .fin y k g =>
    if m = 0 ∧ k = 0 then x && !y
    else
      let low := min e g
      decide (signed x m * 2 ^ (e - low).toNat < signed y k * 2 ^ (g - low).toNat)

/-- Maximum or minimum with −0 below +0; a NaN gives a NaN. -/
def FV.extreme (isMax : Bool) (a b : FV) : FV :=
  match a, b with
  | .nan, _ => .nan
  | _, .nan => .nan
  | a, b => if isMax then (if a.less b then b else a) else (if b.less a then b else a)

/-- The value is a NaN. -/
def FV.isNan : FV → Bool
  | .nan => true
  | _ => false

end Sys2Proof.Machine
end

