-- ==== Sys2Proof/Machine/MemOps.lean ====
section
/-! DEFINITION. MemOps.lean: internal addresses and reach (R81–R84), stores and poison (R98–R101), seals (R102, R103), bounds
faults (R146–R149) and scratch atomics (R106–R108). -/

namespace Sys2Proof.Machine

open Sys2Proof

/-! ## Addresses (R81) -/

/-- What an internal address selects. -/
inductive Place where
  | tier (core offset : Nat)
  | scratch (cluster offset : Nat)
  | obuf (core offset : Nat)
  | window (offset : Nat)
  | registers
  | nothing
  deriving DecidableEq, Repr

/-- The place of a 40-bit internal address. -/
def placeOf (a : Nat) : Place :=
  let off := a % 2 ^ 36
  match a / 2 ^ 36 with
  | 0 => if off < 2 ^ 32 then .tier (off / 0x4000000) (off % 0x4000000) else .nothing
  | 1 => if off < 2 ^ 28 then .scratch (off / 0x1000000) (off % 0x1000000) else .nothing
  | 2 => if off < 2 ^ 27 then .obuf (off / 0x200000) (off % 0x200000) else .nothing
  | 8 => .registers
  | 15 => .window off
  | _ => .nothing

/-- The offset is tier memory and no hole (R82). -/
def tierHas (offset : Nat) : Bool := decide (offset < 0x3000000)

/-- The internal address of a byte of a core's tier window. -/
def tierAddr (core offset : Nat) : Nat := core * 0x4000000 + offset
/-- The internal address of a byte of a cluster's scratch. -/
def scratchAddr (cluster offset : Nat) : Nat := 2 ^ 36 + cluster * 0x1000000 + offset
/-- The internal address of a byte of a core's operand buffer. -/
def obufAddr (core offset : Nat) : Nat := 2 * 2 ^ 36 + core * 0x200000 + offset

/-- The partition that owns a place (R341). -/
def Place.part? : Place → Option Nat
  | .tier c _ => some (c / 8)
  | .scratch k _ => some (k / 2)
  | .obuf c _ => some (c / 8)
  | _ => none

/-- Offsets of the host window that hold something (R325). -/
def windowHas (offset : Nat) : Bool := decide (offset < 0x10040)

/-- The reach of core `c` (R83, R485): `mover` says that the mover accesses, `write` that it writes. -/
def Ev9.reaches (e : Ev9) (c : Nat) (mover write : Bool) (a : Nat) : Bool :=
  match placeOf a with
  | .tier k off => tierHas off && k / 4 == c / 4 && !e.retired k
  | .scratch k _ => k / 2 == c / 8
  | .obuf k _ => !e.retired k && (k == c || (mover && write && k / 8 == c / 8))
  | .window off => mover && windowHas off && (e.memberOf (partOf c)).isSome
  | .registers => false
  | .nothing => false

/-! ## Seals (R102, R103) -/

/-- The byte lies in an active seal range. -/
def Ev9.sealed (e : Ev9) (a : Nat) : Bool :=
  match placeOf a with
  | .tier k off =>
    let c := e.core k
    (e.part (k / 8)).tier.sealed && c.sealValid && decide (c.sealBase.toNat ≤ off / 65536)
      && decide (off / 65536 < c.sealLimit.toNat)
  | _ => false

/-! ## Bytes and poison (R98–R101) -/

/-- The 16-byte word of an address. -/
def wordOf (a : Nat) : Nat := a / 16

/-- The word is poisoned. -/
def Ev9.poisoned (e : Ev9) (w : Nat) : Bool := e.poison.contains w

/-- One byte as a unit reads it; a byte of a poisoned word is a free value (log 4). -/
def Ev9.load (e : Ev9) (a : Nat) : Byte := if e.poisoned (wordOf a) then Config.poisonByte a else memRead e.mem a

/-- The `n` bytes from an address. -/
def Ev9.loads (e : Ev9) (a n : Nat) : List Byte := (upFrom a n).map e.load

/-- Some word that the `n` bytes from an address touch is poisoned. -/
def Ev9.anyPoison (e : Ev9) (a n : Nat) : Bool :=
  (upFrom (wordOf a) (wordOf (a + n - 1) + 1 - wordOf a)).any e.poisoned

/-- The poison of a word after bytes from `a`, `n` of them, have been stored into it: a full write replaces it, a partial write
merges (R100). -/
def storePoison (a n : Nat) (bad : Bool) (w : Nat) (l : List Nat) : List Nat :=
  if bad then sadd l w
  else if a ≤ 16 * w ∧ 16 * w + 16 ≤ a + n then sdel l w
  else l

/-- Bytes are stored from an address; `bad` says that they carry poison. -/
def Ev9.store (a : Nat) (l : List Byte) (bad : Bool) (e : Ev9) : Ev9 :=
  let n := l.length
  let ws := if n = 0 then [] else upFrom (wordOf a) (wordOf (a + n - 1) + 1 - wordOf a)
  { e with mem := memWrites e.mem a l, poison := ws.foldl (fun p w => storePoison a n bad w p) e.poison }

/-- Bytes are stored word by word, each with its own poison: `bad` by 16-byte word of the data. -/
def Ev9.storeWords (a : Nat) (l : List Byte) (bad : List Bool) (e : Ev9) : Ev9 :=
  ((List.range ((l.length + 15) / 16)).foldl fun e i =>
    e.store (a + 16 * i) (slice l (16 * i) 16) ((bad[i]?).getD false)) e

/-- Tier, scratch and operand-buffer bytes read 0 and hold no poison in a range (R344). -/
def Ev9.zeroRange (lo hi : Nat) (e : Ev9) : Ev9 :=
  { e with mem := e.mem.filter fun x => !(decide (lo ≤ x.1) && decide (x.1 < hi)),
           poison := e.poison.filter fun w => !(decide (lo ≤ 16 * w) && decide (16 * w < hi)) }

/-! ## ECC findings (R98–R100) -/

/-- The offset of SCR_STATUS_k. -/
def offScrStatus (k : Nat) : Nat := 0x2840000 + 0x40 * k

/-- The detail words that name an address and who found it: 0 engine, 1 refresh, 2 host (log 19). -/
def eccRecord (a source cause : Nat) : FaultArgs :=
  match placeOf a with
  | .scratch k _ =>
    { source := 5, part := some (k / 2), cause := cause, d0 := a % 2 ^ 32, d1 := a / 2 ^ 32, d2 := source }
  | .tier c _ =>
    { source := 4, part := some (c / 8), core := c, cause := cause, d0 := a % 2 ^ 32, d1 := a / 2 ^ 32, d2 := source }
  | .obuf c _ =>
    { source := 4, part := some (c / 8), core := c, cause := cause, d0 := a % 2 ^ 32, d1 := a / 2 ^ 32, d2 := source }
  | _ => { source := 4, part := none, cause := cause }

/-- A single-bit error is corrected and counted; the partition's first in a second is recorded (R98, R99). -/
def correctedError (a source : Nat) (s : State) : State :=
  let p := ((placeOf a).part?).getD 0
  let first := !(s.ev9.part p).tier.ceThisSecond
  let s := match placeOf a with
    | .scratch k _ => onEv9 (Ev9.onCluster k fun x => { x with ce := true, ceCount := satAdd x.ceCount 1 })
        (noteSet (offScrStatus k) 1 (s.ev9.cluster k).ce s)
    | _ => onPart p (fun x => { x with tier := { x.tier with ce := true, ceCount := satAdd x.tier.ceCount 1 } })
        (noteSet (offTierStatus p) 1 (s.ev9.part p).tier.ce s)
  let s := onPart p (fun x => { x with tier := { x.tier with ceThisSecond := true } }) s
  if first then faultRecord (eccRecord a source 0x0201) s else s

/-- A word is poisoned, and the status and address registers say so (R100, R111). -/
def poisonWord (a source : Nat) (s : State) : State :=
  let w := wordOf a
  let p := ((placeOf a).part?).getD 0
  let s := onEv9 (fun e => { e with poison := sadd e.poison w }) s
  match placeOf a with
  | .scratch k _ =>
    onEv9 (Ev9.onCluster k fun x => { x with ue := true, ueAddr := BitVec.ofNat 36 w })
      (noteSet (offScrStatus k) 0 (s.ev9.cluster k).ue s)
  | _ => onPart p (fun x => { x with tier := { x.tier with
      ue := true, ueAddr := BitVec.ofNat 36 w, ueSource := BitVec.ofNat 2 source } })
      (noteSet (offTierStatus p) 0 (s.ev9.part p).tier.ue s)

/-- An uncorrectable word is counted and recorded, and poisoned unless a full write of the same beat replaces it (R100, R117). -/
def uncorrectable (a source : Nat) (poison : Bool) (s : State) : State :=
  let s := if poison then poisonWord a source s else s
  let s := match placeOf a with
    | .scratch _ _ => s
    | _ => onPart (((placeOf a).part?).getD 0) (fun x =>
        { x with tier := { x.tier with ueCount := satAdd x.tier.ueCount 1 } }) s
  faultRecord (eccRecord (16 * wordOf a) source 0x0200) s

/-- What the SEC-DED code finds in the words from an address. -/
def applyEcc (a source : Nat) (f : EccFinding) (s : State) : State :=
  match f with
  | .clean => s
  | .single w => correctedError (a + 16 * w) source s
  | .double w => uncorrectable (a + 16 * w) source true s
  | .replaced w => uncorrectable (a + 16 * w) source false s

/-! ## Bounds faults (R148) and seal violations (R103) -/

/-- The reason codes of R148. -/
inductive BoundsReason where
  | beyondLimit | seal | reach | invalid | misaligned
  deriving DecidableEq, Repr

/-- Detail word 0. -/
def BoundsReason.code : BoundsReason → Nat
  | .beyondLimit => 0
  | .seal => 1
  | .reach => 2
  | .invalid => 3
  | .misaligned => 4

/-- Where an access came from: the source of the record, and handle, engine and loop index of detail word 1. -/
structure AccessFrom where
  source : Nat
  detail : Nat
  deriving DecidableEq, Repr

/-- An access of an engine through a handle. -/
def fromEngine (e : Engine) (handle loop : Nat) : AccessFrom :=
  match e with
  | .matrix => ⟨1, handle % 256 + 1024 * (loop % 64)⟩
  | .vector => ⟨2, handle % 256 + 256 + 1024 * (loop % 64)⟩
  | .mover => ⟨3, handle % 256 + 512 + 1024 * (loop % 64)⟩

/-- An access of thread `t`: engine 3, and the thread in the place of the handle (R193). -/
def fromThread (t : Nat) : AccessFrom := ⟨0, t + 0x300⟩

/-- TIER_STATUS_p.seal_violation is set (R103, R111). -/
def noteViolation (p : Nat) (s : State) : State :=
  onPart p (fun x => { x with tier := { x.tier with sealViolation := true } })
    (noteSet (offTierStatus p) 2 (s.ev9.part p).tier.sealViolation s)

/-- A seal violation: the write is discarded and reported (R103). -/
def sealViolation (c : Nat) (w : AccessFrom) (a : Nat) (s : State) : State :=
  let s := match (placeOf a).part? with
    | some p => noteViolation p s
    | none => s
  faultRecord { source := w.source, part := some (partOf c), core := c, cause := 0x0700, d0 := 1, d1 := w.detail,
                d2 := a % 2 ^ 32, d3 := a / 2 ^ 32 } s

/-- A thread that is active stops FAULTED (R123, R148). -/
def Thread.stopFaulted (t : Thread) : Thread :=
  if t.regs.state = .running ∨ t.regs.state = .waiting then { t with regs := { t.regs with state := .faulted } } else t

/-- Every active thread of a core stops FAULTED. -/
def Core.faultThreads (c : Core) : Core :=
  (((c.onThread 0 Thread.stopFaulted).onThread 1 Thread.stopFaulted).onThread 2 Thread.stopFaulted).onThread 3
    Thread.stopFaulted

/-- A bounds fault of core `c` (R148): threads FAULTED, the record, the status bit, the held state; pending commands complete
with WRONG_STATE. -/
def boundsFault (c : Nat) (r : BoundsReason) (w : AccessFrom) (a : Nat) (s : State) : State :=
  let p := partOf c
  let s := onCore c (fun x => { x.faultThreads with bounds := true }) (noteSet (offCoreStatus c) 3 (s.ev9.core c).bounds s)
  let s := faultRecord { source := w.source, part := some p, core := c, held := true, cause := 0x0700, d0 := r.code,
                         d1 := w.detail, d2 := a % 2 ^ 32, d3 := a / 2 ^ 32 } s
  finishNamed (BitVec.ofNat 8 (2 ^ p)) stWrongState (enterHeld p s)

/-! ## Descriptors (R126–R128) -/

/-- Bits [lo + n − 1 : lo] of a descriptor. -/
def descField (d : BitVec 256) (lo n : Nat) : Nat := (d.extractLsb' lo n).toNat

/-- A descriptor with its reserved bits 255:244 and 63:50 zero (R5, R126). -/
def descReal (d : BitVec 256) : BitVec 256 :=
  d &&& BitVec.ofNat 256 ((2 ^ 244 - 1) - (2 ^ 64 - 2 ^ 50))

/-- A loop descriptor with its reserved bits zero: bits 7:5 of byte 0 and bytes 1–7 (R5, R130). -/
def loopReal (l : BitVec 512) : BitVec 512 := l &&& BitVec.ofNat 512 ((2 ^ 512 - 2 ^ 64) + 31)

/-- The base address. -/
def descBase (d : BitVec 256) : Nat := descField d 0 40
/-- The format code (R127). -/
def descFormat (d : BitVec 256) : Nat := descField d 40 4
/-- The rank. -/
def descRank (d : BitVec 256) : Nat := descField d 44 3
/-- The sparse bit. -/
def descSparse (d : BitVec 256) : Bool := d.getLsbD 47
/-- The checksum policy (R176). -/
def descChecksum (d : BitVec 256) : Nat := descField d 48 2
/-- Size of dimension 0 in elements. -/
def descCount0 (d : BitVec 256) : Nat := descField d 64 16 + 1
/-- Size of dimension `k`, 1–4; 1 at or above the rank. -/
def descCount (d : BitVec 256) (k : Nat) : Nat := if k < descRank d then descField d (80 + 36 * (k - 1)) 16 + 1 else 1
/-- Stride of dimension `k`, 1–4, in lines. -/
def descStride (d : BitVec 256) (k : Nat) : Nat := if k < descRank d then descField d (96 + 36 * (k - 1)) 20 else 0
/-- Extent in lines from base. -/
def descLimit (d : BitVec 256) : Nat := descField d 224 20

/-- The rows of a walk, dimension 1 fastest (R128): what dimensions 1 to 4 add to the base. -/
def descRows (d : BitVec 256) : List Nat :=
  (List.range (descCount d 4)).flatMap fun i4 =>
    (List.range (descCount d 3)).flatMap fun i3 =>
      (List.range (descCount d 2)).flatMap fun i2 =>
        (List.range (descCount d 1)).map fun i1 =>
          64 * (i1 * descStride d 1 + i2 * descStride d 2 + i3 * descStride d 3 + i4 * descStride d 4)

/-- The number of rows of a walk. -/
def descRowCount (d : BitVec 256) : Nat := descCount d 1 * descCount d 2 * descCount d 3 * descCount d 4

/-- An internal address plus an offset, modulo 2^40. -/
def addAddr (a o : Nat) : Nat := (a + o) % 2 ^ 40

/-! ## The check of a line (R147, R149) -/

/-- The outcome of the checks on one line access. -/
inductive LineCheck where
  | pass
  | bounds (r : BoundsReason)
  | sealed
  deriving DecidableEq, Repr

/-- The three checks in order: limit, reach, seal. `start` is base + o. -/
def Ev9.checkLine (e : Ev9) (c : Nat) (mover write : Bool) (start limit line : Nat) : LineCheck :=
  if line < start ∨ start + 64 * limit ≤ line then .bounds .beyondLimit
  else if !e.reaches c mover write line then .bounds .reach
  else if write && e.sealed line then .sealed
  else .pass

/-! ## Scratch atomics (R106–R108) -/

/-- The three operations. -/
inductive AtomicOp where
  | add | max | min
  deriving DecidableEq, Repr

/-- The operation of a two-bit code; 3 is invalid and never decoded. -/
def atomicOp (n : Nat) : AtomicOp :=
  match n with
  | 0 => .add
  | 1 => .max
  | _ => .min

/-- The code of an operation. -/
def AtomicOp.code : AtomicOp → Nat
  | .add => 0
  | .max => 1
  | .min => 2

/-- The larger or smaller of two signed 32-bit integers. -/
def intExtreme (isMax : Bool) (a b : BitVec 32) : BitVec 32 := if (a.slt b) == isMax then b else a

/-- A floating-point atomic on two bit patterns of a format (R107): computed exactly, BF16 sums through FP32. -/
def floatAtomic (f : Fmt) (op : AtomicOp) (a b : Nat) : Nat :=
  let x := f.value a
  let y := f.value b
  match op with
  | .add =>
    let s := Fmt.fp32.round .nearest (x.add y).value
    if f = Fmt.fp32 then s.bits else (f.round .nearest (Fmt.fp32.value s.bits)).bits
  | .max => (f.round .nearest (FV.extreme true x y)).bits
  | .min => (f.round .nearest (FV.extreme false x y)).bits

/-- Bytes of one element of an atomic's format: 0x0 FP32, 0x1 BF16, 0x9 INT32. -/
def atomicBytes (fmt : Nat) : Nat := if fmt = 1 then 2 else 4

/-- One element of an atomic: the new value of memory. -/
def atomicElem (fmt : Nat) (op : AtomicOp) (old arg : Nat) : Nat :=
  match fmt with
  | 0 => floatAtomic Fmt.fp32 op old arg
  | 1 => floatAtomic Fmt.bf16 op old arg
  | _ =>
    let a := BitVec.ofNat 32 old
    let b := BitVec.ofNat 32 arg
    match op with
    | .add => (a + b).toNat
    | .max => (intExtreme true a b).toNat
    | .min => (intExtreme false a b).toNat

/-- One element at an address is changed by an atomic; poison of the element's word or of the operand spreads to the word
(R101). -/
def Ev9.atomicAt (fmt : Nat) (op : AtomicOp) (a arg : Nat) (bad : Bool) (e : Ev9) : Ev9 :=
  let n := atomicBytes fmt
  let old := leNat (e.loads a n)
  e.store a (leBytes n (atomicElem fmt op old arg)) bad

/-- The cluster counts a completed atomic. -/
def countAtomic (k : Nat) (s : State) : State :=
  onEv9 (Ev9.onCluster k fun x => { x with atomics := satAdd x.atomics 1 }) s

end Sys2Proof.Machine
end

