-- ==== Sys2Proof/Machine/Operands.lean ====
section
/-! DEFINITION. Operands.lean: the registers of a thread, the operand forms of a control word, how a thread issues an
instruction, and the operands of an engine instruction: handles, loop descriptors and signal points. -/

namespace Sys2Proof.Machine

open Sys2Proof

/-! ## Thread registers (R122) -/

/-- g[i]; g0 reads as zero. -/
def ThreadRegs.gr (r : ThreadRegs) (i : BitVec 5) : Dword := if i = 0 then 0 else tget 0 r.g i.toNat

/-- g[i] := v; a write to g0 is ignored. -/
def ThreadRegs.setG (i : BitVec 5) (v : Dword) (r : ThreadRegs) : ThreadRegs :=
  if i = 0 then r else { r with g := tput 0 r.g i.toNat v }

/-- a[i]. -/
def ThreadRegs.ar (r : ThreadRegs) (i : BitVec 5) : Addr := tget 0 r.a i.toNat

/-- a[i] := v. -/
def ThreadRegs.setA (i : BitVec 5) (v : Addr) (r : ThreadRegs) : ThreadRegs := { r with a := tput 0 r.a i.toNat v }

/-- p[i]; p0 reads as true. -/
def ThreadRegs.pr (r : ThreadRegs) (i : Nat) : Bool := i == 0 || r.p.getLsbD i

/-- p[i] := v; a write to p0 is ignored. -/
def ThreadRegs.setP (i : Nat) (v : Bool) (r : ThreadRegs) : ThreadRegs :=
  if i = 0 then r else { r with p := if v then setBit r.p i else clrBit r.p i }

/-! ## Operands of a control word (R186, R187) -/

/-- Bit I. -/
def ctlI (w : Ctl) : Bool := w.mod.getLsbD 4

/-- The immediate, sign-extended to 64 bits. -/
def ctlImm (w : Ctl) : Dword := w.imm.signExtend 64

/-- Operand b: the immediate if I is set, else g[srcb]. -/
def operandB (r : ThreadRegs) (w : Ctl) : Dword := if ctlI w then ctlImm w else r.gr w.srcb

/-- The guard holds: p[pred] XOR pinv. -/
def guardHolds (r : ThreadRegs) (w : Ctl) : Bool := r.pr w.pred.toNat != w.pinv

/-- The address a[srca] + sext(imm) of a thread access. -/
def ctlAddr (r : ThreadRegs) (w : Ctl) : Addr := r.ar w.srca + w.imm.signExtend 40

/-! ## Issue (R121, R187, R189) -/

/-- The registers of thread `t` of core `c`. -/
def State.regs (s : State) (c : CoreId) (t : ThreadId) : ThreadRegs := ((s.ev9.core c).thread t).regs

/-- A thread changed by `f`. -/
def onThread (c : CoreId) (t : ThreadId) (f : Thread → Thread) (s : State) : State := onCore c (Core.onThread t f) s

/-- The registers of a thread changed by `f`. -/
def onRegs (c : CoreId) (t : ThreadId) (f : ThreadRegs → ThreadRegs) (s : State) : State :=
  onThread c t (Thread.onRegs f) s

/-- The queue of an engine. -/
def Core.queue (x : Core) : Engine → List QEntry
  | .matrix => x.qMatrix
  | .vector => x.qVector
  | .mover => x.qMover

/-- A queue with no free entry of its 16 (R133). -/
def Core.full (x : Core) (e : Engine) : Bool := decide (16 ≤ (x.queue e).length)

/-- The queues in which the instruction whose word 0 and word 1 these are places entries. -/
def wordQueues (w0 w1 : Dword) : List Engine :=
  let op := (wordOpcode w0).toNat
  if op = 0x48 then [.vector]
  else if op < 0xC0 then []
  else if op < 0xD0 then [.matrix]
  else if op < 0xE0 then [.mover]
  else if op = 0xFC then [match dbits w1 37 36 with
    | 0 => .matrix
    | 1 => .vector
    | _ => .mover]
  else if op = 0xFD then
    (if w1.getLsbD 0 then [.matrix] else []) ++ (if w1.getLsbD 1 then [.vector] else [])
      ++ (if w1.getLsbD 2 then [.mover] else [])
  else if op = 0xFE then []
  else [.vector]

/-- The general registers that a control instruction reads (R191). -/
def ctlReads (op : Nat) (w : Ctl) : List (BitVec 5) :=
  let b := if ctlI w then [] else [w.srcb]
  match op with
  | 0x08 | 0x09 | 0x0A | 0x0B | 0x0C | 0x0D | 0x0E | 0x0F | 0x10 | 0x11 | 0x12 | 0x18 | 0x1A => w.srca :: b
  | 0x13 | 0x20 | 0x40 | 0x41 => [w.srca]
  | 0x21 => b
  | 0x29 | 0x2A => [w.srcb]
  | 0x31 => [w.dst]
  | 0x48 => if ctlI w then [] else [w.srca]
  | _ => []

/-- The word that a thread issues next, and the one behind it. -/
def Thread.nextWord (th : Thread) (i : Nat) : Dword := tget 0 th.code (th.regs.pc.toNat + i)

/-- The thread's next instruction reads a register that is not ready; one that does not execute reads none (R187, R192). -/
def Thread.unready (th : Thread) : Bool :=
  let x := th.nextWord 0
  let op := (wordOpcode x).toNat
  let w := ctlOfWord x
  decide (op < 0xC0) && guardHolds th.regs w && (ctlReads op w).any fun i => i != 0 && (tfind th.pend i.toNat).isSome

/-- The thread's next instruction stalls it: it reads a register that is not ready (R192), or one of its queues is full, where a SETVL
that does not execute needs none (R135, R189). -/
def Core.blocked (x : Core) (t : Nat) : Bool :=
  let th := x.thread t
  let w0 := th.nextWord 0
  th.unready || ((decide (0xC0 ≤ (wordOpcode w0).toNat) || guardHolds th.regs (ctlOfWord w0))
    && (wordQueues w0 (th.nextWord 1)).any fun e => x.full e)

/-- The thread is RUNNING with an instruction to issue, and neither a SYNC nor the gap after a branch holds it (R192, R213). -/
def Core.awake (x : Core) (t : Nat) : Bool :=
  let th := x.thread t
  th.regs.state == .running && th.sync.isNone && th.gap == 0 && decide (th.regs.pc.toNat < th.codeLen)

/-- The thread is ready: awake and not stalled (R121). -/
def Core.ready (x : Core) (t : Nat) : Bool := x.awake t && !x.blocked t

/-- The port serves thread `t`: it is the first ready thread that follows the most recent issuer (R121). -/
def Core.serves (x : Core) (t : Nat) : Bool :=
  let after := (List.range 4).map fun k => (x.lastIssuer.val + 1 + k) % 4
  (after.find? x.ready) == some t

/-- The words stand at the thread's program counter, and its core takes schedule beats in a partition that is ON. -/
def State.fetches (s : State) (c : CoreId) (t : ThreadId) (ws : List Dword) : Bool :=
  let th := (s.ev9.core c).thread t
  s.ev9.coreLive c && (s.ev9.part (partOf c)).state == .on && (s.ev9.core c).awake t
    && decide (th.regs.pc.toNat + ws.length ≤ th.codeLen)
    && ws == (upFrom th.regs.pc.toNat ws.length).map (tget 0 th.code)

/-- Thread `t` of core `c` issues the words that stand at its program counter: the port is free and serves the thread (R121, R189). -/
def State.issues (s : State) (c : CoreId) (t : ThreadId) (ws : List Dword) : Bool :=
  s.fetches c t ws && (s.ev9.core c).portBusy == 0 && (s.ev9.core c).serves t

/-- The thread stalls before the words that stand at its program counter (R135, R192). -/
def State.stalls (s : State) (c : CoreId) (t : ThreadId) (ws : List Dword) : Bool :=
  s.fetches c t ws && (s.ev9.core c).blocked t

/-- The thread has issued an instruction of `n` words: its program counter moves on, it is the most recent issuer, and it holds the port
for a beat a word (R189). -/
def issued (c : CoreId) (t : ThreadId) (n : Nat) (s : State) : State :=
  onCore c (fun x => { x.onThread t fun th =>
      { th with stall := false, regs := { th.regs with pc := th.regs.pc + BitVec.ofNat 13 n } } with
    lastIssuer := t, portBusy := n }) s

/-- A register of the thread is not ready for `n` beats from now (R192). -/
def notReady (c : CoreId) (t : ThreadId) (dst : BitVec 5) (n : Nat) (s : State) : State :=
  if dst = 0 then s else onThread c t (fun th => { th with pend := tins th.pend dst.toNat n }) s

/-- The thread's next instruction issues no earlier than two beats after this one (R192). -/
def branchGap (c : CoreId) (t : ThreadId) (s : State) : State := onThread c t (fun th => { th with gap := 2 }) s

/-- The thread stalls before it issues (R135). -/
def stalled (c : CoreId) (t : ThreadId) (s : State) : State := onThread c t (fun th => { th with stall := true }) s

/-- A control instruction with opcode `op`: refused if it fails the static checks of R190; the thread stalls on an unready register
or a full queue; nothing where the thread cannot issue it; without effect but for its beat where its guard does not hold (R187); else `body`. -/
def controlOp (op : Nat) (c : CoreId) (t : ThreadId) (w : Ctl) (body : State → State) (s : State) :
    Host.Outcome State Fault Refusal :=
  if !ctlOk op w then .refused .undefinedWord
  else if s.stalls c t [ctlWord (BitVec.ofNat 8 op) w] then .next (stalled c t s)
  else if !s.issues c t [ctlWord (BitVec.ofNat 8 op) w] then stay s
  else if guardHolds (s.regs c t) w then .next (body s)
  else .next (issued c t 1 s)

/-- A control instruction that changes its thread's registers only. -/
def regOp (op : Nat) (c : CoreId) (t : ThreadId) (w : Ctl) (f : ThreadRegs → ThreadRegs) (s : State) :
    Host.Outcome State Fault Refusal :=
  controlOp op c t w (fun s => onRegs c t f (issued c t 1 s)) s

/-- A control instruction that writes g[dst] from g[srca] and operand b. -/
def aluOp (op : Nat) (c : CoreId) (t : ThreadId) (w : Ctl) (f : Dword → Dword → Dword) (s : State) :
    Host.Outcome State Fault Refusal :=
  regOp op c t w (fun r => r.setG w.dst (f (r.gr w.srca) (operandB r w))) s

/-! ## Loop descriptors (R129–R132) -/

/-- Field of `n` bytes from byte `i` of a loop descriptor. -/
def lpField (l : BitVec 512) (i n : Nat) : Nat := (l.extractLsb' (8 * i) (8 * n)).toNat

/-- A signed 32-bit field. -/
def lpInc (l : BitVec 512) (i : Nat) : Int := (l.extractLsb' (8 * i) 32).toInt

/-- Levels 1–4. -/
def lpLevels (l : BitVec 512) : Nat := lpField l 0 1 % 4 + 1

/-- sig_every; a value above the level count acts as 0 (R132). -/
def lpSigEvery (l : BitVec 512) : Nat :=
  let e := lpField l 0 1 / 4 % 8
  if e ≤ lpLevels l then e else 0

/-- Iterations of level `k`; 1 at or above the level count. -/
def lpCount (l : BitVec 512) (k : Nat) : Nat := if k < lpLevels l then lpField l (8 + 14 * k) 2 + 1 else 1

/-- Iterations of one full pass of the levels below `k`. -/
def lpPass (l : BitVec 512) (k : Nat) : Nat := (List.range k).foldl (fun n i => n * lpCount l i) 1

/-- All iterations. -/
def lpTotal (l : BitVec 512) : Nat := lpPass l 4

/-- The index of level `k` in iteration `i`, level 0 fastest. -/
def lpIndex (l : BitVec 512) (i k : Nat) : Nat := i / lpPass l k % lpCount l k

/-- The loop offset of a handle in iteration `i`, in bytes (R131). -/
def lpOffset (l : BitVec 512) (r : HandleRole) (i : Nat) : Int :=
  let at_ := match r with
    | .D => 10
    | .A => 14
    | .B => 18
  64 * (List.range (lpLevels l)).foldl (fun (s : Int) k => s + (lpIndex l i k : Int) * lpInc l (at_ + 14 * k)) 0

/-- The completion of iteration `i` is a signal point (R132). -/
def lpPoint (l : BitVec 512) (i : Nat) : Bool :=
  match lpSigEvery l with
  | 0 => i + 1 == lpTotal l
  | e + 1 => (i + 1) % lpPass l e == 0

/-- The signal points of an instruction. -/
def lpPoints (l : BitVec 512) : Nat :=
  match lpSigEvery l with
  | 0 => 1
  | e + 1 => lpTotal l / lpPass l e

/-- base + o as an internal address: modulo 2^40 where the sum leaves the 40 bits (DESIGN CHOICE, log 52). -/
def withOffset (base : Nat) (o : Int) : Nat := ((base : Int) + o).emod (2 ^ 40) |>.toNat

/-! ## Packed rows (R127, R128, R163) -/

/-- x rounded up to a multiple of 16. -/
def pad16 (x : Nat) : Nat := (x + 15) / 16 * 16

/-- Element bytes per block of an MX format. -/
def mxBlockBytes (fmt : Nat) : Nat :=
  match fmt with
  | 7 => 16
  | 5 | 6 => 24
  | _ => 32

/-- The format is an MX format. -/
def isMx (fmt : Nat) : Bool := decide (3 ≤ fmt) && decide (fmt ≤ 8)

/-- Bytes of an element of FP32, BF16, FP16 or INT32. -/
def plainBytes (fmt : Nat) : Nat := if fmt = 1 ∨ fmt = 2 then 2 else 4

/-- The packed length of dimension 0 (R163); FP32 and INT32 rows hold 4 bytes an element. -/
def descL0 (d : BitVec 256) : Nat :=
  let f := descFormat d
  let k := descCount0 d
  if isMx f then
    let nb := k / 32
    if descSparse d then pad16 nb + pad16 (nb * mxBlockBytes f / 2) + pad16 (4 * nb)
    else pad16 nb + pad16 (nb * mxBlockBytes f)
  else if f = 1 ∨ f = 2 then
    if descSparse d then pad16 k + pad16 (k / 8) else pad16 (2 * k)
  else 4 * k

/-- The lines of one row (R128). -/
def rowLines (d : BitVec 256) : Nat := (descL0 d + 63) / 64

/-- What is wrong with a captured descriptor (R126, R127, R128, R146, R163); counts and strides at or above the rank are
ignored. A descriptor that is both invalid and misaligned is invalid. -/
def descFault (d : BitVec 256) : Option BoundsReason :=
  let f := descFormat d
  let k := descCount0 d
  let bad :=
    decide (9 < f) || descRank d == 0 || decide (5 < descRank d) || descChecksum d == 3
      || (descSparse d && !(decide (1 ≤ f) && decide (f ≤ 8)))
      || (isMx f && k % 32 != 0) || (descSparse d && k % 32 != 0)
      || ((f == 1 || f == 2) && !descSparse d && k % 8 != 0)
      || descL0 d % 16 != 0 || descLimit d == 0 || decide (786432 < descLimit d)
  if bad then some .invalid
  else if descBase d % 64 ≠ 0 then some .misaligned
  else none

/-- A line of a walk: its row, its number in the row and its address. -/
structure WalkLine where
  row : Nat
  inRow : Nat
  addr : Nat
  deriving DecidableEq, Repr

/-- The lines of a descriptor's walk with a loop offset, in order (R128). -/
def walkLines (d : BitVec 256) (o : Int) : List WalkLine :=
  let start := withOffset (descBase d) o
  let rows := descRows d
  ((List.range rows.length).zip rows).flatMap fun r =>
    (List.range (rowLines d)).map fun j => ⟨r.1, j, start + r.2 + 64 * j⟩

end Sys2Proof.Machine
end

