-- ==== Sys2Proof/Machine/EngOps.lean ====
section
/-! DEFINITION. EngOps.lean: the three engine queues (R133–R137), signals of engines (R132, R142), completion in queue order
(R134), fences and SYNC (R212, R213), declared producers and the waitlock condition (R142, R143). -/

namespace Sys2Proof.Machine

open Sys2Proof

/-! ## Queues -/

/-- The queue of an engine changed by `f`. -/
def Core.onQueue (e : Engine) (f : List QEntry → List QEntry) (x : Core) : Core :=
  match e with
  | .matrix => { x with qMatrix := f x.qMatrix }
  | .vector => { x with qVector := f x.qVector }
  | .mover => { x with qMover := f x.qMover }

/-- The three engines. -/
def allEngines : List Engine := [.matrix, .vector, .mover]

/-- Every entry of the core's queues, in queue order, the matrix queue first. -/
def Core.entries (x : Core) : List QEntry := x.qMatrix ++ x.qVector ++ x.qMover

/-- The entries with a number changed by `f`. -/
def Core.onEntry (id : Nat) (f : QEntry → QEntry) (x : Core) : Core :=
  let g (e : QEntry) : QEntry := if e.id = id then f e else e
  { x with qMatrix := x.qMatrix.map g, qVector := x.qVector.map g, qMover := x.qMover.map g }

/-- Signal points of an entry: only an entry with signal enable has any. -/
def QEntry.points (e : QEntry) : Nat := if e.w.sig then lpPoints e.lp else 0

/-! ## Halves and the completion of entries -/

/-- A half of the accumulator. -/
def Core.half (x : Core) : Half2 → AccHalf
  | .A => x.halfA
  | .B => x.halfB

/-- A half changed by `f`. -/
def Core.onHalf (h : Half2) (f : AccHalf → AccHalf) (x : Core) : Core :=
  match h with
  | .A => { x with halfA := f x.halfA }
  | .B => { x with halfB := f x.halfB }

/-- The phase is one in which a drain of the half is due, running, compared or retried. -/
def HalfPhase.draining? : HalfPhase → Bool
  | .idle | .filling => false
  | _ => true

/-- The half holds the entry back from completion: a drain of it is not over, or a signal of it is held (R201, R218). -/
def AccHalf.holds (h : AccHalf) (id : Nat) : Bool :=
  h.held.contains id || match h.run with
    | none => false
    | some r => r.entry.id == id && h.phase.draining?

/-- ksplit of an MM. -/
def mmKsplit (e : QEntry) : Nat := (e.w.w1.extractLsb' 1 3).toNat

/-- Iterations of one tile of an MM (R199). -/
def tileSize (e : QEntry) : Nat := lpPass e.lp (mmKsplit e)

/-- Tiles of an MM. -/
def mmTiles (e : QEntry) : Nat := lpTotal e.lp / tileSize e

/-- The entry has completed. A fence entry ends by FENCE_COMPLETE only. -/
def Core.entryDone (x : Core) (e : QEntry) : Bool :=
  match e.op.toNat with
  | 0xC0 => decide (mmTiles e ≤ e.done) && !x.halfA.holds e.id && !x.halfB.holds e.id
  | 0xC1 => decide (1 ≤ e.done) && !x.halfA.holds e.id && !x.halfB.holds e.id
  | 0xFD => false
  | _ => e.finished

/-- The array, the mover or the vector engine has started everything of the entry, so that the next one may start. -/
def QEntry.passed (e : QEntry) : Bool :=
  match e.op.toNat with
  | 0xC0 => decide (mmTiles e ≤ e.done)
  | 0xC1 => decide (1 ≤ e.done)
  | 0xFD => false
  | _ => e.finished

/-- The entry that an engine works on or starts next: the first that is not passed. A fence entry lets none behind it start. -/
def Core.current (x : Core) (e : Engine) : Option QEntry :=
  match (x.queue e).find? fun q => !q.passed with
  | none => none
  | some q => if q.op.toNat = 0xFD then none else some q

/-- A SYNC waits for those of its entries that are still queued; with none left its thread goes on (R213). -/
def Thread.settleSync (ids : List Nat) (t : Thread) : Thread :=
  match t.sync with
  | none => t
  | some l =>
    let l := l.filter ids.contains
    if l.isEmpty then { t with sync := none, stall := false } else { t with sync := some l }

/-- The SETVL entries that the vector engine has reached take effect; they use no beat (R196, R248). -/
def reachSetvl (v : Vec) : List QEntry → List QEntry × Vec
  | [] => ([], v)
  | q :: r => if q.op = 0x48 then reachSetvl { v with vl := q.vl, wide16 := q.wide16 } r else (q :: r, v)

/-- The completed entries at the head of each queue leave it, in order (R134), SETVL entries that are reached take effect, and
SYNCs are checked again. -/
def Core.retireEntries (x : Core) : Core :=
  let v := reachSetvl x.vec (x.qVector.dropWhile x.entryDone)
  let y : Core :=
    { x with qMatrix := x.qMatrix.dropWhile x.entryDone, qVector := v.1, vec := v.2,
             qMover := x.qMover.dropWhile x.entryDone }
  let ids := y.entries.map (·.id)
  (List.range 4).foldl (fun z t => z.onThread t (Thread.settleSync ids)) y

/-- Completed entries of core `c` leave their queues. -/
def retireCore (c : Nat) (s : State) : State := onCore c Core.retireEntries s

/-! ## Signals -/

/-- The entry with number `id` signals its counter once (R132): the addition and the waits that it lets proceed. -/
def engineSignal (c : Nat) (id : Nat) (s : State) : State :=
  match (s.ev9.core c).entries.find? fun e => e.id == id with
  | none => s
  | some e =>
    if e.w.sig then
      signalCore c e.w.ac.toNat 1 false (onCore c (Core.onEntry id fun e => { e with sent := e.sent + 1 }) s)
    else s

/-- E[i]: the entries that will still signal counter `i` (R142). -/
def Core.engines (x : Core) (i : Nat) : Nat :=
  (x.entries.filter fun e => e.w.sig && e.w.ac.toNat == i && decide (e.sent < e.points)).length

/-- Counter `i` has a declared producer (R142). -/
def Ev9.declared (e : Ev9) (c i : Nat) : Bool :=
  let x := e.core c
  decide (0 < x.engines i) || decide (0 < (x.acorn i).expected.toInt)
    || x.timers.any (fun t => t.2.armed && t.2.ac.toNat == i)
    || (i == 0 && (e.part (partOf c)).state == .on)

/-- The threads of a core that are in a state. -/
def Core.threadsIn (x : Core) (st : ThreadState) : List Nat :=
  (List.range 4).filter fun t => (x.thread t).regs.state == st

/-- The waitlock condition of R143. A stalled thread is RUNNING and keeps it false (R155). -/
def Ev9.lockCond (e : Ev9) (c : Nat) : Bool :=
  let x := e.core c
  let waiting := x.threadsIn .waiting
  !waiting.isEmpty && (x.threadsIn .running).isEmpty
    && waiting.all fun t => !e.declared c (x.thread t).regs.waitAc.toNat

/-! ## Enqueue (R135, R136, R146) -/

/-- Handle `h` of a core. -/
def Core.handle (x : Core) (h : BitVec 8) : BitVec 256 := tget 0 x.handles h.toNat

/-- Loop descriptor `l` of a core; entry 0 acts as one iteration with zero increments (R129). -/
def Core.loopDesc (x : Core) (l : BitVec 6) : BitVec 512 := if l = 0 then 0 else tget 0 x.loops l.toNat

/-- What an engine instruction captures at enqueue (R136). -/
def Ev9.capture (e : Ev9) (op : Nat) (c : CoreId) (t : ThreadId) (w : Eng) : QEntry :=
  let x := e.core c
  { op := BitVec.ofNat 8 op, w := w, thread := t, pc := (x.thread t).regs.pc,
    descD := x.handle w.d, descA := x.handle w.a, descB := x.handle w.b, lp := x.loopDesc w.loop,
    step := (e.part (partOf c)).clk.step, nVec := (x.thread t).regs.nVec, id := x.nextId }

/-- The first of the named handles whose descriptor is invalid or misaligned. -/
def namedFault : List (BitVec 8 × BitVec 256) → Option (BoundsReason × BitVec 8)
  | [] => none
  | (h, d) :: r => match descFault d with
    | some x => some (x, h)
    | none => namedFault r

/-- The first condition that fails names its handle: an invalid descriptor (R146). -/
def firstConflict : List (Bool × BitVec 8) → Option (BoundsReason × BitVec 8)
  | [] => none
  | (bad, h) :: r => if bad then some (.invalid, h) else firstConflict r

/-- The first of two findings. -/
def orElseFault (a b : Option (BoundsReason × BitVec 8)) : Option (BoundsReason × BitVec 8) :=
  match a with
  | none => b
  | some x => some x

/-- An entry is placed in an engine's queue. -/
def enqueue (c : CoreId) (e : Engine) (q : QEntry) (s : State) : State :=
  onCore c (fun x => { x.onQueue e (· ++ [q]) with nextId := x.nextId + 1 }) s

/-- An engine instruction: refused if it fails the static checks of R190; the thread stalls on a full queue; nothing where its thread
cannot issue it; a failing check of the captured descriptors is a bounds fault; else it is enqueued. -/
def engineOp (op : Nat) (eng : Engine) (c : CoreId) (t : ThreadId) (w : Eng)
    (check : Ev9 → QEntry → Option (BoundsReason × BitVec 8)) (s : State) : Host.Outcome State Fault Refusal :=
  if !engineOk true op w then .refused .undefinedWord
  else if s.stalls c t [engWord0 (BitVec.ofNat 8 op) w, w.w1] then .next (stalled c t s)
  else if !s.issues c t [engWord0 (BitVec.ofNat 8 op) w, w.w1] then stay s
  else
    let q := s.ev9.capture op c t w
    match check s.ev9 q with
    | some (r, h) => .next (boundsFault c r (fromEngine eng h.toNat w.loop.toNat) 0 s)
    | none => .next (enqueue c eng q (issued c t 2 s))

end Sys2Proof.Machine
end

