-- ==== Sys2Proof/Machine/Enqueue.lean ====
section
/-! DEFINITION. Enqueue.lean: the engine instructions as a thread issues them (R197–R213, R236–R247): the checks at enqueue and
the entry in an engine's queue. What the engines then do is in Matrix.lean, Mover.lean and Vector.lean. -/

namespace Sys2Proof.Machine

open Sys2Proof

/-- An instruction without handles: nothing to check. -/
def noCheck (_e : Ev9) (_q : QEntry) : Option (BoundsReason × BitVec 8) := none

/-! ## Matrix instructions (R161, R197–R200) -/

/-- The core of an entry's own operand buffer holds the address. -/
def inOwnObuf (c : Nat) (a : Nat) : Bool :=
  match placeOf a with
  | .obuf k _ => k == c
  | _ => false

/-- B lies in the own operand buffer or in a tier window within reach (R198). -/
def bPlaceOk (e : Ev9) (c : Nat) (a : Nat) : Bool :=
  match placeOf a with
  | .obuf k _ => k == c
  | .tier _ _ => e.reaches c false false a
  | _ => false

/-- The D condition of R198, with the format of R161. -/
def drainTargetOk (c : Nat) (d : BitVec 256) : Bool :=
  descRank d == 2 && inOwnObuf c (descBase d) && decide (descCount0 d ≤ 256) && decide (descCount d 1 ≤ 128)
    && decide (descFormat d ≤ 2)

/-- Two formats may be combined (R161). -/
def formatsCombine (fa fb : Nat) : Bool := (isMx fa && isMx fb) || (!isMx fa && fa == fb)

/-- The checks at the enqueue of MM (R146, R161, R198). -/
def mmCheck (c : Nat) (e : Ev9) (q : QEntry) : Option (BoundsReason × BitVec 8) :=
  let A := q.descA
  let B := q.descB
  let D := q.descD
  let fa := descFormat A
  let fb := descFormat B
  orElseFault (namedFault [(q.w.d, D), (q.w.a, A), (q.w.b, B)]) (firstConflict [
    (descSparse A, q.w.a), (fa == 0 || fa == 9, q.w.a), (fb == 0 || fb == 9, q.w.b), (!formatsCombine fa fb, q.w.b),
    (decide (2 < descFormat D), q.w.d),
    (descRank A != 2 || !inOwnObuf c (descBase A) || decide (128 < descCount A 1), q.w.a),
    (descRank B != 2 || !bPlaceOk e c (descBase B) || decide (256 < descCount B 1) || descCount0 A != descCount0 B, q.w.b),
    (!drainTargetOk c D || q.w.fmt.toNat != descFormat D, q.w.d)])

/-- The checks at the enqueue of MDRAIN (R198). -/
def mdrainCheck (c : Nat) (_e : Ev9) (q : QEntry) : Option (BoundsReason × BitVec 8) :=
  orElseFault (namedFault [(q.w.d, q.descD)]) (firstConflict [(!drainTargetOk c q.descD, q.w.d)])

/-- MM is checked and enqueued (R198, R199). -/
def execMm (c : CoreId) (t : ThreadId) (w : Eng) (s : State) : Host.Outcome State Fault Refusal :=
  engineOp 0xC0 .matrix c t w (mmCheck c) s

/-- MDRAIN is checked and enqueued (R198, R200). -/
def execMdrain (c : CoreId) (t : ThreadId) (w : Eng) (s : State) : Host.Outcome State Fault Refusal :=
  engineOp 0xC1 .matrix c t w (mdrainCheck c) s

/-- MCLEAR is enqueued (R200). -/
def execMclear (c : CoreId) (t : ThreadId) (w : Eng) (s : State) : Host.Outcome State Fault Refusal :=
  engineOp 0xC2 .matrix c t w noCheck s

/-! ## Mover instructions (R204–R206) -/

/-- A and D have equal packed lengths and row counts (R205). -/
def sameShape (a d : BitVec 256) : Bool := descL0 a == descL0 d && descRowCount a == descRowCount d

/-- The checks at the enqueue of MV.COPY (R205). -/
def copyCheck (_e : Ev9) (q : QEntry) : Option (BoundsReason × BitVec 8) :=
  orElseFault (namedFault [(q.w.d, q.descD), (q.w.a, q.descA)])
    (firstConflict [(!sameShape q.descA q.descD, q.w.d)])

/-- The address is scratch of the core's partition. -/
def inOwnScratch (c : Nat) (a : Nat) : Bool :=
  match placeOf a with
  | .scratch k _ => k / 2 == c / 8
  | _ => false

/-- The checks at the enqueue of MV.RED (R205). -/
def redCheck (c : Nat) (_e : Ev9) (q : QEntry) : Option (BoundsReason × BitVec 8) :=
  orElseFault (namedFault [(q.w.d, q.descD), (q.w.a, q.descA)])
    (firstConflict [(!sameShape q.descA q.descD, q.w.d), (!inOwnScratch c (descBase q.descD), q.w.d)])

/-- The check at the enqueue of MV.SEND: its one named handle. -/
def sendCheck (_e : Ev9) (q : QEntry) : Option (BoundsReason × BitVec 8) := namedFault [(q.w.a, q.descA)]

/-- The check at the enqueue of MV.FILL: its one named handle. -/
def fillCheck (_e : Ev9) (q : QEntry) : Option (BoundsReason × BitVec 8) := namedFault [(q.w.d, q.descD)]

/-- MV.COPY is checked and enqueued (R205). -/
def execMvCopy (c : CoreId) (t : ThreadId) (w : Eng) (s : State) : Host.Outcome State Fault Refusal :=
  engineOp 0xD0 .mover c t w copyCheck s

/-- MV.RED is checked and enqueued (R205). -/
def execMvRed (c : CoreId) (t : ThreadId) (w : Eng) (s : State) : Host.Outcome State Fault Refusal :=
  engineOp 0xD1 .mover c t w (redCheck c) s

/-- MV.SEND is checked and enqueued (R206). -/
def execMvSend (c : CoreId) (t : ThreadId) (w : Eng) (s : State) : Host.Outcome State Fault Refusal :=
  engineOp 0xD2 .mover c t w sendCheck s

/-- MV.FILL is checked and enqueued (R205). -/
def execMvFill (c : CoreId) (t : ThreadId) (w : Eng) (s : State) : Host.Outcome State Fault Refusal :=
  engineOp 0xD3 .mover c t w fillCheck s

/-! ## Ballast and engine fences (R211–R213) -/

/-- The engine of a BALLAST: bits [37:36] of word 1. -/
def ballastEngine (w : Eng) : Engine :=
  match dbits w.w1 37 36 with
  | 0 => .matrix
  | 1 => .vector
  | _ => .mover

/-- BALLAST is enqueued in the engine that word 1 names (R211). -/
def execBallast (c : CoreId) (t : ThreadId) (w : Eng) (s : State) : Host.Outcome State Fault Refusal :=
  engineOp 0xFC (ballastEngine w) c t w noCheck s

/-- The engines of the mask in word 1 bits [2:0]. -/
def maskEngines (w : Eng) : List Engine :=
  (if w.w1.getLsbD 0 then [.matrix] else []) ++ (if w.w1.getLsbD 1 then [.vector] else [])
    ++ (if w.w1.getLsbD 2 then [.mover] else [])

/-- The fence entries of one FENCE: one in each named queue under one number; the first carries its signal. -/
def Core.addFence (q : QEntry) (x : Core) : List Engine → Core
  | [] => x
  | e :: r =>
    Core.addFence { q with w := { q.w with sig := false } } (x.onQueue e (· ++ [q])) r

/-- FENCE places a fence entry in each named queue; its thread stalls until every one has room (R212). -/
def execEngineFence (c : CoreId) (t : ThreadId) (w : Eng) (s : State) : Host.Outcome State Fault Refusal :=
  if !engineOk true 0xFD w then .refused .undefinedWord
  else if s.stalls c t [engWord0 0xFD w, w.w1] then .next (stalled c t s)
  else if !s.issues c t [engWord0 0xFD w, w.w1] then stay s
  else
    let q := s.ev9.capture 0xFD c t w
    .next (onCore c (fun x => { x.addFence q (maskEngines w) with nextId := x.nextId + 1 }) (issued c t 2 s))

/-- SYNC places no entry: its thread stalls until every entry that the named queues hold has completed (R213). -/
def execSync (c : CoreId) (t : ThreadId) (w : Eng) (s : State) : Host.Outcome State Fault Refusal :=
  if !engineOk true 0xFE w then .refused .undefinedWord
  else if !s.issues c t [engWord0 0xFE w, w.w1] then stay s
  else
    let ids := (maskEngines w).flatMap fun e => ((s.ev9.core c).queue e).map (·.id)
    let s := issued c t 2 s
    .next (if ids.isEmpty then s else onThread c t (fun th => { th with sync := some ids, stall := true }) s)

/-! ## Vector instructions (R236, R245, R246) -/

/-- Register and descriptor formats that VLD and VST may pair (R236). -/
def convertPair (reg desc : Nat) : Bool := if reg = 9 then desc == 9 else decide (desc ≤ 8)

/-- The checks at the enqueue of VLD. -/
def vldCheck (_e : Ev9) (q : QEntry) : Option (BoundsReason × BitVec 8) :=
  orElseFault (namedFault [(q.w.a, q.descA)])
    (firstConflict [(!convertPair q.w.fmt.toNat (descFormat q.descA) || descSparse q.descA, q.w.a)])

/-- The checks at the enqueue of VST. -/
def vstCheck (_e : Ev9) (q : QEntry) : Option (BoundsReason × BitVec 8) :=
  orElseFault (namedFault [(q.w.d, q.descD)])
    (firstConflict [(!convertPair q.w.fmt.toNat (descFormat q.descD) || descSparse q.descD, q.w.d)])

/-- The check at the enqueue of VRED: its one named handle. That D lies in scratch is checked when it starts, with its
address (R246). -/
def vredCheck (_e : Ev9) (q : QEntry) : Option (BoundsReason × BitVec 8) := namedFault [(q.w.d, q.descD)]

/-- A vector instruction: as engineOp, and its entry holds the count n of R234, which counts it. -/
def vectorOp (op : Nat) (c : CoreId) (t : ThreadId) (w : Eng)
    (check : Ev9 → QEntry → Option (BoundsReason × BitVec 8)) (s : State) : Host.Outcome State Fault Refusal :=
  if !engineOk true op w then .refused .undefinedWord
  else if s.stalls c t [engWord0 (BitVec.ofNat 8 op) w, w.w1] then .next (stalled c t s)
  else if !s.issues c t [engWord0 (BitVec.ofNat 8 op) w, w.w1] then stay s
  else
    let q := s.ev9.capture op c t w
    match check s.ev9 q with
    | some (r, h) => .next (boundsFault c r (fromEngine .vector h.toNat w.loop.toNat) 0 s)
    | none =>
      .next (onRegs c t (fun r => { r with nVec := r.nVec + 1 })
        (enqueue c .vector { q with nVec := q.nVec + 1 } (issued c t 2 s)))

/-- VLD is enqueued (R236, R245). -/
def execVld (c : CoreId) (t : ThreadId) (w : Eng) (s : State) : Host.Outcome State Fault Refusal :=
  vectorOp 0xE0 c t w vldCheck s

/-- VST is enqueued (R236, R238). -/
def execVst (c : CoreId) (t : ThreadId) (w : Eng) (s : State) : Host.Outcome State Fault Refusal :=
  vectorOp 0xE1 c t w vstCheck s

/-- VRED is enqueued (R246). -/
def execVred (c : CoreId) (t : ThreadId) (w : Eng) (s : State) : Host.Outcome State Fault Refusal :=
  vectorOp 0xE2 c t w vredCheck s

/-- VRDACC is enqueued (R247). -/
def execVrdacc (c : CoreId) (t : ThreadId) (w : Eng) (s : State) : Host.Outcome State Fault Refusal :=
  vectorOp 0xE3 c t w noCheck s

/-- VWRACC is enqueued (R247). -/
def execVwracc (c : CoreId) (t : ThreadId) (w : Eng) (s : State) : Host.Outcome State Fault Refusal :=
  vectorOp 0xE4 c t w noCheck s

/-- VADD is enqueued (R242). -/
def execVadd (c : CoreId) (t : ThreadId) (w : Eng) (s : State) : Host.Outcome State Fault Refusal :=
  vectorOp 0xE8 c t w noCheck s

/-- VSUB is enqueued (R242). -/
def execVsub (c : CoreId) (t : ThreadId) (w : Eng) (s : State) : Host.Outcome State Fault Refusal :=
  vectorOp 0xE9 c t w noCheck s

/-- VMUL is enqueued (R242). -/
def execVmul (c : CoreId) (t : ThreadId) (w : Eng) (s : State) : Host.Outcome State Fault Refusal :=
  vectorOp 0xEA c t w noCheck s

/-- VFMA is enqueued (R242). -/
def execVfma (c : CoreId) (t : ThreadId) (w : Eng) (s : State) : Host.Outcome State Fault Refusal :=
  vectorOp 0xEB c t w noCheck s

/-- VMAX is enqueued (R242). -/
def execVmax (c : CoreId) (t : ThreadId) (w : Eng) (s : State) : Host.Outcome State Fault Refusal :=
  vectorOp 0xEC c t w noCheck s

/-- VMIN is enqueued (R242). -/
def execVmin (c : CoreId) (t : ThreadId) (w : Eng) (s : State) : Host.Outcome State Fault Refusal :=
  vectorOp 0xED c t w noCheck s

/-- VLOG is enqueued (R242). -/
def execVlog (c : CoreId) (t : ThreadId) (w : Eng) (s : State) : Host.Outcome State Fault Refusal :=
  vectorOp 0xEE c t w noCheck s

/-- VFN is enqueued (R244). -/
def execVfn (c : CoreId) (t : ThreadId) (w : Eng) (s : State) : Host.Outcome State Fault Refusal :=
  vectorOp 0xEF c t w noCheck s

/-- VCVT is enqueued (R242). -/
def execVcvt (c : CoreId) (t : ThreadId) (w : Eng) (s : State) : Host.Outcome State Fault Refusal :=
  vectorOp 0xF0 c t w noCheck s

/-- VMOV is enqueued (R242). -/
def execVmov (c : CoreId) (t : ThreadId) (w : Eng) (s : State) : Host.Outcome State Fault Refusal :=
  vectorOp 0xF1 c t w noCheck s

/-- VIDX is enqueued (R242). -/
def execVidx (c : CoreId) (t : ThreadId) (w : Eng) (s : State) : Host.Outcome State Fault Refusal :=
  vectorOp 0xF2 c t w noCheck s

/-- VREDUCE is enqueued (R243). -/
def execVreduce (c : CoreId) (t : ThreadId) (w : Eng) (s : State) : Host.Outcome State Fault Refusal :=
  vectorOp 0xF3 c t w noCheck s

/-- VCMP is enqueued (R242). -/
def execVcmp (c : CoreId) (t : ThreadId) (w : Eng) (s : State) : Host.Outcome State Fault Refusal :=
  vectorOp 0xF4 c t w noCheck s

/-- VMLOG is enqueued (R242). -/
def execVmlog (c : CoreId) (t : ThreadId) (w : Eng) (s : State) : Host.Outcome State Fault Refusal :=
  vectorOp 0xF5 c t w noCheck s

end Sys2Proof.Machine
end

