-- ==== Sys2Proof/Machine/Elements.lean ====
section
/-! DEFINITION. Elements.lean: element formats and packed rows (R127, R162–R164), and conversion into MX blocks (R237–R240). -/

namespace Sys2Proof.Machine

open Sys2Proof

/-- +0. -/
def FV.zero : FV := .fin false 0 0

/-- The value of a bit pattern in a format without infinities and NaNs. -/
def Fmt.finiteValue (f : Fmt) (x : Nat) : FV :=
  let fr := x % 2 ^ f.mb
  let ex := x / 2 ^ f.mb % 2 ^ f.eb
  let neg := x / 2 ^ (f.eb + f.mb) % 2 == 1
  if ex = 0 then .fin neg fr f.low else .fin neg (2 ^ f.mb + fr) (f.low + (ex : Int) - 1)

/-- Exponent and fraction bits of a floating element format (R162). -/
def elemFmt (fmt : Nat) : Fmt :=
  match fmt with
  | 0 => Fmt.fp32
  | 1 => Fmt.bf16
  | 2 => Fmt.fp16
  | 3 => ⟨4, 3⟩
  | 4 => ⟨5, 2⟩
  | 5 => ⟨3, 2⟩
  | 6 => ⟨2, 3⟩
  | _ => ⟨2, 1⟩

/-- Bits of an element in memory (R127). -/
def elemBits (fmt : Nat) : Nat :=
  match fmt with
  | 0 | 9 => 32
  | 1 | 2 => 16
  | 5 | 6 => 6
  | 7 => 4
  | _ => 8

/-- The value of an element (R162). INT32 elements are integers. -/
def elemValue (fmt x : Nat) : FV :=
  match fmt with
  | 0 | 1 | 2 | 4 => (elemFmt fmt).value x
  | 3 => if x % 128 = 127 then .nan else (elemFmt 3).finiteValue x
  | 8 =>
    let v := (BitVec.ofNat 8 x).toInt
    .fin (decide (v < 0)) v.natAbs (-6)
  | 9 =>
    let v := (BitVec.ofNat 32 x).toInt
    .fin (decide (v < 0)) v.natAbs 0
  | _ => (elemFmt fmt).finiteValue x

/-- The value of an E8M0 scale: 2^(s − 127), and 0xFF is NaN. -/
def scaleValue (s : Byte) : FV := if s = 0xFF then .nan else .fin false 1 ((s.toNat : Int) - 127)

/-- Element `e` of an area of `w`-bit elements, little-endian (R163). -/
def areaElem (area : List Byte) (w e : Nat) : Nat :=
  fieldAt area (w * e / 8) 5 / 2 ^ (w * e % 8) % 2 ^ w

/-- A decoded row: values by k, ascending, and one scale for each block of 32 k (R162–R164). -/
structure RowData where
  vals : List (Nat × FV)
  scales : List FV
  deriving DecidableEq, Repr

/-- The scale of the block of index k; 1 where the row has no scales. -/
def RowData.scale (r : RowData) (block : Nat) : FV := (r.scales[block]?).getD (.fin false 1 0)

/-- The value at k of a dense row. -/
def RowData.at (r : RowData) (k : Nat) : FV := ((r.vals[k]?).map (·.2)).getD FV.zero

/-- A row of `n` values +0 (R159). -/
def RowData.zeros (n : Nat) : RowData := ⟨(List.range n).map fun k => (k, FV.zero), []⟩

/-- The values of a sparse row: in group g, the two values stand at the positions that its index field names, in ascending k
(R164). -/
def sparseVals (fmt groups : Nat) (values indices : List Byte) : List (Nat × FV) :=
  (List.range groups).flatMap fun g =>
    let nib := (byteAt indices (g / 2)).toNat / (if g % 2 = 0 then 1 else 16) % 16
    let x := (4 * g + nib % 4, elemValue fmt (areaElem values (elemBits fmt) (2 * g)))
    let y := (4 * g + nib / 4, elemValue fmt (areaElem values (elemBits fmt) (2 * g + 1)))
    if y.1 < x.1 then [y, x] else [x, y]

/-- The values of a dense row. -/
def denseVals (fmt n : Nat) (area : List Byte) : List (Nat × FV) :=
  (List.range n).map fun k => (k, elemValue fmt (areaElem area (elemBits fmt) k))

/-- A packed row decoded (R163, R164). -/
def decodeRow (d : BitVec 256) (b : List Byte) : RowData :=
  let f := descFormat d
  let k := descCount0 d
  if isMx f then
    let nb := k / 32
    let scales := (List.range nb).map fun i => scaleValue (byteAt b i)
    let body := b.drop (pad16 nb)
    if descSparse d then
      ⟨sparseVals f (k / 4) body (body.drop (pad16 (nb * mxBlockBytes f / 2))), scales⟩
    else ⟨denseVals f k body, scales⟩
  else if descSparse d then ⟨sparseVals f (k / 4) b (b.drop (pad16 k)), []⟩
  else ⟨denseVals f k b, []⟩

/-! ## Into MX blocks (R238–R240) -/

/-- The exponent of the element format's largest normal value (R238). -/
def mxEmax (fmt : Nat) : Int :=
  match fmt with
  | 3 => 8
  | 4 => 15
  | 5 => 4
  | 6 | 7 => 2
  | _ => 0

/-- The element format's largest finite value (R238). -/
def mxMaxNorm (fmt : Nat) : FV :=
  match fmt with
  | 3 => .fin false 448 0
  | 4 => .fin false 57344 0
  | 5 => .fin false 28 0
  | 6 => .fin false 15 (-1)
  | 7 => .fin false 6 0
  | _ => .fin false 127 (-6)

/-- ⌊log2 x⌋ of a non-zero finite magnitude. -/
def floorLog2 (m : Nat) (e : Int) : Int := (Nat.log2 m : Int) + e

/-- ⌈log2 (m × 2^e / (n × 2^g))⌉ of non-zero magnitudes. -/
def ceilLog2Ratio (m : Nat) (e : Int) (n : Nat) (g : Int) : Int :=
  let d := e - g
  let k : Int := (Nat.log2 m : Int) - (Nat.log2 n : Int) + d
  -- m × 2^d ≤ n × 2^j for j = k − 1, k or k + 1: the least such j
  let fits (j : Int) : Bool :=
    let low := min d j
    decide (m * 2 ^ (d - low).toNat ≤ n * 2 ^ (j - low).toNat)
  if fits (k - 1) then k - 1 else if fits k then k else k + 1

/-- A value limited to a range. -/
def clampInt (lo hi x : Int) : Int := max lo (min hi x)

/-- The magnitude of a finite value, 0 for none. -/
def FV.isZero : FV → Bool
  | .fin _ m _ => m == 0
  | _ => false

/-- The larger magnitude of two finite values. -/
def maxMag (a b : Nat × Int) : Nat × Int :=
  let low := min a.2 b.2
  if a.1 * 2 ^ (a.2 - low).toNat < b.1 * 2 ^ (b.2 - low).toNat then b else a

/-- The block scale of R238 from the active values of a block. -/
def blockScale (fmt : Nat) (ceiling : Bool) (xs : List FV) : Byte :=
  if xs.any (fun x => match x with | .fin _ _ _ => false | _ => true) then 0xFF
  else
    let a := xs.foldl (fun a x => match x with | .fin _ m e => maxMag a (m, e) | _ => a) (0, 0)
    if a.1 = 0 then 127
    else if !ceiling then BitVec.ofInt 8 (clampInt 0 254 (floorLog2 a.1 a.2 - mxEmax fmt + 127))
    else
      match mxMaxNorm fmt with
      | .fin _ n g => BitVec.ofInt 8 (clampInt 0 254 (ceilLog2Ratio a.1 a.2 n g + 127))
      | _ => 127

/-- The largest finite magnitude pattern of a floating element format. -/
def mxBig (fmt : Nat) : Nat :=
  match fmt with
  | 3 => 0x7E
  | 4 => 0x7B
  | 5 => 0x1F
  | 6 => 0x1F
  | _ => 0x7

/-- A finite value in a floating element format without an overflow to infinity: rounded once; beyond the largest magnitude it
saturates and raises OF (R240). -/
def mxFloatElem (fmt : Nat) (mode : Rnd) (neg : Bool) (m : Nat) (e : Int) : Rounded :=
  let f := elemFmt fmt
  let sign := if neg then 2 ^ (f.eb + f.mb) else 0
  if m = 0 then { bits := sign }
  else
    let lead : Int := floorLog2 m e
    let unit : Int := max f.low (lead - (f.mb : Int))
    let inexact := decide (e < unit) && decide (m % 2 ^ (unit - e).toNat ≠ 0)
    let q := if e < unit then roundBits mode m (unit - e).toNat else m * 2 ^ (e - unit).toNat
    let tiny := decide (lead < f.low + (f.mb : Int))
    -- the magnitude q × 2^unit as exponent and fraction fields, with the carry of rounding in place
    let mag := if q < 2 ^ f.mb then q else ((unit - f.low).toNat + 1) * 2 ^ f.mb + (q - 2 ^ f.mb)
    if mxBig fmt < mag then { bits := sign + mxBig fmt, overflow := true, inexact := true }
    else { bits := sign + mag, under := tiny && inexact, inexact := inexact }

/-- A finite value as MXINT8: a multiple of 2^-6 within ±127 × 2^-6 (R240). -/
def mxIntElem (mode : Rnd) (neg : Bool) (m : Nat) (e : Int) : Rounded :=
  let q := if e < -6 then roundBits mode m (-6 - e).toNat else m * 2 ^ (e + 6).toNat
  let inexact := decide (e < -6) && decide (m % 2 ^ (-6 - e).toNat ≠ 0)
  let put (n : Nat) : Nat := if neg then (256 - n) % 256 else n
  if 127 < q then { bits := put 127, overflow := true, inexact := true } else { bits := put q, inexact := inexact }

/-- One element of a block whose scale is `s` (R238, R240). -/
def mxElem (fmt : Nat) (s : Byte) (mode : Rnd) (x : FV) : Rounded :=
  if s = 0xFF then { bits := 0 }
  else
    match x with
    | .fin neg m e =>
      let e := e - ((s.toNat : Int) - 127)
      if fmt = 8 then mxIntElem mode neg m e else mxFloatElem fmt mode neg m e
    | _ => { bits := 0 }

/-- Elements of `w` bits packed little-endian into `n` bytes. -/
def packElems (w n : Nat) (xs : List Nat) : List Byte :=
  leBytes n (xs.foldr (fun x acc => x % 2 ^ w + 2 ^ w * acc) 0)

end Sys2Proof.Machine
end

