-- ==== Sys2Proof/Machine/Asu.lean ====
section
/-! DEFINITION. Asu.lean: how an engine reads and writes the lines of a walk (R128, R147–R149), and the activity counts of R371. -/

namespace Sys2Proof.Machine

open Sys2Proof

/-! ## Activity (R371), counted in fifteenths -/

/-- The class of a line access: tier line reads and writes, scratch and operand-buffer accesses. -/
def accessClass (write : Bool) (a : Nat) : Option Nat :=
  match placeOf a with
  | .tier _ _ => some (if write then 13 else 12)
  | .scratch _ _ => some 9
  | .obuf _ _ => some 8
  | _ => none

/-- A list of line accesses is counted. -/
def countAccesses (p : Nat) (write : Bool) (lines : List Nat) (s : State) : State :=
  let n (j : Nat) : Nat := (lines.filter fun a => accessClass write a == some j).length
  activity p 13 (15 * n 13) (activity p 12 (15 * n 12) (activity p 9 (15 * n 9) (activity p 8 (15 * n 8) s)))

/-! ## Reads -/

/-- Who walks a descriptor: core, engine, handle number, loop index and offset. -/
structure Walker where
  core : Nat
  engine : Engine
  handle : Nat
  loop : Nat
  desc : BitVec 256
  offset : Int
  deriving DecidableEq, Repr

/-- base + o. -/
def Walker.start (w : Walker) : Nat := withOffset (descBase w.desc) w.offset

/-- The place of a walker in a fault record. -/
def Walker.from_ (w : Walker) : AccessFrom := fromEngine w.engine w.handle w.loop

/-- The walker is the mover. -/
def Walker.isMover (w : Walker) : Bool := w.engine == .mover

/-- The outcome of the checks on one line of the walk. -/
def Walker.check (w : Walker) (e : Ev9) (write : Bool) (line : Nat) : LineCheck :=
  e.checkLine w.core w.isMover write w.start (descLimit w.desc) line

/-- The first line that a read may not touch, with the reason (R147). -/
def Walker.readFault (w : Walker) (e : Ev9) : List Nat → Option (BoundsReason × Nat)
  | [] => none
  | a :: r => match w.check e false a with
    | .bounds x => some (x, a)
    | _ => w.readFault e r

/-- The lines of a walk. -/
def Walker.lines (w : Walker) : List WalkLine := walkLines w.desc w.offset

/-- A byte from the EV9's memory, or from the host window of the member (R325). -/
def windowByte (t : Option (Nat × Member)) (off : Nat) : Byte :=
  match t with
  | none => 0
  | some (_, m) =>
    let n := m.step.toNat % 2
    if off < 0x8000 then byteAt ((tfind m.feed (512 * n + off / 64)).getD []) (off % 64)
    else if off < 0x10000 then byteAt ((tfind m.collect (512 * n + (off - 0x8000) / 64)).getD []) (off % 64)
    else byteAt (leBytes 64 (tget 0 m.occupancy n).toNat) (off - 0x10000)

/-- The 64 bytes of a line, and its poison by 16-byte word, as a unit of core `c` reads them. -/
def readLine (e : Ev9) (c a : Nat) : List Byte × List Bool :=
  match placeOf a with
  | .window off =>
    let m := e.memberOf (partOf c)
    ((List.range 64).map fun i => windowByte m (off + i), [false, false, false, false])
  | _ => (e.loads a 64, (List.range 4).map fun i => e.poisoned (wordOf a + i))

/-- A row of a walk as read: its L0 bytes and its poison by 16-byte word. -/
structure RowBytes where
  bytes : List Byte
  poison : List Bool
  deriving DecidableEq, Repr

/-- Every row of the walk, read whole (R128). -/
def Walker.readRows (w : Walker) (e : Ev9) : List RowBytes :=
  let n := rowLines w.desc
  (descRows w.desc).map fun r =>
    let ls := (List.range n).map fun j => readLine e w.core (w.start + r + 64 * j)
    ⟨(ls.flatMap (·.1)).take (descL0 w.desc), (ls.flatMap (·.2)).take (descL0 w.desc / 16)⟩

/-- The rows of a walk are read, or the first line that fails a check is a bounds fault: `body` goes on with the rows. -/
def readWalk (w : Walker) (body : List RowBytes → State → State) (s : State) : State :=
  let ls := w.lines.map (·.addr)
  match w.readFault s.ev9 ls with
  | some (r, a) => boundsFault w.core r w.from_ a s
  | none => body (w.readRows s.ev9) (countAccesses (partOf w.core) false ls s)

/-! ## Writes -/

/-- One line to be written: its address, its bytes from the line's start, and their poison by 16-byte word. -/
structure LineWrite where
  addr : Nat
  bytes : List Byte
  poison : List Bool
  deriving DecidableEq, Repr

/-- A record with bytes replaced from byte `i`. -/
def putBytes (old : List Byte) (i : Nat) (l : List Byte) : List Byte :=
  let o := padTo 64 old
  o.take i ++ l ++ o.drop (i + l.length)

/-- A write to the host window: feed and collect records take it, in the buffer of the step's parity (R325); the occupancy mask
takes none (log 22). -/
def windowStore (p off : Nat) (l : List Byte) (bad : Bool) (s : State) : State :=
  match s.ev9.memberOf p with
  | none => s
  | some (t, m) =>
    let base := 512 * (m.step.toNat % 2)
    if off < 0x8000 then
      let i := base + off / 64
      onMember t (fun m => { m with feed := tins m.feed i (putBytes ((tfind m.feed i).getD []) (off % 64) l) }) s
    else if off < 0x10000 then
      let i := base + (off - 0x8000) / 64
      onMember t (fun m =>
        { m with collect := tins m.collect i (putBytes ((tfind m.collect i).getD []) (off % 64) l)
                 collectPoison := if bad then sadd m.collectPoison i
                   else if l.length = 64 then sdel m.collectPoison i else m.collectPoison }) s
    else s

/-- Bytes are written in one place. -/
def storeAt (c : Nat) (w : LineWrite) (s : State) : State :=
  match placeOf w.addr with
  | .window off => windowStore (partOf c) off w.bytes (w.poison.any id) s
  | _ => onEv9 (Ev9.storeWords w.addr w.bytes w.poison) s

/-- The lines of a walk are written in order. A line that fails the first two checks is a bounds fault and ends the writes
(R148); a sealed line is discarded and reported, and the writes go on (R103). The second component says that no bounds fault came. -/
def writeLines (w : Walker) (put : LineWrite → State → State) : List LineWrite → State → State × Bool
  | [], s => (s, true)
  | l :: r, s =>
    let line := l.addr / 64 * 64
    match w.check s.ev9 true line with
    | .bounds x => (boundsFault w.core x w.from_ line s, false)
    | .sealed => writeLines w put r (sealViolation w.core w.from_ line s)
    | .pass => writeLines w put r (put l s)

/-- Whole rows of L0 bytes as line writes. -/
def rowWrites (w : Walker) (rows : List RowBytes) : List LineWrite :=
  ((descRows w.desc).zip rows).flatMap fun r =>
    (List.range (rowLines w.desc)).map fun j =>
      ⟨w.start + r.1 + 64 * j, slice r.2.bytes (64 * j) 64, (r.2.poison.drop (4 * j)).take 4⟩

/-- The rows of a walk are written (R128). -/
def writeWalk (w : Walker) (rows : List RowBytes) (s : State) : State × Bool :=
  let ls := rowWrites w rows
  let s := countAccesses (partOf w.core) true (ls.map (·.addr)) s
  writeLines w (storeAt w.core) ls s

end Sys2Proof.Machine
end

