-- ==== Sys2Proof/Machine/Matrix.lean ====
section
/-! DEFINITION. Matrix.lean: the matrix array: tiles, drains, checksums, and the policies on a mismatch (R158–R185, R197–R203). -/

namespace Sys2Proof.Machine

open Sys2Proof

/-! ## Accumulation (R159, R165–R167, R172) -/

/-- A cell takes an exact value and rounds once to FP32, to nearest even. -/
def accAdd (old : Word) (x : FV) : Word :=
  BitVec.ofNat 32 (Fmt.fp32.round .nearest ((Fmt.fp32.value old.toNat).add x).value).bits

/-- The exact sum of values, from +0. -/
def sumFV (l : List FV) : FV := l.foldl (fun a x => (a.add x).value) FV.zero

/-- A cell takes the products of a row of A and a row of B: block by block for MX formats, product by product otherwise. -/
def cellRow (mx : Bool) (old : Word) (a b : RowData) : Word :=
  let prod (x : Nat × FV) : FV := ((a.at x.1).mul x.2).value
  if mx then
    (List.range ((b.vals.foldl (fun n x => max n (x.1 + 1)) 0 + 31) / 32)).foldl (fun acc blk =>
      let block := sumFV ((b.vals.filter fun x => x.1 / 32 == blk).map prod)
      accAdd acc ((block.mul (a.scale blk)).value.mul (b.scale blk)).value) old
  else b.vals.foldl (fun acc x => accAdd acc (prod x)) old

/-- A sum rounded once to FP32. -/
def sum32 (l : List FV) : FV := Fmt.fp32.value (Fmt.fp32.round .nearest (sumFV l)).bits

/-- The values of a row with their scales, by k. -/
def RowData.scaled (r : RowData) : List (Nat × FV) :=
  r.vals.map fun x => (x.1, (x.2.mul (r.scale (x.1 / 32))).value)

/-- The adder tree of R172 over rows: for each k, the scaled values summed exactly and rounded once. -/
def treeRow (k : Nat) (rows : List RowData) : RowData :=
  let all := rows.map RowData.scaled
  ⟨(List.range k).map fun i => (i, sum32 (all.flatMap fun r => (r.filter fun x => x.1 == i).map (·.2))), []⟩

/-- Cell (i, j) of a half; row 128 and column 256 hold the checksums. -/
def AccHalf.cell (h : AccHalf) (i j : Nat) : Word := tget 0 h.cells (257 * i + j)

/-- One k-range is presented to a half: every data cell and every checksum cell accumulates (R159, R172). -/
def accumulate (mx : Bool) (k : Nat) (as bs : List RowData) (cells : Table Word) : Table Word :=
  let z := RowData.zeros k
  let rA := treeRow k as
  let cB := treeRow k bs
  (List.range (129 * 257)).filterMap fun n =>
    let i := n / 257
    let j := n % 257
    let a := if i = 128 then rA else (as[i]?).getD z
    let b := if j = 256 then cB else (bs[j]?).getD z
    let v := cellRow mx (tget 0 cells n) a b
    if v = 0 then none else some (n, v)

/-- The indices of the rows that carry poison. -/
def poisonedRows (rows : List RowBytes) : List Nat :=
  ((List.range rows.length).zip rows).filterMap fun r => if r.2.poison.any id then some r.1 else none

/-! ### Block checks of MXINT8 (R174) -/

/-- The classes of R175: `only` and `exactly` exclude every other failing check, the corner check among them (log 24). -/
def classify (cols rows : List Nat) (corner : Bool) : Nat × Nat × Nat :=
  match rows, cols, corner with
  | [i], [j], false => (1, i, j)
  | [], [j], false => (2, 128, j)
  | [i], [], false => (3, i, 256)
  | [], [], true => (4, 128, 256)
  | rs, cs, _ => (5, rs.headD 128, cs.headD 256)

/-- The FP32 pattern of an exact value, to nearest even (DESIGN CHOICE for a difference that FP32 does not hold, log 52). -/
def word32 (x : FV) : Nat := (Fmt.fp32.round .nearest x).bits

/-- The exact difference of two sums. -/
def gap (xs ys : List FV) : FV := ((sumFV xs).add (sumFV ys).neg).value

/-- The unscaled values of block `b` of a row, each with its k. -/
def RowData.block (b : Nat) (r : RowData) : List (Nat × FV) := r.vals.filter fun x => x.1 / 32 == b

/-- The exact sum of products of two lists of values by k. -/
def dot (a b : List (Nat × FV)) : FV :=
  sumFV (b.map fun y => ((sumFV ((a.filter fun x => x.1 == y.1).map (·.2))).mul y.2).value)

/-- The differences of the checks of one block, in the order of R173: columns, rows, corner. Sums over rows come from the integers
themselves, not from their scaled values. -/
def blockGaps (as bs : List RowData) (b : Nat) : List FV :=
  let xs := as.map (RowData.block b)
  let ys := bs.map (RowData.block b)
  ys.map (fun y => gap (xs.map fun x => dot x y) [dot xs.flatten y])
    ++ xs.map (fun x => gap (ys.map fun y => dot x y) [dot x ys.flatten])
    ++ [gap (ys.map fun y => dot xs.flatten y) [dot xs.flatten ys.flatten]]

/-- Detail words 0, 2 and 3 of the first block of a k-range that fails its exact checks (R174). -/
def blockCheck (k : Nat) (as bs : List RowData) : Option (Nat × Nat × Nat) :=
  (List.range (k / 32)).findSome? fun b =>
    let l := blockGaps as bs b
    let n := bs.length
    let bad (lo m : Nat) : List Nat := (List.range m).filter fun i => !((l[lo + i]?).getD FV.zero).isZero
    match l.find? fun x => !x.isZero with
    | none => none
    | some d =>
      let (cls, i, j) := classify (bad 0 n) (bad n as.length) (!(bad (n + as.length) 1).isEmpty)
      some (i + 256 * j + 2 ^ 17 * cls, word32 d, 0)

/-- A half with one k-range accumulated, poison included (R101); a k-range of MXINT8 is checked block by block (R174). -/
def AccHalf.present (A B : BitVec 256) (ra rb : List RowBytes) (h : AccHalf) : AccHalf :=
  { h with
    cells := accumulate (isMx (descFormat A)) (descCount0 A) (ra.map fun r => decodeRow A r.bytes)
      (rb.map fun r => decodeRow B r.bytes) h.cells
    blockFail := match h.blockFail with
      | some w => some w
      | none => if descFormat A = 8 ∧ descFormat B = 8 then
          blockCheck (descCount0 A) (ra.map fun r => decodeRow A r.bytes) (rb.map fun r => decodeRow B r.bytes)
        else none
    poisonRows := (poisonedRows ra).foldl sadd h.poisonRows
    poisonCols := (poisonedRows rb).foldl sadd h.poisonCols }

/-- The half is cleared to +0, checksums included; signals held for it are not sent (R168, R200, log 23). -/
def AccHalf.clear (h : AccHalf) : AccHalf :=
  { h with cells := [], invalid := false, poisonRows := [], poisonCols := [], poisonCells := [], held := [], run := none,
           blockFail := none }

/-! ## Tiles (R199–R203) -/

/-- The half that a matrix instruction's word 1 names. -/
def halfOf (b : Bool) : Half2 := if b then .B else .A

/-- The other half. -/
def otherHalf : Half2 → Half2
  | .A => .B
  | .B => .A

/-- The half of tile `t` of an MM. -/
def tileHalf (q : QEntry) (t : Nat) : Half2 :=
  let h := halfOf (q.w.w1.getLsbD 0)
  if q.w.w1.getLsbD 6 && t % 2 == 1 then otherHalf h else h

/-- Tile `t` is cleared before its first k-slice. -/
def tileClears (q : QEntry) (t : Nat) : Bool := t != 0 || !q.w.w1.getLsbD 4

/-- Tile `t` is drained after its last k-slice. -/
def tileDrains (q : QEntry) (t : Nat) : Bool := t + 1 != mmTiles q || !q.w.w1.getLsbD 5

/-- The iterations of tile `t`. -/
def tileIters (q : QEntry) (t : Nat) : List Nat := upFrom (t * tileSize q) (tileSize q)

/-- The walkers of handles A and B in iteration `i`. -/
def walkerA (c : Nat) (q : QEntry) (i : Nat) : Walker :=
  ⟨c, .matrix, q.w.a.toNat, q.w.loop.toNat, q.descA, lpOffset q.lp .A i⟩
def walkerB (c : Nat) (q : QEntry) (i : Nat) : Walker :=
  ⟨c, .matrix, q.w.b.toNat, q.w.loop.toNat, q.descB, lpOffset q.lp .B i⟩

/-- The half is free for a matrix instruction: nothing accumulates into it, drains it, compares it or uses it in a vector
instruction (R183, R251). -/
def Core.halfFree (x : Core) (h : Half2) : Bool := (x.half h).phase == .idle && !x.vec.usesHalf.contains h

/-- The array accumulates no tile. -/
def Core.arrayIdle (x : Core) : Bool := x.halfA.phase != .filling && x.halfB.phase != .filling

/-- The iterations of a tile are presented one after another; a bounds fault ends them. -/
def presentTile (c : Nat) (h : Half2) (q : QEntry) : List Nat → State → State
  | [], s => s
  | i :: r, s =>
    readWalk (walkerA c q i) (fun ra s =>
      readWalk (walkerB c q i) (fun rb s =>
        presentTile c h q r (onCore c (Core.onHalf h (AccHalf.present q.descA q.descB ra rb)) s)) s) s

/-- The rate class of R160: 0 MXFP4, 1 MXFP6, MXFP8 and MXINT8, 2 BF16 and FP16. -/
def rateClass (fmt : Nat) : Nat := if fmt = 7 then 0 else if isMx fmt then 1 else 2

/-- Lines per beat from which B streams (R203). -/
def bRate (c : Nat) (q : QEntry) : Nat :=
  match placeOf (descBase q.descB) with
  | .tier k _ => if k = c then 4 else 2
  | _ => 32

/-- The tile time T (R203). -/
def tileBeats (c : Nat) (q : QEntry) : Nat :=
  let cls := max (rateClass (descFormat q.descA)) (rateClass (descFormat q.descB))
  let n := tileSize q
  let k := descCount0 q.descA * n * 2 ^ cls
  let work := if descSparse q.descB then (k + 1) / 2 else k
  let lines (d : BitVec 256) : Nat := n * descCount d 1 * rowLines d
  max work (max ((lines q.descB + bRate c q - 1) / bRate c q) ((lines q.descA + 31) / 32))

/-- The running tile of a core: its half and run. -/
def Core.fillingRun (x : Core) : Option (Half2 × Run) :=
  let h : Half2 := if x.halfA.phase = .filling then .A else .B
  if (x.half h).phase = .filling then (x.half h).run.map fun r => (h, r) else none

/-- A point of the tile that ends no drain is signalled, or held until the run's comparison under the retry policy in elastic mode
(R201). -/
def pointSignal (c : Nat) (h : Half2) (q : QEntry) (hold : Bool) (s : State) : State :=
  if hold then onCore c (Core.onHalf h fun a => { a with held := a.held ++ [q.id] }) s else engineSignal c q.id s

/-- Iteration `i` of the tile is read from its sources; at a signal point that ends no drain its signal follows (R201). -/
def showIteration (c : Nat) (h : Half2) (run : Run) (i : Nat) (s : State) : State :=
  let q := run.entry
  let ends := tileDrains q run.tile && (tileIters q run.tile).getLastD 0 == i
  let hold := descChecksum q.descD == 1 && !s.ev9.chip.strict
  let s := presentTile c h q [i] s
  if s.ev9.coreLive c && q.w.sig && lpPoint q.lp i && !ends then pointSignal c h q hold s else s

/-- Iterations of a tile are read one after another, each with its signal. -/
def showIterations (c : Nat) (h : Half2) (run : Run) : List Nat → State → State
  | [], s => s
  | i :: r, s =>
    let s := showIteration c h run i s
    if s.ev9.coreLive c then showIterations c h run r s else s

/-- A beat of the array: the iteration whose share of the tile's beats has passed has been read (R201, R203). -/
def tickArray (c : Nat) (s : State) : State :=
  match (s.ev9.core c).fillingRun with
  | none => s
  | some (h, run) =>
    let n := tileSize run.entry
    let b := run.beats + 1
    let due := decide (run.shown < n) && decide ((run.shown + 1) * tileBeats c run.entry ≤ b * n)
    let s := onCore c (Core.onHalf h fun a =>
      { a with run := some { run with beats := b, shown := if due then run.shown + 1 else run.shown } }) s
    if due then showIteration c h run (run.tile * n + run.shown) s else s

/-- A BALLAST counts its own pattern, or pattern 0 (R371, R374). -/
def ballastPattern (q : QEntry) : Nat := if q.ownPattern then dbits q.w.w1 35 32 else 0

/-- Beats of a BALLAST. -/
def ballastBeats (q : QEntry) : Nat := dbits q.w.w1 31 0

/-- A BALLAST that starts runs its own pattern under gate 0; under gate 1 only while the dither bit is 1 and the last 1 s window
was flat or the partition has been ON for less than 10 s (R374). -/
def Ev9.ballastOwn (e : Ev9) (p : Nat) : Bool :=
  match e.memberOf p with
  | none => true
  | some (_, m) =>
    let gated := match m.image with
      | some g => g.gate
      | none => false
    !gated || (m.lfsr.getLsbD 0 && (e.power.lastFlat || decide (e.svc.timeMs - (e.part p).onSince < 10000)))

/-- A BALLAST entry at the head of its engine starts (R211). -/
def startBallast (c : Nat) (q : QEntry) (s : State) : State :=
  let own := s.ev9.ballastOwn (partOf c)
  let s := onCore c (Core.onEntry q.id fun q => { q with active := true, ownPattern := own }) s
  if own && dbits q.w.w1 35 32 != 0 then onEv9 (fun e => { e with power := { e.power with ballastRan := true } }) s else s

/-- An entry has completed: its one signal, and it leaves its queue. -/
def completeEntry (c id : Nat) (s : State) : State :=
  retireCore c (onCore c (Core.onEntry id fun q => { q with finished := true }) (engineSignal c id s))

/-- MATRIX_TILE_START (R199, R200, R202): the array is free, and the next tile's half is; the tile is cleared if it is to be. An
MCLEAR does its work here, and a BALLAST starts. An MCLEAR counts among the instructions of the run that follows it (DESIGN CHOICE,
log 52). -/
def execMatrixTileStart (c : CoreId) (s : State) : Host.Outcome State Fault Refusal :=
  let x := s.ev9.core c
  if !s.ev9.coreLive c || !x.arrayIdle then stay s
  else
    match x.current .matrix with
    | none => stay s
    | some q =>
      if q.active then stay s
      else
        match q.op.toNat with
        | 0xC0 =>
          let h := tileHalf q q.done
          if !x.halfFree h then stay s
          else
            let run : Run :=
              { entry := q, tile := q.done, spans := !tileClears q q.done && (x.half h).touched, descD := q.descD,
                offD := 0, signals := false, handleD := q.w.d }
            .next (retireCore c (onCore c (Core.onHalf h fun a =>
              { (if tileClears q q.done then a.clear else a) with phase := .filling, touched := true, run := some run }) s))
        | 0xC2 =>
          let h := halfOf (q.w.w1.getLsbD 0)
          if !x.halfFree h then stay s
          else .next (completeEntry c q.id (onCore c (Core.onHalf h fun a => { a.clear with touched := true }) s))
        | 0xFC => .next (startBallast c q s)
        | _ => stay s

/-- MATRIX_TILE_END (R199, R201, R203): what is left of the tile's k-slices is read and accumulated; the drain falls due, or the half
keeps the run. -/
def execMatrixTileEnd (c : CoreId) (s : State) : Host.Outcome State Fault Refusal :=
  match (s.ev9.core c).fillingRun with
  | none => stay s
  | some (h, run) =>
    if !s.ev9.coreLive c then stay s
    else
      let q := run.entry
      let its := tileIters q run.tile
      let last := its.getLastD 0
      let drains := tileDrains q run.tile
      let s := showIterations c h run (its.drop run.shown) s
      if !s.ev9.coreLive c then .next s
      else
        let beats := 15 * tileBeats c q
        let s := activity (partOf c) (max (rateClass (descFormat q.descA)) (rateClass (descFormat q.descB))) beats s
        .next (retireCore c (onCore c (fun x => (x.onEntry q.id fun e => { e with done := run.tile + 1 }).onHalf h fun a =>
          { a with phase := if drains then .drainDue else .idle
                   run := some { run with
                     offD := BitVec.ofInt 40 (lpOffset q.lp .D last)
                     signals := q.w.sig && lpPoint q.lp last && drains } }) s))

/-! ## Drains (R169, R180) -/

/-- A cell as the drain reads it, with the armed inversion. -/
def AccHalf.drained (h : AccHalf) (i j : Nat) : Word :=
  let v := h.cell i j
  match h.injected with
  | some (n, b) => if n = 257 * i + j then v ^^^ BitVec.ofNat 32 (2 ^ b) else v
  | none => v

/-- An FP32 value in the format of a drain target; as FP32 it is written as it stands, an injected inversion included (R180), and
so is a NaN (DESIGN CHOICE, log 52: R169 gives a NaN its pattern in BF16 and FP16 only). -/
def drainElem (fmt : Nat) (v : Word) : Nat :=
  match fmt with
  | 1 => (Fmt.bf16.round .nearest (Fmt.fp32.value v.toNat)).bits
  | 2 => (Fmt.fp16.round .nearest (Fmt.fp32.value v.toNat)).bits
  | _ => v.toNat

/-- The cell carries poison (R101). -/
def AccHalf.poisonAt (h : AccHalf) (i j : Nat) : Bool :=
  h.poisonRows.contains i || h.poisonCols.contains j || h.poisonCells.contains (257 * i + j)

/-- Row `i` of a drain through D: its bytes and their poison. -/
def AccHalf.drainRow (d : BitVec 256) (h : AccHalf) (i : Nat) : RowBytes :=
  let f := descFormat d
  let n := plainBytes f
  let k := descCount0 d
  ⟨padTo (descL0 d) ((List.range k).flatMap fun j => leBytes n (drainElem f (h.drained i j))),
    (List.range (descL0 d / 16)).map fun w => (upFrom (w * (16 / n)) (16 / n)).any fun j => decide (j < k) && h.poisonAt i j⟩

/-- The cell and bit that an armed ABFT_INJECT_c inverts at this drain; values out of range inject nothing (R180). -/
def Abft.target (a : Abft) : Option (Nat × Nat) :=
  if a.injArm && decide (a.injRow.toNat ≤ 128) && decide (a.injColumn.toNat ≤ 256) then
    some (257 * a.injRow.toNat + a.injColumn.toNat, a.injBit.toNat)
  else none

/-- The half is read through its injection and written through D (R169, R199). -/
def drainHalf (c : Nat) (h : Half2) (run : Run) (s : State) : State × Bool :=
  let x := s.ev9.core c
  let inj := x.abft.target
  let s := onCore c (fun x => { x.onHalf h (fun a => { a with injected := inj }) with
    abft := { x.abft with injArm := false } }) s
  let a := (s.ev9.core c).half h
  let w : Walker := ⟨c, .matrix, run.handleD.toNat, run.entry.w.loop.toNat, run.descD, run.offD.toInt⟩
  let s := activity (partOf c) 3 (15 * 128) s
  writeWalk w ((List.range (descCount run.descD 1)).map (AccHalf.drainRow run.descD a)) s

/-- The half's drain runs, and its comparison is awaited. -/
def startDrain (c : Nat) (h : Half2) (run : Run) (s : State) : State :=
  let s := onCore c (Core.onHalf h fun a => { a with phase := .draining, touched := true, run := some run }) s
  (drainHalf c h run s).1

/-- DRAIN_START (R169, R200, R202): the drain that is due begins, or an MDRAIN starts once the array and the half are free. -/
def execDrainStart (c : CoreId) (h : Half2) (s : State) : Host.Outcome State Fault Refusal :=
  let x := s.ev9.core c
  if !s.ev9.coreLive c then stay s
  else
    match (x.half h).phase, (x.half h).run with
    | .drainDue, some run => .next (startDrain c h run s)
    | .idle, _ =>
      match x.current .matrix with
      | none => stay s
      | some q =>
        if q.op.toNat = 0xC1 ∧ halfOf (q.w.w1.getLsbD 0) = h ∧ x.halfFree h = true ∧ x.arrayIdle = true then
          let run : Run :=
            { entry := q, tile := 0, spans := true, descD := q.descD, offD := 0, signals := q.w.sig, handleD := q.w.d }
          .next (startDrain c h run (onCore c (Core.onEntry q.id fun e => { e with done := 1 }) s))
        else stay s
    | _, _ => stay s

/-! ## Comparison (R173–R175) -/

/-- The magnitude of a value. -/
def FV.abs : FV → FV
  | .nan => .nan
  | .inf _ => .inf false
  | .fin _ m e => .fin false m e

/-- The value is finite. -/
def FV.isFinite : FV → Bool
  | .fin _ _ _ => true
  | _ => false

/-- ulp(x) of R173; the exponent of ulp of no finite number is a free value. -/
def ulp32 : FV → FV
  | .fin _ m e => if m = 0 then .fin false 1 (-149) else .fin false 1 (max (floorLog2 m e) (-126) - 23)
  | _ => .fin false 1 Config.ulpOfInf

/-- One check: none where it is not made, else whether it fails, with d and the threshold. -/
structure CheckResult where
  made : Bool
  fails : Bool
  d : FV
  threshold : FV
  deriving DecidableEq, Repr

/-- A column, row or corner check of R173. -/
def checkSum (tol : Nat) (data : List FV) (q : FV) : CheckResult :=
  let d := ((sum32 data).add q.neg).value
  let m := sum32 (data.map FV.abs ++ [q.abs])
  let t := (FV.mul (.fin false tol 0) (ulp32 m)).value
  if !q.isFinite then ⟨false, false, d, t⟩ else ⟨true, !(data.all FV.isFinite) || t.less d.abs, d, t⟩

/-- The checks of a half in the order of R173: 256 columns, 128 rows, the corner. -/
def AccHalf.checks (tol : Nat) (h : AccHalf) : List CheckResult :=
  let v (i j : Nat) : FV := Fmt.fp32.value (h.drained i j).toNat
  (List.range 256).map (fun j => checkSum tol ((List.range 128).map fun i => v i j) (v 128 j))
    ++ (List.range 128).map (fun i => checkSum tol ((List.range 256).map fun j => v i j) (v i 256))
    ++ [checkSum tol ((List.range 256).map fun j => v 128 j) (v 128 256)]

/-- The failing ones among the checks from place `a`, `n` of them. -/
def failingIn (l : List CheckResult) (a n : Nat) : List Nat :=
  (List.range n).filter fun i => match l[a + i]? with
    | some r => r.fails
    | none => false

/-- What a comparison finds: checks not made, and detail words 0, 2 and 3 where a check fails. -/
structure Comparison where
  skipped : Nat
  mismatch : Option (Nat × Nat × Nat)
  deriving DecidableEq, Repr

/-- The comparison of a half (R173, R175). -/
def AccHalf.compare (tol : Nat) (h : AccHalf) : Comparison :=
  let l := h.checks tol
  let skipped := (l.filter fun r => !r.made).length
  match l.find? (·.fails) with
  | none => ⟨skipped, none⟩
  | some f =>
    let (cls, i, j) := classify (failingIn l 0 256) (failingIn l 256 128) (!(failingIn l 384 1).isEmpty)
    ⟨skipped, some (i + 256 * j + 2 ^ 17 * cls, word32 f.d, word32 f.threshold)⟩

/-- The half is not compared: its checksums are invalid, or a value carries poison (R171, R173). -/
def AccHalf.uncompared (h : AccHalf) : Bool :=
  h.invalid || !h.poisonRows.isEmpty || !h.poisonCols.isEmpty || !h.poisonCells.isEmpty

/-! ## Policies (R176–R184) -/

/-- The ABFT registers of a core changed by `f`. -/
def onAbft (c : Nat) (f : Abft → Abft) (s : State) : State := onCore c (fun x => { x with abft := f x.abft }) s

/-- The offset of ABFT_STATUS_c. -/
def offAbft (c : Nat) : Nat := 0x3080000 + 0x100 * c

/-- A comparison fails: the mismatch bit and count (R180). -/
def countMismatch (c : Nat) (s : State) : State :=
  onAbft c (fun b => { b with mismatch := true, mismatches := satAdd b.mismatches 1 })
    (pulse (149 + c) (noteSet (offAbft c) 0 (s.ev9.core c).abft.mismatch s))

/-- A mismatch or retried-OK record, with ABFT_LAST_c and ABFT_DELTA_c (R180). -/
def abftRecord (c cause w0 w1 w2 w3 : Nat) (stepFault : Bool) (s : State) : State :=
  let s := onAbft c (fun a =>
    { a with last := BitVec.ofNat 64 (w0 + 2 ^ 32 * w1), delta := BitVec.ofNat 64 (w2 + 2 ^ 32 * w3) }) s
  faultRecord { source := 1, part := some (partOf c), core := c, stepFault := stepFault,
                held := (s.ev9.part (partOf c)).curl.held, cause := cause, d0 := w0, d1 := w1, d2 := w2, d3 := w3 } s

/-- The half's run is over: the signals held for it and the drain's own are sent, and the half is free (R170, R201). -/
def drainPasses (c : Nat) (h : Half2) (run : Run) (s : State) : State :=
  let held := ((s.ev9.core c).half h).held
  let s := held.foldl (fun s id => engineSignal c id s) s
  let s := if run.signals then engineSignal c run.entry.id s else s
  retireCore c (onCore c (Core.onHalf h fun a => { a with phase := .idle, run := none, held := [], injected := none }) s)

/-- The half's comparison ends without a signal (R179, R184). -/
def drainEnds (c : Nat) (h : Half2) (s : State) : State :=
  onCore c (Core.onHalf h fun a => { a with phase := .idle, run := none, injected := none }) s

/-- The half is to be retried. -/
def AccHalf.retryWaits (a : AccHalf) : Bool := a.phase == .retryFrozen || a.phase == .retryDue

/-- The retry of a half has ended: the curl ends unless the other half is to be retried (R177, R182). A step fault has stopped the
engines, so that no retry of the other half starts (R179). -/
def endRetry (c : Nat) (h : Half2) (s : State) : State :=
  let other := ((s.ev9.core c).half (otherHalf h)).retryWaits
  let stopped := (s.ev9.part (partOf c)).stopped
  let s := if other && stopped then drainEnds c (otherHalf h) s else s
  if other && !stopped then s
  else endCause (partOf c) (.retry (Fin.ofNat 64 c)) (onAbft c (fun a => { a with retrying := false }) s)

/-- Policy bits and half in detail word 1; `extra` holds bit 3, found by a block check, and bits 12–14 (R174, R176, R177). -/
def mismatchWord1 (h : Half2) (run : Run) (extra : Nat) : Nat :=
  bit (h == .B) + 2 * descChecksum run.descD + 16 * run.handleD.toNat + extra

/-- The bit of a mismatch that a block check has found. -/
def foundByBlock (a : AccHalf) : Nat := 8 * bit a.blockFail.isSome

/-- What a comparison finds, a failing block check first (R174). -/
def AccHalf.found (tol : Nat) (a : AccHalf) : Comparison :=
  let r := a.compare tol
  match a.blockFail with
  | some w => { r with mismatch := some w }
  | none => r

/-- The fault policy: the record, and the step faults (R176, R179). -/
def abftFault (c : Nat) (h : Half2) (run : Run) (w : Nat × Nat × Nat) (extra : Nat) (s : State) : State :=
  let s := onAbft c (fun a => { a with faulted := true }) (noteSet (offAbft c) 2 (s.ev9.core c).abft.faulted s)
  let s := abftRecord c 0x0100 w.1 (mismatchWord1 h run extra) w.2.1 w.2.2 true s
  stepFault (partOf c) stFaultAbft (drainEnds c h s)

/-- DRAIN_COMPARE (R170–R184): a passing or uncompared drain signals; a mismatch takes the policy of handle D. In a partition
that the same beat has held or stopped no retry starts and a passing drain sends no signal; the policies are as ever (R176, R182,
R184). A replayed half whose values are poisoned is not compared: it signals, without an ABFT_RETRIED_OK record (DESIGN CHOICE,
log 52). -/
def execDrainCompare (c : CoreId) (h : Half2) (s : State) : Host.Outcome State Fault Refusal :=
  let x := s.ev9.core c
  let p := partOf c
  let part := s.ev9.part p
  let a := x.half h
  let dead := part.curl.held || part.stopped
  match a.phase, a.run with
  | .draining, some run =>
    if !(s.ev9.coreLive c || (s.ev9.up && part.runs && dead)) then stay s
    else if a.uncompared then
      let s := onAbft c (fun b => { b with skipped := satAdd b.skipped 1 }) s
      .next (if dead then drainEnds c h s else drainPasses c h run s)
    else
      let r := a.found (max 1 part.abftTol.toNat)
      let blk := foundByBlock a
      let s := onAbft c (fun b => { b with tiles := satAdd b.tiles 1, skipped := satAdd b.skipped r.skipped }) s
      match r.mismatch with
      | none => .next (if dead then drainEnds c h s else drainPasses c h run s)
      | some w =>
        let s := countMismatch c s
        let policy := descChecksum run.descD
        let retry := policy == 1 && !s.ev9.chip.strict
        if policy = 2 then
          .next (drainPasses c h run (abftRecord c 0x0100 w.1 (mismatchWord1 h run (0x1000 + blk)) w.2.1 w.2.2 false s))
        else if dead && retry then
          .next (drainEnds c h (abftRecord c 0x0100 w.1 (mismatchWord1 h run blk) w.2.1 w.2.2 false s))
        else if retry && !run.spans then
          let words : BitVec 128 :=
            BitVec.ofNat 128 (w.1 + 2 ^ 32 * mismatchWord1 h run blk + 2 ^ 64 * w.2.1 + 2 ^ 96 * w.2.2)
          let s := onAbft c (fun b => { b with retrying := true, retries := satAdd b.retries 1 }) s
          .next (onCore c (Core.onHalf h fun a =>
            { a with phase := .retryDue, injected := none, run := some { run with firstWords := words } }) s)
        else .next (abftFault c h run w ((if retry then 0x4000 else 0) + blk) s)
  | .replayed, some run =>
    if !s.ev9.up || !part.runs || dead then stay s
    else
      let r := a.found (max 1 part.abftTol.toNat)
      let skip := a.uncompared
      let s := if skip then onAbft c (fun b => { b with skipped := satAdd b.skipped 1 }) s
        else onAbft c (fun b => { b with tiles := satAdd b.tiles 1, skipped := satAdd b.skipped r.skipped }) s
      match if skip then none else r.mismatch with
      | none =>
        let s := if skip then s else onAbft c (fun b =>
          { b with retriedOk := true, retriesPassed := satAdd b.retriesPassed 1 })
          (noteSet (offAbft c) 1 (s.ev9.core c).abft.retriedOk s)
        let f (i : Nat) : Nat := (run.firstWords.extractLsb' (32 * i) 32).toNat
        let s := if skip then s else abftRecord c 0x0101 (f 0) (f 1) (f 2) (f 3) false s
        .next (endRetry c h (drainPasses c h run s))
      | some w =>
        .next (endRetry c h (abftFault c h run w (0x2000 + foundByBlock a) (countMismatch c s)))
  | _, _ => stay s

/-- RETRY_CURL_FREEZE (R177): 16 beats after the failing comparison the partition freezes with cause retry. -/
def execRetryCurlFreeze (c : CoreId) (s : State) : Host.Outcome State Fault Refusal :=
  let x := s.ev9.core c
  let p := partOf c
  let part := s.ev9.part p
  let due := x.halfA.phase == .retryDue || x.halfB.phase == .retryDue
  if due && s.ev9.up && part.runs && !part.curl.held && !part.stopped then
    let go (a : AccHalf) : AccHalf := if a.phase = .retryDue then { a with phase := .retryFrozen } else a
    .next (onCore c (fun x => { x with halfA := go x.halfA, halfB := go x.halfB }) (openCause p (.retry c) s))
  else stay s

/-- ABFT_RETRY_REPLAY (R177, R182): 32 beats after the comparison the array clears the failing half, replays its run through the
captured descriptors and offsets, and drains it again. Half A goes first. -/
def execAbftRetryReplay (c : CoreId) (s : State) : Host.Outcome State Fault Refusal :=
  let x := s.ev9.core c
  let part := s.ev9.part (partOf c)
  let h : Half2 := if x.halfA.phase = .retryFrozen then .A else .B
  let a := x.half h
  match a.run with
  | none => stay s
  | some run =>
    if a.phase != .retryFrozen || (x.half (otherHalf h)).phase == .replayed || !s.ev9.up || part.curl.held || part.stopped then
      stay s
    else
      let held := a.held
      let s := onCore c (Core.onHalf h fun a => { a.clear with held := held, run := some run }) s
      let s := presentTile c h run.entry (tileIters run.entry run.tile) s
      if (s.ev9.part (partOf c)).curl.held then .next s
      else .next (onCore c (Core.onHalf h fun a => { a with phase := .replayed }) (drainHalf c h run s).1)

/-- BALLAST_COMPLETE (R211): after its beats the entry signals once and leaves its queue. -/
def execBallastComplete (c : CoreId) (e : Engine) (s : State) : Host.Outcome State Fault Refusal :=
  match (s.ev9.core c).current e with
  | none => stay s
  | some q =>
    if s.ev9.coreLive c && q.op.toNat == 0xFC && q.active then
      let n := ballastBeats q * ballastPattern q
      let s := match e with
        | .matrix => activity (partOf c) 0 n s
        | .vector => activity (partOf c) 4 n s
        | .mover => activity (partOf c) 7 (4 * n) s
      .next (completeEntry c q.id s)
    else stay s

/-- A fence is complete: its entry heads every queue that has one (R212). -/
def Core.fenceReady (x : Core) (id : Nat) : Bool :=
  allEngines.all fun e => !((x.queue e).any fun q => q.id == id && q.op == 0xFD)
    || match x.queue e with
      | q :: _ => q.id == id
      | [] => false

/-- The first fence of the core that is complete. -/
def Core.readyFence (x : Core) : Option Nat :=
  ((x.entries.filter fun q => q.op == 0xFD).find? fun q => x.fenceReady q.id).map (·.id)

/-- FENCE_COMPLETE (R212): every named engine has completed what stood ahead of its fence entry; the fence signals once. -/
def execFenceComplete (c : CoreId) (s : State) : Host.Outcome State Fault Refusal :=
  match (s.ev9.core c).readyFence with
  | none => stay s
  | some id =>
    if !s.ev9.coreLive c then stay s
    else
      let s := engineSignal c id s
      .next (retireCore c (onCore c (fun x =>
        { x with qMatrix := x.qMatrix.filter (·.id != id), qVector := x.qVector.filter (·.id != id),
                 qMover := x.qMover.filter (·.id != id) }) s))

end Sys2Proof.Machine
end

