-- ==== Sys2Proof/Machine/Crc.lean ====
section
/-! DEFINITION. Crc.lean: the CRC-32 with the IEEE 802.3 polynomial that cues carry (R25). The reflected form with initial value
and final inversion is that standard's (PRESUMED, log 16). -/

namespace Sys2Proof.Machine

open Sys2Proof

/-- One bit of the reflected CRC-32. -/
def crcBit (x : BitVec 32) : BitVec 32 := if x.getLsbD 0 then (x >>> 1) ^^^ 0xEDB88320 else x >>> 1

/-- One byte of the reflected CRC-32. -/
def crcByte (x : BitVec 32) (b : Byte) : BitVec 32 :=
  let y := x ^^^ b.zeroExtend 32
  crcBit (crcBit (crcBit (crcBit (crcBit (crcBit (crcBit (crcBit y)))))))

/-- The CRC-32 of a byte string. -/
def crc32 (l : List Byte) : BitVec 32 := ~~~ (l.foldl crcByte 0xFFFFFFFF)

end Sys2Proof.Machine
end

