-- ==== Sys2Proof/Machine/LinkOps.lean ====
section
/-! DEFINITION. LinkOps.lean: what ports, plans, credits and buffers are to the rest of the chip (R66, R265, R269–R278, R285–R287). -/

namespace Sys2Proof.Machine

open Sys2Proof

/-! ## Owners -/

/-- The partition that owns a port (R341, R357). -/
def Ev9.portOwner (e : Ev9) (n : Nat) : Option Nat :=
  (List.range 8).find? fun p => maskBit (e.part p).ports n

/-- The member that a port belongs to. -/
def Ev9.portMember (e : Ev9) (n : Nat) : Option (Nat × Member) :=
  match e.portOwner n with
  | none => none
  | some p => e.memberOf p

/-- The ports of a member's partitions. -/
def Ev9.memberPorts (e : Ev9) (m : Member) : List Nat :=
  (List.range 12).filter fun n => m.parts.any fun p => maskBit (e.part p).ports n

/-! ## Plan entries (R275) -/

/-- Field of `n` bits from bit `i` of a plan entry. -/
def planField (d : BitVec 128) (i n : Nat) : Nat := (d.extractLsb' i n).toNat
/-- Neighbour position; 0xFFFF for an unused port. -/
def planPos (d : BitVec 128) : Nat := planField d 0 16
/-- The port is used. -/
def planUsed (d : BitVec 128) : Bool := planPos d != 0xFFFF
/-- The entry accepts a neighbour's port. -/
def planAccepts (d : BitVec 128) (port : Nat) : Bool := decide (port < 12) && d.getLsbD (16 + port)
/-- The equivalence group, 0 for none. -/
def planGroup (d : BitVec 128) : Nat := planField d 32 4
/-- The least width: 0 x2, 1 x4, 2 x8. -/
def planWidth (d : BitVec 128) : Nat := planField d 40 2
/-- The protocol level. -/
def planLevel (d : BitVec 128) : Nat := planField d 42 2

/-- The planned ports of a member. -/
def Ev9.plannedPorts (e : Ev9) (m : Member) : List Nat := (e.memberPorts m).filter fun n => planUsed (e.port n).plan

/-- The port runs with replay: elastic mode, or protocol level 2 (R281, R282, R289). -/
def Ev9.hasReplay (e : Ev9) (n : Nat) : Bool := !e.chip.strict || planLevel (e.port n).plan == 2

/-! ## States -/

/-- The state as a number (R272). -/
def PortState.code : PortState → Nat
  | .disabled => 0
  | .training => 1
  | .linked => 2
  | .active => 3
  | .ls1 => 4
  | .ls2 => 5
  | .refused => 6
  | .fenced => 7
  | .down => 8

/-- The port trains from stage 1. -/
def Port.train (x : Port) : Port :=
  { x with state := .training, reason := 0, attempts := 0, retrain := false, stage6 := false, sleepPhase := .idle,
           failing := none, replayLeft := 0, heard := false, wants := none }

/-- The port retrains, keeping the role that it holds, if it holds one: without stage 1 (R281), or from stage 6 alone (R467). -/
def Port.retrained (six : Bool) (x : Port) : Port :=
  { x with state := .training, attempts := 0, retrain := x.state.inRole, stage6 := six, sleepPhase := .idle, failing := none,
           replayLeft := 0, wants := none }

/-- A training of a kind. -/
def Port.trainAs (k : TrainKind) (x : Port) : Port :=
  match k with
  | .full => x.train
  | .role => x.retrained false
  | .six => x.retrained true

/-- A training starts, or waits for TRCLK without which none starts (R288). -/
def Port.beginTraining (clock : Bool) (k : TrainKind) (x : Port) : Port :=
  if clock then x.trainAs k else { x with wants := some k }

/-- The state that enable and plan leave: DISABLED where either says so (R272); a REFUSED or DOWN port trains again when it is
written. -/
def Port.settle (clock : Bool) (x : Port) : Port :=
  if x.state = .fenced then x
  else if !x.enable || !planUsed x.plan then { x with state := .disabled, sleepPhase := .idle, known := none, wants := none }
  else match x.state with
    | .disabled | .refused | .down => x.beginTraining clock .full
    | _ => x

/-! ## Joining (R277–R279) -/

/-- What identity a port sends (R277); at protocol level 2 no STRICT value goes with it (R289). -/
def Ev9.ownIdentity (e : Ev9) (t : Nat) (m : Member) (n : Nat) : Identity :=
  { troupe := BitVec.ofNat 16 t, position := m.position.setWidth 10, port := BitVec.ofNat 4 n,
    strict := e.chip.strict && planLevel (e.port n).plan != 2,
    level := BitVec.ofNat 2 (planLevel (e.port n).plan) }

/-- A LINKED port of a member sends its identity. -/
def sendIdentity (n : Nat) (s : State) : State :=
  match s.ev9.portMember n with
  | some (t, m) =>
    if (s.ev9.port n).state == .linked then emit (.identity (Fin.ofNat 12 n) (s.ev9.ownIdentity t m n)) s else s
  | none => s

/-- The member is gone from its troupe (R279, R351, R446). -/
def dropMember (t : Nat) (s : State) : State := onEv9 (fun e => { e with members := tdel e.members t }) s

/-- A TROUPE_JOIN fails: the result names the lowest port that stands in its way and its reason in bytes 4 and 5 (log 30). -/
def failJoin (t n reason : Nat) (s : State) : State :=
  dropMember t (finish (fun d => d.work == .join (BitVec.ofNat 16 t)) (fun _ => stFaultLink)
    (fun _ => [byteOf n, byteOf reason]) s)

/-- The pending join of a troupe ends when every planned port is ACTIVE, or one is REFUSED or DOWN (R279). -/
def checkJoin (t : Nat) (s : State) : State :=
  match s.ev9.member? t with
  | none => s
  | some m =>
    if m.joined then s
    else
      let ps := s.ev9.plannedPorts m
      match ps.find? fun n => (s.ev9.port n).state == .refused || (s.ev9.port n).state == .down with
      | some n => failJoin t n (s.ev9.port n).reason.toNat s
      | none =>
        if ps.all fun n => (s.ev9.port n).state.inRole then
          onMember t (fun m => { m with joined := true })
            (finish (fun d => d.work == .join (BitVec.ofNat 16 t)) (fun _ => stOk) (fun _ => []) s)
        else s

/-- The pending join of the troupe that a port belongs to is checked again. -/
def checkPortJoin (n : Nat) (s : State) : State :=
  match s.ev9.portMember n with
  | some (t, _) => checkJoin t s
  | none => s

end Sys2Proof.Machine
end

