-- ==== Sys2Proof/Machine/Troupes.lean ====
section
/-! DEFINITION. Troupes.lean: the events of a troupe's steps (R25–R43, R319–R328, R379), and the end of a curl. -/

namespace Sys2Proof.Machine

open Sys2Proof

/-- The message names the troupe of the member that owns the port it arrived on. -/
def State.forTroupe (s : State) (port : PortId) (troupe : BitVec 16) : Option Member :=
  match s.ev9.portMember port.val with
  | some (t, m) => if t = troupe.toNat then some m else none
  | none => none

/-! ## Curls end -/

/-- CURL_RESUME (R60, R61, R65, R75): 16 beats after the last absent item has come, or the credit has returned, the group resumes,
and a member that stood at its boundary begins its step. It resumes once at least 16 beats have passed, and no later beat than has passed is named. -/
def execCurlResume (p : PartId) (beats : Nat) (s : State) : Host.Outcome State Fault Refusal :=
  let x := s.ev9.part p
  if x.curl.curled && !x.curl.held && x.curl.cleared && decide (16 ≤ beats ∧ beats ≤ x.curl.clearFor) && x.runs then .next (resumeGroup p s)
  else stay s

/-! ## Steps -/

/-- The identity in bytes 56–63 of a record (R322, R327). -/
def recordIdentity (r : List Byte) : Nat := fieldAt r 56 8

/-- The record comes from a lane that was occupied in the step in which its token entered: the feed buffer holds a record, and with it
an identity, for occupied lanes only, and a generation is never 0 (R35, R322, R324, log 17). -/
def recordOccupied (r : List Byte) : Bool := fieldAt r 60 4 != 0

/-- A wait on a COLLECT slot counts one written record; it completes when its count is reached, or at once with FAULT_MEMORY
when the record carries poison (R326, R327). -/
def countCollected (n : Nat) (index : Nat) (poisoned : Bool) (s : State) : State :=
  let step (d : Deferred) : Deferred :=
    match d.work with
    | .collectWait k left => if k = n then { d with work := .collectWait k (left - 1) } else d
    | _ => d
  let s := onEv9 (Ev9.onHif fun h => { h with deferred := h.deferred.map step }) s
  let g := s.ev9.slot n
  finish (fun d => match d.work with
      | .collectWait k left => k == n && (poisoned || left == 0)
      | _ => false)
    (fun _ => if poisoned then stFaultMemory else stOk)
    (fun _ => if poisoned then [0, 0] ++ leBytes 2 index
      else leBytes 2 g.head.toNat ++ [0, 0] ++ leBytes 6 g.position.toNat) s

/-- The COLLECT slot whose troupe, lane and identity match a record (R327). -/
def Ev9.collectSlot (e : Ev9) (t lane identity : Nat) : Option Nat :=
  (e.hif.slots.find? fun x => x.2.state == .collect && !x.2.orphan && x.2.troupe.toNat == t && x.2.lane.toNat == lane
    && x.2.identity.toNat == identity).map (·.1)

/-- One collect record is delivered, discarded as unmatched, or lost to a full ring (R327). -/
def deliverRecord (t lane : Nat) (r : List Byte) (poisoned : Bool) (s : State) : State :=
  if !recordOccupied r then s
  else
    match s.ev9.collectSlot t lane (recordIdentity r) with
    | none => onEv9 (Ev9.onHif fun h => { h with unmatched := satAdd h.unmatched 1 }) s
    | some n =>
      let g := s.ev9.slot n
      let size := 2 ^ g.order
      let next := (g.head.toNat + 1) % size
      if next = g.tail.toNat then onEv9 (Ev9.onSlot n fun g => { g with count := satAdd g.count 1 }) s
      else
        let fn := g.tenant.toNat + 1
        let iova := g.base.toNat + 64 * g.head.toNat
        let s := onEv9 (Ev9.hostWrite fn iova (padTo 64 r)) s
        let s := if poisoned then emit (.poisonedWrite fn iova) s else s
        let s := onEv9 (Ev9.onSlot n fun g =>
          { g with head := BitVec.ofNat 16 next, position := satAdd g.position 1 }) s
        countCollected n g.head.toNat poisoned s

/-- The exit member delivers the collect buffer of the step that ends, once (R327, R490). -/
def deliverCollect (t : Nat) (m : Member) (s : State) : State :=
  let n := m.step.toNat
  let base := 512 * (n % 2)
  let recs := m.collect.filter fun e => decide (base ≤ e.1) && decide (e.1 < base + 512)
  let clear : State → State := onMember t (fun m =>
    { m with collect := m.collect.filter fun e => !(decide (base ≤ e.1) && decide (e.1 < base + 512))
             collectPoison := m.collectPoison.filter fun i => !(decide (base ≤ i) && decide (i < base + 512))
             deliveredBefore := max m.deliveredBefore (n + 1) })
  if decide (n < m.deliveredBefore) then clear s
  else clear (recs.foldl (fun s e => deliverRecord t (e.1 - base) e.2 (m.collectPoison.contains e.1) s) s)

/-- The member's position is an exit chip of its image (R14). -/
def Member.entryOf (m : Member) : Option MemberEntry :=
  match m.image with
  | none => none
  | some g => g.table[m.position.toNat]?

/-- Every partition of the member takes schedule beats and has come to beat `n` of its step. -/
def Ev9.reached (e : Ev9) (m : Member) (n : Nat) : Bool :=
  m.parts.all fun p => e.live p && decide (n ≤ (e.part p).clk.stepBeat.toNat)

/-- The length of the member's steps in schedule beats (R16, R69, R71). -/
def Member.stepLength (m : Member) : Nat := (m.image.map (·.stepLength)).getD 0

/-- The beat of the admission cut (R33). -/
def Member.cutBeat (m : Member) : Nat := (m.image.map (·.admissionCut)).getD 0

/-- STEP_END (R26, R28, R32, R327): the member's step is over. An exit chip delivers its collect records; a member that has
received STOP stops; the ringmaster issues the next cue and begins the next step; another member begins it if its cue is
waiting. -/
def execStepEnd (troupe : BitVec 16) (s : State) : Host.Outcome State Fault Refusal :=
  let t := troupe.toNat
  match s.ev9.member? t with
  | none => stay s
  | some m =>
    if m.run == .running && m.inStep && s.ev9.reached m m.stepLength then
      let s := match m.entryOf with
        | some x => if x.exitChip then deliverCollect t m s else s
        | none => s
      let s := onMember t (fun m => { m with inStep := false, step := m.step + 1, waited := 0 }) s
      if m.position = 0 then
        if m.stopNext then .next (stopMember t (issueCue t (m.step + 1) true s))
        else .next (tryBegin t false s)
      else if m.stopping = some (m.step + 1) then .next (stopMember t s)
      else .next (tryBegin t false s)
    else stay s

/-- The cue that 16 bytes spell (R25). -/
def parseCue (l : List Byte) : Cue where
  troupe := BitVec.ofNat 16 (fieldAt l 0 2)
  step := BitVec.ofNat 48 (fieldAt l 2 6)
  pace := toPace (fieldAt l 8 1)
  stop := (byteAt l 9).getLsbD 0
  admitted := fieldAt l 10 2

/-- The cue's CRC-32 over bytes 0–11 is right (R25, R27). -/
def cueCrcOk (l : List Byte) : Bool := fieldAt l 12 4 == (crc32 (slice l 0 12)).toNat

/-- The wait for a cue ends in a partition: a curl of cause cue beyond 16 beats, a boundary wait within them (R28, R61, R62). A
held partition stays frozen (R67). -/
def endCueWait (waited : Nat) (p : Nat) (s : State) : State :=
  let c := (s.ev9.part p).curl
  if c.held then s
  else if waited ≤ 16 && !c.causes.contains .cue then onPart p (onCurl (Curl.boundaryWait waited)) s
  else
    let s := if c.causes.contains .cue then s
      else onPart p (onCurl fun c => { c with lasted := max c.lasted waited }) (openCause p .cue s)
    let s := closeCause p .cue s
    if (s.ev9.part p).curl.cleared then onPart p (onCurl fun c => c.resume c.lasted) s else s

/-- The member's wait for its cue is over. -/
def endWaits (t : Nat) (m : Member) (s : State) : State :=
  onMember t (fun m => { m with cueCurl := false, waited := 0 }) (m.parts.foldl (fun s p => endCueWait m.waited p s) s)

/-- A cue that is discarded: it is counted on its port and gives back its place (R27). -/
def discardCue (port : PortId) (s : State) : State :=
  emit (.credit port 0 1) (onPort port (fun x => { x with errCue := satAdd x.errCue 1 }) s)

/-- A cue with STOP has come: the member stops at the end of the step before it, at once if that has ended (R32). -/
def takeStop (t : Nat) (m : Member) (c : Cue) (s : State) : State :=
  let s := onMember t (fun m => { m with stopping := some c.step }) s
  if m.run == .running && !m.inStep && m.step == c.step then stopMember t (endWaits t m s) else s

/-- A cue of a step has come: it waits in the buffer of its port until the member begins that step (R28, R29, R66). A start that was
cancelled here runs after all when its cue has been issued (log 34). -/
def takeCue (t : Nat) (port : PortId) (m : Member) (c : Cue) (s : State) : State :=
  let waiting := m.run == .running && !m.inStep && m.cueDue.isNone && c.step == m.step
  let s := onPort port (Port.arrive 0) s
  let s := onMember t (fun m => { m.noteCue c with
    cues := m.cues ++ [(port, c)]
    run := if m.cancelled then .starting else m.run }) s
  let s := if waiting then endWaits t m s else s
  settleVdd (notePending t (tryBegin t true s))

/-- CUE_ARRIVAL (R27–R29, R32): a cue of another troupe or with a wrong CRC-32 is counted and discarded; a good one is forwarded to
the children, and taken. A corrected codeword counts, and the port has been in use (R280, R285). -/
def execCueArrival (port : PortId) (cue : List Byte) (corrected : Bool) (s : State) : Host.Outcome State Fault Refusal :=
  let c := parseCue cue
  let known := s.forTroupe port c.troupe
  let now := s.ev9.noc.edgeBeat
  let s := onPort port (Port.hear corrected now) s
  match known with
  | none => .next (discardCue port s)
  | some m =>
    if !cueCrcOk cue then .next (discardCue port s)
    else
      let t := c.troupe.toNat
      let s := forwardCue m c s
      if c.stop then .next (takeStop t m c (emit (.credit port 0 1) s)) else .next (takeCue t port m c s)

/-- READY_RECEIVE (R30, R38, R43): the ringmaster of the port's own troupe takes the message; one of another troupe is counted, and
so is one that reaches a member that is not the ringmaster (DESIGN CHOICE, log 52). -/
def execReadyReceive (port : PortId) (troupe : BitVec 16) (position : BitVec 16) (pace : Fin 8) (s : State) :
    Host.Outcome State Fault Refusal :=
  match s.forTroupe port troupe with
  | some m => if m.position = 0 then .next (takeReady troupe.toNat position.toNat pace s) else .next (countSeq port s)
  | none => .next (countSeq port s)

/-- PACE_REQUEST_RECEIVE (R379, R390): the later request of a position stands. -/
def execPaceRequestReceive (port : PortId) (troupe : BitVec 16) (position : BitVec 16) (pace : Fin 8) (_brake : Bool)
    (_stepNo : BitVec 48) (s : State) : Host.Outcome State Fault Refusal :=
  match s.forTroupe port troupe with
  | some m =>
    if m.position = 0 then
      .next (onMember troupe.toNat (fun m => { m with requests := tins m.requests position.toNat pace.val }) s)
    else .next (countSeq port s)
  | none => .next (countSeq port s)

/-- PREPARE_NOTICE_RECEIVE (R379): the notice goes on down the cue tree, and the member holds the prepared pace. -/
def execPrepareNoticeReceive (port : PortId) (troupe : BitVec 16) (pace : Fin 8) (_stepNo : BitVec 48) (s : State) :
    Host.Outcome State Fault Refusal :=
  match s.forTroupe port troupe with
  | some _ => .next (forwardNotice troupe.toNat pace s)
  | none => .next (countSeq port s)

/-- PREPARE_EXPIRY (R379): no cue has named the prepared pace for 2 ms, which is 20 evaluations of the governor (log 13), and it is
released. -/
def execPrepareExpiry (troupe : BitVec 16) (s : State) : Host.Outcome State Fault Refusal :=
  match s.ev9.member? troupe.toNat with
  | none => stay s
  | some m =>
    if m.prepared.isSome && decide (20 ≤ m.preparedAge) then .next (settleVdd (onMember troupe.toNat (fun m => { m with prepared := none }) s))
    else stay s

/-- An IMAGE_STOP reaches the ringmaster (R32, R41): before the first cue it cancels the start, and everything deferred on it
completes OK; while the member runs the next cue carries STOP. -/
def ringStop (t : Nat) (s : State) : State :=
  match s.ev9.member? t with
  | none => s
  | some m =>
    if m.run = .starting then
      let sel : Deferred → Bool := fun d => d.work == .imageStart (BitVec.ofNat 16 t)
        || d.work == .imageStop (BitVec.ofNat 16 t) || d.work == .rerun (BitVec.ofNat 16 t)
      onMember t (fun m => { m with run := .stopped, ready := [], badStart := none, rerun := none, stopNext := false })
        (finish sel (fun _ => stOk) (fun _ => []) s)
    else if m.run = .running then onMember t (fun m => { m with stopNext := true }) s
    else s

/-- STOP_FORWARD_RECEIVE (R32, R498): one that reaches a member other than the ringmaster is counted (DESIGN CHOICE, log 52). -/
def execStopForwardReceive (port : PortId) (troupe : BitVec 16) (_position : BitVec 16) (s : State) :
    Host.Outcome State Fault Refusal :=
  match s.forTroupe port troupe with
  | some m => if m.position = 0 then .next (ringStop troupe.toNat s) else .next (countSeq port s)
  | none => .next (countSeq port s)

/-- ADMIT_COUNT_RECEIVE (R35): the next cue carries the sum over the entry chips. -/
def execAdmitCountReceive (port : PortId) (troupe : BitVec 16) (_position : BitVec 16) (count : Nat) (s : State) :
    Host.Outcome State Fault Refusal :=
  match s.forTroupe port troupe with
  | some m =>
    if m.position = 0 then .next (onMember troupe.toNat (fun m => { m with admits := min 512 (m.admits + count) }) s)
    else .next (countSeq port s)
  | none => .next (countSeq port s)

/-- UNKNOWN_CONTROL_MESSAGE (R268): a type other than 0x01–0x04 is discarded and counted. -/
def execUnknownControlMessage (port : PortId) (type : Byte) (s : State) : Host.Outcome State Fault Refusal :=
  if 1 ≤ type.toNat ∧ type.toNat ≤ 4 then stay s else .next (countSeq port s)

/-! ## Admission (R33–R36, R322–R324, R328, R334) -/

/-- The final reply of a STREAM_CLOSE: the position counter in bytes 8–13 (R328). -/
def closeResult (g : StreamSlot) : List Byte := [0, 0, 0, 0] ++ leBytes 6 g.position.toNat

/-- A RELEASING slot gives up its lane: its STREAM_CLOSE completes OK with the position counter, and it is free (R328). -/
def releaseSlot (n : Nat) (s : State) : State :=
  let r := closeResult (s.ev9.slot n)
  freeSlot n (finish (fun d => d.work == .streamClose n) (fun _ => stOk) (fun _ => r) s)

/-- The next generation, which is never 0 (R322). -/
def nextGeneration (g : BitVec 32) : BitVec 32 := if g = 0xFFFFFFFF then 1 else g + 1

/-- A PENDING slot is bound to a lane (R322). -/
def bindSlot (t lane : Nat) (m : Member) (n : Nat) (s : State) : State :=
  let gen := nextGeneration s.ev9.hif.generation
  let id : BitVec 64 := BitVec.ofNat 64 (m.position.toNat + n * 65536 + gen.toNat * 2 ^ 32)
  let first := (m.step + 1).toNat
  let s := onEv9 (Ev9.onHif fun h => { h with generation := gen }) s
  let s := onEv9 (Ev9.onSlot n fun g =>
    { g with state := .bound, lane := BitVec.ofNat 9 lane, identity := id, position := 0, troupe := BitVec.ofNat 16 t }) s
  finish (fun d => d.work == .streamOpen n) (fun _ => stOk)
    (fun _ => leBytes 2 n ++ leBytes 2 lane ++ leBytes 4 gen.toNat ++ leBytes 4 first) s

/-- The lanes of the member's range that no stream holds, lowest first (R34). -/
def Ev9.freeLanes (e : Ev9) (t : Nat) (x : MemberEntry) : List Nat :=
  (upFrom x.laneFirst x.laneCount).filter fun l =>
    !(e.hif.slots.any fun g => g.2.troupe.toNat == t && (g.2.state == .bound || g.2.state == .releasing)
        && !g.2.orphan && g.2.lane.toNat == l)

/-- Candidates in order of doorbell arrival (R34, R311). -/
def Ev9.candidates (e : Ev9) (t : Nat) : List Nat :=
  ((e.hif.slots.filter fun g => g.2.troupe.toNat == t && g.2.state == .pending && !g.2.orphan).foldl
    (fun l g => tins l g.2.order311 g.1) []).map (·.2)

/-- Candidates and free lanes are paired, one to one. -/
def bindAll (t : Nat) (m : Member) (s : State) : List (Nat × Nat) → State
  | [] => s
  | (n, lane) :: r => bindAll t m (bindSlot t lane m n s) r

/-- The record of one slot for step `n` is fetched if there is one, else the slot starves (R323, R324). When a rerun fetches
again, exactly the records of the first run are fetched (R490). -/
def fetchSlot (t : Nat) (n : BitVec 48) (redo : Bool) (k : Nat) (s : State) : State :=
  let g := s.ev9.slot k
  let old := g.history.find? fun x => x.step == n
  let has := match redo, old with
    | true, some x => x.fetched
    | true, none => false
    | false, _ => g.head != g.tail
  let marks := (g.history.filter fun x => decide (x.step.toNat < n.toNat)).reverse.take 2 |>.reverse
  let mark : FeedMark := ⟨n, g.head, g.position, has⟩
  let i := 512 * (n.toNat % 2) + g.lane.toNat
  if has then
    let s := onEv9 (Ev9.onSlot k fun g =>
      { g with history := marks ++ [mark], head := BitVec.ofNat 16 ((g.head.toNat + 1) % 2 ^ g.order) }) s
    let s := onMember t (fun m =>
      { m with feed := tdel m.feed i
               occupancy := tmod 0 m.occupancy (n.toNat % 2) fun b => setBit b g.lane.toNat }) s
    emit (.feedFetch (g.tenant.toNat + 1) k g.head.toNat) s
  else if redo then s
  else onEv9 (Ev9.onSlot k fun g => { g with history := marks ++ [mark], count := satAdd g.count 1 }) s

/-- The half of the feed buffer of step `n` is empty again, and its occupancy mask clear: a lane for which no record is fetched is
unoccupied, and reads as zero (R324, R325). -/
def Member.clearFeed (n : Nat) (m : Member) : Member :=
  { m with occupancy := tdel m.occupancy (n % 2)
           feed := m.feed.filter fun e => e.1 / 512 != n % 2 }

/-- The records for step `n` of the troupe's bound slots are fetched, and the step's occupancy mask is formed. -/
def fetchAll (t : Nat) (n : BitVec 48) (redo : Bool) (s : State) : State :=
  let s := onMember t (Member.clearFeed n.toNat) s
  let ns := s.ev9.slotsOf t .bound ++ (if redo then s.ev9.slotsOf t .releasing else [])
  ns.foldl (fun s k => fetchSlot t n redo k s) s

/-- The count of newly bound streams goes to the ringmaster (R35). -/
def reportAdmits (t : Nat) (m : Member) (count : Nat) (s : State) : State :=
  if m.position = 0 then onMember t (fun m => { m with admits := min 512 (m.admits + count) }) s
  else toRingmaster m (.admitCount (BitVec.ofNat 16 t) m.position count) s

/-- A stream command whose doorbell was recorded at or before the cut of the present step, and that is taken from its ring after it
(R33, R39, R334). -/
def Member.missedCut (rung : Nat) (m : Member) : Bool :=
  m.run == .running && m.inStep && m.cutDone && decide (rung ≤ m.cutAt)

/-- A PENDING slot whose open was rung in time for the cut that has passed is bound as that cut would have bound it, to the lowest lane
left, and its record is fetched (R33, R34, R39, log 53). -/
def lateBind (t n : Nat) (s : State) : State :=
  match s.ev9.member? t with
  | none => s
  | some m =>
    if m.missedCut (s.ev9.slot n).rungAt then
      match m.entryOf with
      | none => s
      | some x =>
        match s.ev9.freeLanes t x with
        | lane :: _ => fetchSlot t (m.step + 1) false n (reportAdmits t m 1 (bindSlot t lane m n s))
        | [] => s
    else s

/-- The slot has a mark of step `n` that says that no record was there to fetch. -/
def StreamSlot.starvedIn (n : BitVec 48) (g : StreamSlot) : Bool := g.history.any fun k => k.step == n && !k.fetched

/-- A STREAM_FEED that was rung in time for the cut that has passed counts for that cut (R334): the record is fetched after all, and
the lane has not starved. -/
def lateFeed (t n rung : Nat) (s : State) : State :=
  match s.ev9.member? t with
  | none => s
  | some m =>
    let g := s.ev9.slot n
    if m.missedCut rung && g.state == .bound && g.starvedIn (m.step + 1) && g.head != g.tail then
      fetchSlot t (m.step + 1) false n (onEv9 (Ev9.onSlot n fun g =>
        { g with count := g.count - 1, history := g.history.filter fun k => k.step != m.step + 1 }) s)
    else s

/-- ADMISSION_CUT (R33–R35, R323, R334, R490): releases first, then bindings, then the fetches for the next step. A cut that the
first run has already performed only fetches again. -/
def execAdmissionCut (troupe : BitVec 16) (s : State) : Host.Outcome State Fault Refusal :=
  let t := troupe.toNat
  match s.ev9.member? t with
  | none => stay s
  | some m =>
    match m.entryOf with
    | none => stay s
    | some x =>
      if !x.entryChip || m.run != .running || !m.inStep || m.cutDone || !s.ev9.reached m m.cutBeat then stay s
      else
        let redo := decide (m.step.toNat < m.cutsBefore)
        let s := if redo then s else
          let s := (s.ev9.slotsOf t .releasing).foldl (fun s n => releaseSlot n s) s
          let pairs := (s.ev9.candidates t).zip (s.ev9.freeLanes t x)
          reportAdmits t m pairs.length (bindAll t m s pairs)
        let s := fetchAll t (m.step + 1) redo s
        .next (onMember t (fun m =>
          { m with cutDone := true, cutAt := s.ev9.noc.edgeBeat, cutsBefore := max m.cutsBefore (m.step.toNat + 1) }) s)

/-- FEED_FETCH_COMPLETE (R323): the record that was fetched for a lane arrives, takes the slot's identity in bytes 56–63 and
stands in the feed buffer of its step. -/
def execFeedFetchComplete (troupe : BitVec 16) (lane : Fin 512) (record : List Byte) (s : State) :
    Host.Outcome State Fault Refusal :=
  let t := troupe.toNat
  match s.ev9.member? t with
  | none => stay s
  | some m =>
    match s.ev9.hif.slots.find? fun g => g.2.troupe.toNat == t && (g.2.state == .bound || g.2.state == .releasing)
        && !g.2.orphan && g.2.lane.toNat == lane.val with
    | none => stay s
    | some (_, g) =>
      match g.history.reverse.find? fun x => x.fetched && decide (m.step.toNat ≤ x.step.toNat)
          && (tfind m.feed (512 * (x.step.toNat % 2) + lane.val)).isNone with
      | none => stay s
      | some x =>
        let r := slice (padTo 64 record) 0 56 ++ leBytes 8 g.identity.toNat
        .next (onMember t (fun m =>
          { m with feed := tins m.feed (512 * (x.step.toNat % 2) + lane.val) r }) s)

end Sys2Proof.Machine
end

