-- ==== Sys2Proof/Machine/Mover.lean ====
section
/-! DEFINITION. Mover.lean: the mover's iterations, the flits of MV.SEND, and arrivals (R204–R210, R266, R267). -/

namespace Sys2Proof.Machine

open Sys2Proof

/-! ## Iterations -/

/-- Iterations of an entry that the mover has begun. -/
def Core.begun (x : Core) (q : QEntry) : Nat := q.done + (x.bufs.filter fun b => b.entry.id == q.id).length

/-- Everything of a mover entry has begun. -/
def Core.begunAll (x : Core) (q : QEntry) : Bool :=
  match q.op.toNat with
  | 0xFC => q.finished
  | 0xFD => false
  | _ => decide (lpTotal q.lp ≤ x.begun q)

/-- The entry whose next iteration the mover begins; a fence entry lets none behind it begin. -/
def Core.moverNext (x : Core) : Option QEntry :=
  match x.qMover.find? fun q => !x.begunAll q with
  | none => none
  | some q => if q.op = 0xFD then none else some q

/-- The walkers of a mover entry's iteration. -/
def moverSource (c : Nat) (q : QEntry) (i : Nat) : Walker :=
  ⟨c, .mover, q.w.a.toNat, q.w.loop.toNat, q.descA, lpOffset q.lp .A i⟩
def moverTarget (c : Nat) (q : QEntry) (i : Nat) : Walker :=
  ⟨c, .mover, q.w.d.toNat, q.w.loop.toNat, q.descD, lpOffset q.lp .D i⟩

/-- An iteration's rows have been read and its writes are due. -/
def addBuf (c : Nat) (q : QEntry) (i : Nat) (rows : List RowBytes) (s : State) : State :=
  onCore c (fun x => { x with bufs := x.bufs ++ [⟨q, i, rows.map fun r => (r.bytes, r.poison)⟩] }) s

/-- The lines of an iteration's rows: each line's 64 bytes and the poison of its four words. -/
def rowsToLines (rows : List (List Byte × List Bool)) : List (List Byte × List Bool) :=
  rows.flatMap fun r => (List.range ((r.1.length + 63) / 64)).map fun j =>
    (padTo 64 (slice r.1 (64 * j) 64), (List.range 4).map fun i => (r.2[4 * j + i]?).getD false)

/-- The poison bits of up to two lines. -/
def poisonMask (l : List Bool) : Nat := (l.foldr (fun b acc => bit b + 2 * acc) 0)

/-- Lines are paired into flits from flit index `f`. An odd last line goes as half a flit if the transfer ends, and else waits for
its pair. -/
def pairFlits (hdr : Nat → Header) (ends : Bool) (f : Nat) :
    List (List Byte × List Bool) → List (Header × List Byte) × Option (List Byte × List Bool)
  | [] => ([], none)
  | [x] =>
    if ends then ([({ hdr f with half := true, poison := poisonMask x.2 }, x.1 ++ List.replicate 64 0)], none)
    else ([], some x)
  | x :: y :: r =>
    let rest := pairFlits hdr ends (f + 1) r
    (({ hdr f with poison := poisonMask (x.2 ++ y.2) }, x.1 ++ y.1) :: rest.1, rest.2)

/-- The lines of one iteration of a send. -/
def sendLines (q : QEntry) : Nat := descRowCount q.descA * rowLines q.descA

/-- Flits that have left once iteration `i` is complete: two lines each, an odd last line at the end (R206, R266). -/
def sendFlits (q : QEntry) (i : Nat) : Nat :=
  let n := sendLines q * (i + 1)
  if i + 1 = lpTotal q.lp then (n + 1) / 2 else n / 2

/-- The header of flit `f` of an MV.SEND (R206, R266); `marks` says which flits end a signal point. It is untagged until a block
delays it (R63). -/
def sendHeader (q : QEntry) (marks : List Nat) (f : Nat) : Header :=
  { dpos := dbits q.w.w1 9 0, dcore := dbits q.w.w1 15 10, dh := dbits q.w.w1 23 16, dac := dbits q.w.w1 28 24,
    rsig := q.w.w1.getLsbD 29, mark := marks.contains f, first := f == 0, half := false, vc := dbits q.w.w1 32 30,
    kind := 0, tag := 0, poison := 0, seq := f }

/-- The flits that end signal points of iterations `i - 1` to `i + 1`; a flit that ends two stands in the list twice (R207). -/
def sendMarks (q : QEntry) (i : Nat) : List Nat :=
  (upFrom (i - 1) (if i = 0 then 2 else 3)).filterMap fun j =>
    if lpPoint q.lp j then some ((sendLines q * (j + 1) - 1) / 2) else none

/-- A flit of an MV.SEND of core `c`: what its routers know of it. -/
def sendFlitOf (c : Nat) (marks : List Nat) (x : Header × List Byte) : Flit :=
  { hdr := x.1.bits, payload := x.2, part := partOf c, points := (marks.filter fun f => f % 16384 == x.1.seq % 16384).length }

/-- A send has a way: to a partition of the member that is ON, or to a port by the member's route table. The flits of one without are
discarded and counted (R270). -/
def Ev9.sendWay (e : Ev9) (f : Flit) : Bool :=
  match e.exitPort f with
  | none => false
  | some (some _) => true
  | some none => (e.part (partOf f.h.dcore)).state == .on || (e.part (partOf f.h.dcore)).state == .draining

/-- The flits of iteration `i` wait in the mover until they can leave the core (R54, R206). -/
def sendIteration (c : Nat) (q : QEntry) (i : Nat) (rows : List (List Byte × List Bool)) (s : State) : State :=
  let x := s.ev9.core c
  let marks := sendMarks q i
  let before := if i = 0 then 0 else sendFlits q (i - 1)
  let r := pairFlits (sendHeader q marks) (i + 1 == lpTotal q.lp) before (x.sendCarry.toList ++ rowsToLines rows)
  let fs := r.1.map (sendFlitOf c marks)
  let lost := (fs.filter fun f => !s.ev9.sendWay f).length
  let s := onNoc (fun n => { n with drop := satAdd n.drop lost }) s
  onCore c (fun x => { x with
    sendCarry := r.2
    sendq := x.sendq ++ (fs.filter s.ev9.sendWay).map fun f => ⟨f, q.id, i⟩ }) s

/-- MOVER_ITERATION_START (R206, R209): the next iteration's lines are read, and those of an MV.SEND become flits. MV.FILL has no
source, and a BALLAST starts. -/
def execMoverIterationStart (c : CoreId) (s : State) : Host.Outcome State Fault Refusal :=
  let x := s.ev9.core c
  if !s.ev9.coreLive c then stay s
  else
    match x.moverNext with
    | none => stay s
    | some q =>
      if q.active then stay s
      else
        let i := x.begun q
        match q.op.toNat with
        | 0xFC => .next (startBallast c q s)
        | 0xD3 => .next (addBuf c q i [] s)
        | 0xD2 =>
          .next (readWalk (moverSource c q i) (fun rows s =>
            sendIteration c q i (rows.map fun r => (r.bytes, r.poison)) (addBuf c q i rows s)) s)
        | _ => .next (readWalk (moverSource c q i) (fun rows s => addBuf c q i rows s) s)

/-- `n` bytes of a pattern repeated from its byte 0. -/
def fillBytes (pattern n : Nat) : List Byte :=
  (List.range n).map fun i => byteAt (leBytes 4 pattern) (i % 4)

/-- One non-returning atomic on a line, element by element (R106): `l` holds the operands from the line's start. -/
def atomicLine (fmt : Nat) (op : AtomicOp) (l : LineWrite) (s : State) : State :=
  match placeOf l.addr with
  | .scratch k _ =>
    let n := atomicBytes fmt
    countAtomic k (onEv9 (fun e => (List.range (l.bytes.length / n)).foldl (fun e i =>
      e.atomicAt fmt op (l.addr + n * i) (fieldAt l.bytes (n * i) n) ((l.poison[n * i / 16]?).getD false)) e) s)
  | _ => s

/-- The checks on a line that takes an atomic: those of R147 in their order; a line that they allow outside scratch is out of reach
(R106, R205, log 52). -/
def Walker.checkAtomic (w : Walker) (e : Ev9) (line : Nat) : LineCheck :=
  match w.check e true line with
  | .pass => if inOwnScratch w.core line then .pass else .bounds .reach
  | x => x

/-- The lines of a reduction in order, each as one atomic; the first that fails a check ends them (R148). -/
def reduceLines (w : Walker) (fmt : Nat) (op : AtomicOp) : List LineWrite → State → State × Bool
  | [], s => (s, true)
  | l :: r, s =>
    let line := l.addr / 64 * 64
    match w.checkAtomic s.ev9 line with
    | .bounds x => (boundsFault w.core x w.from_ line s, false)
    | .sealed => reduceLines w fmt op r (sealViolation w.core w.from_ line s)
    | .pass => reduceLines w fmt op r (atomicLine fmt op l s)

/-- Rows are reduced into a walk: as writeWalk, but each line is one atomic (R205). -/
def reduceWalk (w : Walker) (fmt : Nat) (op : AtomicOp) (rows : List RowBytes) (s : State) : State × Bool :=
  let ls := rowWrites w rows
  reduceLines w fmt op ls (countAccesses (partOf w.core) true (ls.map (·.addr)) s)

/-- The signal points whose last flit or write is over when iteration `i` completes (R210): for MV.SEND a point whose last line
waits for its pair follows with the next iteration. -/
def pointsDone (q : QEntry) (i : Nat) : List Nat :=
  if q.op.toNat = 0xD2 then
    let before := if i = 0 then 0 else sendFlits q (i - 1)
    (upFrom (i - 1) (if i = 0 then 1 else 2)).filter fun j =>
      let f := (sendLines q * (j + 1) - 1) / 2
      lpPoint q.lp j && decide (before ≤ f) && decide (f < sendFlits q i)
  else [i].filter (lpPoint q.lp)

/-- The writes of iteration `i`; an MV.SEND has none. The second component says that no bounds fault came. -/
def moverWrites (c : CoreId) (b : MoverBuf) (s : State) : State × Bool :=
  let q := b.entry
  let rows := b.rows.map fun r => (⟨r.1, r.2⟩ : RowBytes)
  let w := moverTarget c q b.iter
  match q.op.toNat with
  | 0xD0 => writeWalk w rows s
  | 0xD1 => reduceWalk w q.w.fmt.toNat (atomicOp (dbits (q.w.mods.setWidth 64) 2 1)) rows s
  | 0xD3 =>
    let n := descL0 q.descD
    let row : RowBytes := ⟨fillBytes (dbits q.w.w1 31 0) n, List.replicate (n / 16) false⟩
    writeWalk w (List.replicate (descRowCount q.descD) row) s
  | _ => (s, true)

/-- Every flit of the iteration has left the core (R54, R210). -/
def Core.hasSent (x : Core) (b : MoverBuf) : Bool := !(x.sendq.any fun f => f.entry == b.entry.id && f.iter == b.iter)

/-- MOVER_ITERATION_COMPLETE (R205, R206, R210): the oldest iteration's writes are made, or all its flits have left; its signal points
signal, and an entry with no iteration left is complete. -/
def execMoverIterationComplete (c : CoreId) (s : State) : Host.Outcome State Fault Refusal :=
  match (s.ev9.core c).bufs with
  | [] => stay s
  | b :: rest =>
    if !s.ev9.coreLive c || !(s.ev9.core c).hasSent b then stay s
    else
      let s := onCore c (fun x => { x with bufs := rest }) s
      let moved := if b.entry.op.toNat = 0xD3 then descRowCount b.entry.descD * rowLines b.entry.descD
        else (rowsToLines b.rows).length
      let s := activity (partOf c) 7 (15 * moved) s
      let r := moverWrites c b s
      if !r.2 then .next r.1
      else
        let q := b.entry
        let s := onCore c (Core.onEntry q.id fun e =>
          { e with done := b.iter + 1, finished := b.iter + 1 == lpTotal q.lp }) r.1
        let s := (pointsDone q b.iter).foldl (fun s _ => engineSignal c q.id s) s
        .next (retireCore c s)

/-! ## Arrivals (R207, R266, R267) -/

/-- Where a flit of a transfer stands: the captured descriptor, its place, and whether its index follows the last one. -/
structure Placed where
  rx : RxState
  inOrder : Bool
  deriving DecidableEq, Repr

/-- The first flit captures the descriptor; a later one follows the transfer's last (R207, R217, R266). A flit of a transfer whose
first flit never came has no place. -/
def Core.placeFlit (x : Core) (h : Header) : Option Placed :=
  if h.first then some ⟨⟨x.handle (BitVec.ofNat 8 h.dh), 0, BitVec.ofNat 14 h.seq⟩, h.seq == 0⟩
  else
    match tfind x.rx (256 * h.vc + h.dh) with
    | none => none
    | some r =>
      let d := (BitVec.ofNat 14 h.seq - r.seq).toNat
      some ⟨⟨r.desc, r.pos + d, BitVec.ofNat 14 h.seq⟩, d == 1⟩

/-- Line `n` of an arriving transfer as a write through the descriptor; beyond the walk there is no such line. -/
def arrivalWrite (d : BitVec 256) (n : Nat) (bytes : List Byte) (poison : List Bool) : Option LineWrite :=
  ((walkLines d 0)[n]?).map fun l =>
    let m := min 64 (descL0 d - 64 * l.inRow)
    ⟨l.addr, bytes.take m, poison.take (m / 16)⟩

/-- The address that would follow a walk by `n` lines. -/
def beyondWalk (d : BitVec 256) (n : Nat) : Nat :=
  let ls := walkLines d 0
  match ls.getLast? with
  | none => 0
  | some l => l.addr + 64 * (n + 1 - ls.length)

/-- The lines of an arriving flit are written one after another; a failure is a bounds fault of the receiving core with engine 2. -/
def arrivalLines (w : Walker) : List (Nat × List Byte × List Bool) → State → State × Bool
  | [], s => (s, true)
  | (n, b, p) :: r, s =>
    match arrivalWrite w.desc n b p with
    | none => (boundsFault w.core .beyondLimit w.from_ (beyondWalk w.desc n) s, false)
    | some l =>
      let x := writeLines w (storeAt w.core) [l] s
      if x.2 then arrivalLines w r x.1 else x

/-- Arrival signals are added to a counter (R141). -/
def arrivalSignals (c ac n : Nat) (s : State) : State := (List.range n).foldl (fun s _ => signalCore c ac 1 true s) s

/-- A sequence error is counted on the port by which a flit entered the chip (R266). -/
def countSeqOf (port : Option PortId) (s : State) : State :=
  match port with
  | some n => countSeq n s
  | none => s

/-- An arriving flit is written through handle dh of the core; a gap or repeat in seq is counted and written as poisoned; each signal
point that the flit ends adds one arrival signal if rsig is set (R207, R266, R267). -/
def writeFlit (c : Nat) (f : Flit) (s : State) : State :=
  let h := f.h
  match (s.ev9.core c).placeFlit h with
  | none => countSeqOf f.port s
  | some pl =>
    let s := if pl.inOrder then s else countSeqOf f.port s
    let s := onCore c (fun x => { x with rx := tins x.rx (256 * h.vc + h.dh) pl.rx }) s
    let w : Walker := ⟨c, .mover, h.dh, 0, pl.rx.desc, 0⟩
    match if h.first then descFault pl.rx.desc else none with
    | some r => boundsFault c r (fromEngine .mover h.dh 0) 0 s
    | none =>
      let bits := (List.range 8).map fun i => !pl.inOrder || h.poison / 2 ^ i % 2 == 1
      let l0 := (2 * pl.rx.pos, padTo 64 (slice f.payload 0 64), bits.take 4)
      let l1 := (2 * pl.rx.pos + 1, padTo 64 (slice f.payload 64 64), bits.drop 4)
      let r := arrivalLines w (if h.half then [l0] else [l0, l1]) s
      if r.2 && h.rsig then arrivalSignals c h.dac f.points r.1 else r.1

/-- FLIT_ARRIVAL_WRITE (R207, R266, R267, R270): the oldest flit that has come over the crossing from the router's local output is
taken and written; the command names what it is. A partition that is no longer ON discards it. -/
def execFlitArrivalWrite (c : CoreId) (port : Option PortId) (hdr : Dword) (payload : List Byte) (s : State) :
    Host.Outcome State Fault Refusal :=
  match (s.ev9.core c).inbox with
  | [] => stay s
  | f :: rest =>
    if !s.ev9.coreLive c || f.wait != 0 || f.port != port || f.hdr != hdr || f.payload != payload || f.h.kind != 0 then stay s
    else
      let s := onCore c (fun x => { x with inbox := rest }) s
      if (s.ev9.part (partOf c)).state != .on then .next (dropFlit f s) else .next (writeFlit c f s)

end Sys2Proof.Machine
end

