-- ==== Sys2Proof/Machine/Scratch.lean ====
section
/-! DEFINITION. Scratch.lean: the accesses to cluster scratch and the order in which they apply (R105–R108, R116). -/

namespace Sys2Proof.Machine

open Sys2Proof

/-- The stamp beat of an access to a cluster: the schedule beat of its partition (R108). -/
def Ev9.stampBeat (e : Ev9) (k : Nat) : Nat := (e.part (k / 2)).clk.beatCount.toNat

/-- Bytes from an address, line by line of 64. -/
def scrUnits (a : Nat) (l : List Byte) : List ScrUnit :=
  let n := if l.length = 0 then 0 else (a + l.length - 1) / 64 + 1 - a / 64
  (List.range n).map fun i =>
    let lo := max a (64 * (a / 64 + i))
    ⟨lo, slice l (lo - a) (min (a + l.length) (64 * (a / 64 + i + 1)) - lo), false⟩

/-- An access arrives at its cluster. -/
def arriveScr (x : ScrAccess) (s : State) : State := onEv9 (fun e => { e with scr := e.scr ++ [x] }) s

/-- The line that an access acts on. -/
def ScrAccess.line (x : ScrAccess) : Nat := ((x.units.head?).map (·.addr)).getD 0 / 64

/-- The scratch bank of the line: offset bits [9:6] (R81). -/
def ScrAccess.bank (x : ScrAccess) : Nat := x.line % 16

/-- The access is an atomic. -/
def ScrAccess.isAtomic (x : ScrAccess) : Bool :=
  match x.kind with
  | .atomic _ _ _ => true
  | _ => false

/-- Among accesses of one beat: in elastic mode the cluster's own cores by index, the mesh port, the host; in strict mode the core
index, the host last. Accesses of one core go thread, vector engine, mover, and in their order (R108, R252). -/
def ScrAccess.rank (strict : Bool) (x : ScrAccess) : Nat :=
  if strict then x.core
  else if x.core = 64 then 5
  else if x.core / 4 = x.cluster then x.core % 4
  else 4

/-- The access goes before another one. -/
def ScrAccess.before (strict : Bool) (x y : ScrAccess) : Bool :=
  decide (x.beat < y.beat) || (x.beat == y.beat && (decide (x.rank strict < y.rank strict)
    || (x.core == y.core && decide (x.unit < y.unit))))

/-- An access takes its place behind those that it does not go before. -/
def insertScr (strict : Bool) (x : ScrAccess) : List ScrAccess → List ScrAccess
  | [] => [x]
  | y :: r => if x.before strict y then x :: y :: r else y :: insertScr strict x r

/-- The accesses in the order of R108. -/
def sortScr (strict : Bool) (l : List ScrAccess) : List ScrAccess := l.foldl (fun r x => insertScr strict x r) []

/-- A register of a thread takes a result. -/
def giveResult (c : Nat) (t : ThreadId) (dst : BitVec 5) (v : Nat) (s : State) : State :=
  onCore c (Core.onThread t (Thread.onRegs fun r => r.setG dst (BitVec.ofNat 64 v))) s

/-- The atomic on every element of a unit. -/
def Ev9.atomicUnit (fmt : Nat) (op : AtomicOp) (u : ScrUnit) (e : Ev9) : Ev9 :=
  let n := atomicBytes fmt
  (List.range (u.bytes.length / n)).foldl (fun e i => e.atomicAt fmt op (u.addr + n * i) (fieldAt u.bytes (n * i) n) u.bad) e

/-- The access is applied (R106, R193, R194). -/
def applyScr (x : ScrAccess) (s : State) : State :=
  match x.kind with
  | .load t dst =>
    match x.units.head? with
    | some u => giveResult x.core t dst (leNat (s.ev9.loads u.addr 8)) s
    | none => s
  | .write => onEv9 (fun e => x.units.foldl (fun e u => e.store u.addr u.bytes u.bad) e) s
  | .atomic fmt op ret =>
    let old := match x.units.head? with
      | some u => leNat (s.ev9.loads u.addr (atomicBytes fmt))
      | none => 0
    let s := countAtomic x.cluster (onEv9 (fun e => x.units.foldl (fun e u => e.atomicUnit fmt (atomicOp op) u) e) s)
    match ret with
    | some (t, dst) => giveResult x.core t dst old s
    | none => s

/-- What a cluster has taken in this beat: the banks that hold an access, the atomics on conflicting lines, and the accesses held. -/
structure ScrBeat where
  banks : List Nat := []
  conflicts : Nat := 0
  held : List ScrAccess := []
  deriving DecidableEq, Repr

/-- Another access of the beat is to the same line. -/
def ScrAccess.conflictsIn (x : ScrAccess) (l : List ScrAccess) : Bool := decide (1 < (l.filter fun y => y.line == x.line).length)

/-- The access has room in the beat: no access held before it is to its line; its bank is free (R105), or it is one of the four
atomics on conflicting addresses that strict mode completes in a beat (R108). -/
def ScrBeat.room (strict : Bool) (all : List ScrAccess) (x : ScrAccess) (b : ScrBeat) : Bool :=
  !(b.held.any fun y => y.line == x.line)
    && (if strict && x.isAtomic && x.conflictsIn all then decide (b.conflicts < 4) else !b.banks.contains x.bank)

/-- The accesses of one cluster are taken in order; those without room stay for the next beat. -/
def runScr (strict : Bool) (all : List ScrAccess) : List ScrAccess → ScrBeat → State → ScrBeat × State
  | [], b, s => (b, s)
  | x :: r, b, s =>
    if b.room strict all x then
      runScr strict all r { b with banks := b.banks ++ [x.bank]
                                   conflicts := b.conflicts + bit (x.isAtomic && x.conflictsIn all) } (applyScr x s)
    else runScr strict all r { b with held := b.held ++ [x] } s

/-- One beat of cluster `k`: in strict mode a beat that holds an atomic back is counted (R111). -/
def scrCluster (k : Nat) (s : State) : State :=
  let mine := sortScr s.ev9.chip.strict (s.ev9.scr.filter fun x => x.cluster == k)
  let r := runScr s.ev9.chip.strict mine mine {} (onEv9 (fun e => { e with scr := e.scr.filter fun x => x.cluster != k }) s)
  let s := onEv9 (fun e => { e with scr := e.scr ++ r.1.held }) r.2
  if s.ev9.chip.strict && r.1.held.any ScrAccess.isAtomic then
    onEv9 (Ev9.onCluster k fun x => { x with conflicts := satAdd x.conflicts 1 }) s
  else s

/-- One beat of every cluster that an access has reached. -/
def scrBeat (s : State) : State :=
  if s.ev9.scr.isEmpty then s else (List.range 16).foldl (fun s k => scrCluster k s) s

end Sys2Proof.Machine
end

