-- ==== Sys2Proof/Machine/Flags.lean ====
section
/-! DEFINITION. Flags.lean: the conditions that CMP and VCMP compute, the operations of PLOG and VMLOG, and the vector exception
flags. -/

namespace Sys2Proof.Machine

open Sys2Proof

/-! ## Predicates (R191) -/

/-- The condition of CMP: 0 EQ, 1 NE, 2 LT, 3 GE, 4 LTU, 5 GEU. -/
def cmpCond (cond : Nat) (a b : Dword) : Bool :=
  match cond with
  | 0 => a == b
  | 1 => a != b
  | 2 => a.slt b
  | 3 => !a.slt b
  | 4 => a.ult b
  | _ => !a.ult b

/-- The operation of PLOG: 0 AND, 1 OR, 2 XOR, 3 AND NOT. -/
def plogOp (op : Nat) (a b : Bool) : Bool :=
  match op with
  | 0 => a && b
  | 1 => a || b
  | 2 => a != b
  | _ => a && !b

/-! ## Vector conditions (R242) -/

/-- a is less than b as numbers, where −0 equals +0; false if either is a NaN. -/
def FV.below (a b : FV) : Bool := if a.isZero && b.isZero then false else a.less b

/-- The condition of VCMP on floating values: 0 EQ, 1 NE, 2 LT, 3 LE, 4 GT, 5 GE. With a NaN only NE is true. -/
def vcmpFloat (fn : Nat) (a b : FV) : Bool :=
  let nan := a.isNan || b.isNan
  let lt := a.below b
  let gt := b.below a
  match fn with
  | 0 => !nan && !lt && !gt
  | 1 => nan || lt || gt
  | 2 => lt
  | 3 => !nan && !gt
  | 4 => gt
  | _ => !nan && !lt

/-- The condition of VCMP on signed integers. -/
def vcmpInt (fn : Nat) (a b : BitVec 32) : Bool :=
  match fn with
  | 0 => a == b
  | 1 => a != b
  | 2 => a.slt b
  | 3 => !b.slt a
  | 4 => b.slt a
  | _ => !a.slt b

/-! ## Vector exception flags (R232) -/

/-- The flags that an element raises. -/
structure EFlags where
  nv : Bool := false
  dz : Bool := false
  ov : Bool := false
  uf : Bool := false
  deriving DecidableEq, Repr

/-- Both elements' flags. -/
def EFlags.or (a b : EFlags) : EFlags := ⟨a.nv || b.nv, a.dz || b.dz, a.ov || b.ov, a.uf || b.uf⟩

/-- Bits 3:0 of CORE_VEC_FLAGS_c and CORE_VEC_CTRL_c. -/
def EFlags.bits (f : EFlags) : BitVec 4 :=
  BitVec.ofBool f.uf ++ BitVec.ofBool f.ov ++ BitVec.ofBool f.dz ++ BitVec.ofBool f.nv

/-- The lowest-numbered flag that is enabled as a trap: its reason in a VECTOR_FAULT record (R249, R253). -/
def EFlags.trap (ctrl : BitVec 4) (f : EFlags) : Option Nat :=
  if f.nv && ctrl.getLsbD 0 then some 2
  else if f.dz && ctrl.getLsbD 1 then some 3
  else if f.ov && ctrl.getLsbD 2 then some 4
  else if f.uf && ctrl.getLsbD 3 then some 5
  else none

/-- An element's result with its flags. -/
structure ElemResult where
  bits : Nat
  flags : EFlags := {}
  deriving DecidableEq, Repr

/-- The flags of a rounding. -/
def Rounded.result (r : Rounded) (invalid : Bool) : ElemResult :=
  ⟨r.bits, { nv := invalid, ov := r.overflow, uf := r.under }⟩

/-- An exact result narrowed once into a format. -/
def Exact.narrow (f : Fmt) (mode : Rnd) (x : Exact) : ElemResult := (f.round mode x.value).result x.invalid

end Sys2Proof.Machine
end

