-- ==== Sys2Proof/Machine/FnTables.lean ====
section
/-! DEFINITION. FnTables.lean: the functions of VFN that R244 does not round correctly: close values of them, computed in integers, and the
results that the accuracy of R244 allows around them. -/

namespace Sys2Proof.Machine

open Sys2Proof

/-- A positive rational (m × 2^e) / n as a value with enough bits and a sticky bit for one correct rounding. -/
def quotient (m : Nat) (e : Int) (n : Nat) : FV :=
  let k := Nat.log2 n + 64
  let q := m * 2 ^ k / n
  let r := m * 2 ^ k % n
  .fin false (2 * q + (if r = 0 then 0 else 1)) (e - (k : Int) - 1)

/-- Integer square root, by bits. -/
def isqrt (bits n : Nat) : Nat :=
  match bits with
  | 0 => 0
  | b + 1 =>
    let r := 2 * isqrt b (n / 4)
    if (r + 1) * (r + 1) ≤ n then r + 1 else r

/-- The square root of a positive m × 2^e with a sticky bit. -/
def sqrtValue (m : Nat) (e : Int) : FV :=
  let odd := e.emod 2 = 1
  let m' := (if odd then 2 * m else m) * 2 ^ 128
  let e' := (if odd then e - 1 else e) - 128
  let r := isqrt (Nat.log2 m' / 2 + 1) m'
  .fin false (2 * r + (if r * r = m' then 0 else 1)) (e'.ediv 2 - 1)

/-! ## Fixed point with 160 fraction bits -/

/-- One. -/
def fixOne : Nat := 2 ^ 160

/-- The sum y + y³/3 + y⁵/5 + … -/
def fixAtanh (y : Nat) : Nat :=
  ((List.range 64).foldl (fun s i => (s.1 * y / fixOne * y / fixOne, s.2 + s.1 / (2 * i + 1))) (y, 0)).2

/-- The natural logarithm of 2. -/
def fixLn2 : Nat := 2 * fixAtanh (fixOne / 3)

/-- The sum 1 + t + t²/2 + … -/
def fixExp (t : Nat) : Nat :=
  ((List.range 48).foldl (fun s i => (s.1 * t / fixOne / (i + 1), s.2 + s.1)) (fixOne, 0)).2

/-- A value of magnitude below 2^8 in fixed point, rounded down. -/
def toFix (neg : Bool) (m : Nat) (e : Int) : Int :=
  if 0 ≤ e + 160 then signed neg (m * 2 ^ (e + 160).toNat)
  else if neg then -((m / 2 ^ (-(e + 160)).toNat + 1 : Nat) : Int) else ((m / 2 ^ (-(e + 160)).toNat : Nat) : Int)

/-- e^x as a mantissa and an exponent; far outside the range of FP32 a value that is as far outside. -/
def expPair (neg : Bool) (m : Nat) (e : Int) : Nat × Int :=
  if 8 ≤ floorLog2 m e then (1, if neg then -1000 else 1000)
  else
    let x := toFix neg m e
    let n := x.ediv (fixLn2 : Int)
    (fixExp (x - n * (fixLn2 : Int)).toNat, n - 160)

/-- 2^x, likewise. -/
def exp2Pair (neg : Bool) (m : Nat) (e : Int) : Nat × Int :=
  if 8 ≤ floorLog2 m e then (1, if neg then -1000 else 1000)
  else
    let x := toFix neg m e
    let n := x.ediv (fixOne : Int)
    (fixExp ((x - n * (fixOne : Int)).toNat * fixLn2 / fixOne), n - 160)

/-- The base-2 logarithm of a positive value. -/
def log2Value (m : Nat) (e : Int) : FV :=
  let k := floorLog2 m e
  let f := (toFix false m (e - k)).toNat
  let y := (f - fixOne) * fixOne / (f + fixOne)
  let x : Int := k * (fixOne : Int) + ((2 * fixAtanh y * fixOne / fixLn2 : Nat) : Int)
  .fin (decide (x < 0)) x.natAbs (-160)

/-- A pair as a fraction. -/
def asFraction (x : Nat × Int) : Nat × Nat :=
  if 0 ≤ x.2 then (x.1 * 2 ^ x.2.toNat, 1) else (x.1, 2 ^ (-x.2).toNat)

/-- The hyperbolic tangent of a positive value; below 2^-24 from the first terms of its series. -/
def tanhValue (m : Nat) (e : Int) : FV :=
  if floorLog2 m e < -24 then
    let k := (-e).toNat
    quotient (m * (15 * 2 ^ (4 * k) + 2 * m ^ 4 - 5 * m ^ 2 * 2 ^ (2 * k))) (e - 4 * (k : Int)) 15
  else
    let x := asFraction (expPair false (2 * m) e)
    quotient (x.1 - x.2) 0 (x.1 + x.2)

/-- 1 / (1 + e^−x). -/
def sigmoidValue (neg : Bool) (m : Nat) (e : Int) : FV :=
  let x := asFraction (expPair neg m e)
  quotient x.1 0 (x.1 + x.2)

/-- A value with the sign that is given. -/
def FV.withSign (neg : Bool) : FV → FV
  | .fin _ m e => .fin neg m e
  | x => x

/-- The function of code `fn` at a finite operand, to some 100 bits: EXP, EXP2, LOG2, RSQRT, TANH or SIGMOID. -/
def closeValue (fn : Nat) (neg : Bool) (m : Nat) (e : Int) : FV :=
  match fn with
  | 0 => .fin false (expPair neg m e).1 (expPair neg m e).2
  | 1 => .fin false (exp2Pair neg m e).1 (exp2Pair neg m e).2
  | 2 => log2Value m e
  | 4 => match sqrtValue m e with
    | .fin _ r k => quotient 1 (-k) r
    | x => x
  | 6 => (tanhValue m e).withSign neg
  | _ => sigmoidValue neg m e

/-- The accuracy of R244 in ulp. -/
def fnUlps (fn : Nat) : Nat := if fn = 1 ∨ fn = 4 then 1 else 2

/-- An FP32 pattern as a value, an infinity as the power of two above the largest finite value. -/
def reach32 (y : Nat) : FV :=
  match Fmt.fp32.value y with
  | .inf neg => .fin neg 1 128
  | x => x

/-- The pattern lies within `k` ulp of a value (R244); ulp is that of R173. -/
def withinUlps (k : Nat) (a : FV) (y : Nat) : Bool :=
  let u : FV := match a with
    | .fin _ m e => .fin false k (if m = 0 then -149 else max (floorLog2 m e) (-126) - 23)
    | _ => .fin false k 0
  match ((reach32 y).add a.neg).value with
  | .fin _ m e => !(u.less (.fin false m e))
  | _ => false

/-- The result of a table entry (R231, R244): the pattern a free number of steps from the correctly rounded one, where that lies within
the accuracy of the function, else the correctly rounded one. Every result that the accuracy allows is one of these (log 4). -/
def tableEntry (fn x : Nat) (a : FV) : Nat :=
  let r := (Fmt.fp32.round .nearest a).bits
  let y := ((r : Int) + Config.vfnStep fn (BitVec.ofNat 32 x)).toNat
  if withinUlps (fnUlps fn) a y then y else r

end Sys2Proof.Machine
end

