-- ==== Sys2Proof/Machine/VecMath.lean ====
section
/-! DEFINITION. VecMath.lean: vector registers and masks, random values, conversions and the functions of VFN (R223–R244). -/

namespace Sys2Proof.Machine

open Sys2Proof

/-! ## Registers and masks (R223, R228) -/

/-- A format whose elements are 16 bits wide. -/
def fmtWide16 (fmt : Nat) : Bool := fmt == 1 || fmt == 2

/-- The halfwords of element `e` of register `r` at a width: halfword 2,048 × register + index. -/
def halfwords (w16 : Bool) (r e : Nat) : List Nat :=
  if w16 then [2048 * r + e] else [2048 * r + 2 * e, 2048 * r + 2 * e + 1]

/-- Elements of a register at a width. -/
def regElems (w16 : Bool) : Nat := if w16 then 2048 else 1024

/-- Element `e` of register `r` as a number. An element beyond the register is a free value (log 4). -/
def Vec.elem (v : Vec) (w16 : Bool) (r e : Nat) : Nat :=
  if regElems w16 ≤ e then (Config.unstated (r * 4096 + e)).toNat % (if w16 then 2 ^ 16 else 2 ^ 32)
  else if w16 then (tget 0 v.regs (2048 * r + e)).toNat
  else (tget 0 v.regs (2048 * r + 2 * e)).toNat + 2 ^ 16 * (tget 0 v.regs (2048 * r + 2 * e + 1)).toNat

/-- The element carries poison (R101). -/
def Vec.elemPoison (v : Vec) (w16 : Bool) (r e : Nat) : Bool := (halfwords w16 r e).any v.poison.contains

/-- Element `e` of register `r` is written. -/
def Vec.setElem (w16 : Bool) (r e : Nat) (x : Nat) (bad : Bool) (v : Vec) : Vec :=
  let hs := halfwords w16 r e
  let v := { v with poison := hs.foldl (fun p h => if bad then sadd p h else sdel p h) v.poison }
  let i := 2048 * r + 2 * e
  if w16 then { v with regs := tput 0 v.regs (2048 * r + e) (BitVec.ofNat 16 x) }
  else { v with regs := tput 0 (tput 0 v.regs i (BitVec.ofNat 16 x)) (i + 1) (BitVec.ofNat 16 (x / 2 ^ 16)) }

/-- Mask `m`; m0 reads all ones. -/
def Vec.mask (v : Vec) (m : Nat) (e : Nat) : Bool := m == 0 || (tget 0 v.masks m).getLsbD e

/-- Bit `e` of mask `m` is written. -/
def Vec.setMask (m e : Nat) (b bad : Bool) (v : Vec) : Vec :=
  { v with masks := tmod 0 v.masks m fun x => if b then setBit x e else clrBit x e
           maskPoison := if bad then sadd v.maskPoison (2048 * m + e) else sdel v.maskPoison (2048 * m + e) }

/-- Modifier fields of a vector instruction (R226). -/
def vMask (w : Eng) : Nat := (w.mods.extractLsb' 0 3).toNat
def vZero (w : Eng) : Bool := w.mods.getLsbD 3
def vRnd (w : Eng) : Nat := (w.mods.extractLsb' 4 2).toNat
def vSb (w : Eng) : Bool := w.mods.getLsbD 7
def vFn (w : Eng) : Nat := dbits w.w1 35 32

/-- The bit of mask `m` carries poison (R101); m0 never does. -/
def Vec.maskBad (v : Vec) (m e : Nat) : Bool := m != 0 && v.maskPoison.contains (2048 * m + e)

/-- Whether element `e` is active depends on poisoned data (R101). -/
def Vec.maskTaints (v : Vec) (q : QEntry) (e : Nat) : Bool := v.maskBad (vMask q.w) e

/-- The element carries poison from now on; its value stands. -/
def Vec.taint (w16 : Bool) (r e : Nat) (v : Vec) : Vec := { v with poison := (halfwords w16 r e).foldl sadd v.poison }

/-- Element `e` is active (R228). -/
def Vec.active (v : Vec) (q : QEntry) (e : Nat) : Bool := decide (e < q.vl.toNat) && v.mask (vMask q.w) e

/-! ## Random values (R233–R235) -/

/-- The mixing function of R234. -/
def mix32 (x : BitVec 32) : BitVec 32 :=
  let x := x ^^^ (x >>> 16)
  let x := x * 0x7FEB352D
  let x := x ^^^ (x >>> 15)
  let x := x * 0x846CA68B
  x ^^^ (x >>> 16)

/-- The counter source for element `e` of an entry on core `c` (R234). -/
def counterRandom (seed : BitVec 32) (c : Nat) (q : QEntry) (e : Nat) : BitVec 32 :=
  let x := mix32 (seed ^^^ q.step.setWidth 32)
  let x := mix32 (x ^^^ BitVec.ofNat 32 (c % 8 * 2 ^ 16) ^^^ BitVec.ofNat 32 (q.thread.val * 2 ^ 14) ^^^ q.pc.setWidth 32)
  let x := mix32 (x ^^^ q.nVec)
  mix32 (x ^^^ BitVec.ofNat 32 e)

/-- The rounding of element `e`; the entropy source is a free value by draw and element (R235, log 4). -/
def elemRnd (seed : BitVec 32) (draw c : Nat) (q : QEntry) (e : Nat) : Rnd :=
  match vRnd q.w with
  | 0 => .nearest
  | 1 => .zero
  | 2 => .stoch (counterRandom seed c q e)
  | _ => .stoch (Config.entropy draw e)

/-! ## Conversions (R237, R242) -/

/-- The register format of codes 0x0, 0x1 and 0x2. -/
def regFmt (fmt : Nat) : Fmt := elemFmt fmt

/-- A floating value as INT32: rounded to an integer, saturated, NaN to 0 (R232, R242). -/
def toInt32 (mode : Rnd) (x : FV) : ElemResult :=
  match x with
  | .nan => ⟨0, { nv := true }⟩
  | .inf neg => ⟨if neg then 2 ^ 31 else 2 ^ 31 - 1, { nv := true }⟩
  | .fin neg m e =>
    let q := if e < 0 then roundBits mode m (-e).toNat else m * 2 ^ e.toNat
    if neg then (if 2 ^ 31 < q then ⟨2 ^ 31, { nv := true }⟩ else ⟨(2 ^ 32 - q) % 2 ^ 32, {}⟩)
    else (if 2 ^ 31 ≤ q then ⟨2 ^ 31 - 1, { nv := true }⟩ else ⟨q, {}⟩)

/-- VCVT from one register format to another; the same format copies the bits. -/
def convertElem (src dst : Nat) (mode : Rnd) (x : Nat) : ElemResult :=
  if src = dst then ⟨x, {}⟩
  else if dst = 9 then toInt32 mode (elemValue src x)
  else ((regFmt dst).round mode (elemValue src x)).result false

/-! ## VFN (R244) -/

/-- The value of an integral m × 2^e, if it is one. -/
def integerOf (neg : Bool) (m : Nat) (e : Int) : Option Int :=
  if 0 ≤ e then some (signed neg (m * 2 ^ e.toNat))
  else if m % 2 ^ (-e).toNat = 0 then some (signed neg (m / 2 ^ (-e).toNat)) else none

/-- A result of VFN in FP32 with its flags and whether it is inexact. -/
structure FnResult where
  bits : Nat
  flags : EFlags := {}
  inexact : Bool := false
  deriving DecidableEq, Repr

/-- FP32 patterns. -/
def one32 : Nat := 0x3F800000
def inf32 (neg : Bool) : Nat := Fmt.fp32.inf neg
def nan32 : Nat := Fmt.fp32.nan
def zero32 (neg : Bool) : Nat := if neg then 0x80000000 else 0

/-- A value from the tables of R231 for a finite operand, within the accuracy of R244. Overflow and underflow are judged on it; a
result of these functions below the normal range is never exact. -/
def tableFn (fn x : Nat) : FnResult :=
  match Fmt.fp32.value x with
  | .fin neg m e =>
    let y := tableEntry fn x (closeValue fn neg m e)
    let tiny := match Fmt.fp32.value y with
      | .fin _ m e => decide (m = 0) || decide (floorLog2 m e < -126)
      | _ => false
    let overflow := match Fmt.fp32.value y with
      | .inf _ => true
      | _ => false
    ⟨y, { ov := overflow, uf := tiny }, true⟩
  | _ => ⟨nan32, {}, false⟩

/-- A result that R244 does not state: free (log 4). A NaN is the canonical one (R230). -/
def unstatedFn (fn x : Nat) : FnResult :=
  let y := (Config.vfnTable fn (BitVec.ofNat 32 x)).toNat
  ⟨if (Fmt.fp32.value y).isNan then nan32 else y, {}, false⟩

/-- A correctly rounded FP32 result. -/
def exactFn (x : FV) : FnResult :=
  let r := Fmt.fp32.round .nearest x
  ⟨r.bits, { ov := r.overflow, uf := r.under }, r.inexact⟩

/-- A function of R244 on an FP32 operand. -/
def vfn32 (fn x : Nat) : FnResult :=
  match Fmt.fp32.value x with
  | .nan => ⟨nan32, {}, false⟩
  | .inf neg =>
    match fn with
    | 0 | 1 => ⟨if neg then 0 else inf32 false, {}, false⟩
    | 2 => if neg then ⟨nan32, { nv := true }, false⟩ else unstatedFn fn x
    | 3 => ⟨zero32 neg, {}, false⟩
    | 4 => if neg then ⟨nan32, { nv := true }, false⟩ else ⟨0, {}, false⟩
    | 5 => if neg then ⟨nan32, { nv := true }, false⟩ else ⟨inf32 false, {}, false⟩
    | 6 => ⟨if neg then one32 + 0x80000000 else one32, {}, false⟩
    | _ => ⟨if neg then 0 else one32, {}, false⟩
  | .fin neg m e =>
    if m = 0 then
      match fn with
      | 0 | 1 => ⟨one32, {}, false⟩
      | 2 => ⟨inf32 true, { dz := true }, false⟩
      | 3 | 4 => ⟨inf32 neg, { dz := true }, false⟩
      | 5 | 6 => ⟨zero32 neg, {}, false⟩
      | _ => tableFn fn x
    else
      match fn with
      | 1 => match integerOf neg m e with
        | some k => exactFn (.fin false 1 k)
        | none => tableFn fn x
      | 2 => if neg then ⟨nan32, { nv := true }, false⟩ else if x = one32 then ⟨0, {}, false⟩ else tableFn fn x
      | 3 => match quotient 1 (-e) m with
        | .fin _ n g => exactFn (.fin neg n g)
        | v => exactFn v
      | 4 => if neg then ⟨nan32, { nv := true }, false⟩ else tableFn fn x
      | 5 => if neg then ⟨nan32, { nv := true }, false⟩ else exactFn (sqrtValue m e)
      | _ => tableFn fn x

/-- A function at the width of a format: in FP32, and rounded once to nearest even at 16 bits (R244). -/
def vfnElem (fmt fn x : Nat) : ElemResult :=
  if fmt = 0 then
    let r := vfn32 fn x
    ⟨r.bits, r.flags⟩
  else
    let r := vfn32 fn (Fmt.fp32.round .nearest (elemValue fmt x)).bits
    let n := (regFmt fmt).round .nearest (Fmt.fp32.value r.bits)
    let tiny := match Fmt.fp32.value r.bits with
      | .fin _ m e => decide (m = 0) || decide (floorLog2 m e < (regFmt fmt).low + ((regFmt fmt).mb : Int))
      | _ => false
    ⟨n.bits, { r.flags with ov := r.flags.ov || n.overflow, uf := r.flags.uf || (tiny && (r.inexact || n.inexact)) }⟩

/-! ## Element operations (R242) -/

/-- Two's complement of a 32-bit operation. -/
def int32 (x : Nat) : BitVec 32 := BitVec.ofNat 32 x

/-- The INT32 form of an element operation. -/
def intElem (op fn : Nat) (a b d : Nat) : ElemResult :=
  let x := int32 a
  let y := int32 b
  let sh := b % 32
  let r : BitVec 32 := match op with
    | 0xE8 => x + y
    | 0xE9 => x - y
    | 0xEA => x * y
    | 0xEB => x * y + int32 d
    | 0xEC => if x.slt y then y else x
    | 0xED => if y.slt x then y else x
    | _ => match fn with
      | 0 => x &&& y
      | 1 => x ||| y
      | 2 => x ^^^ y
      | 3 => x <<< sh
      | 4 => x >>> sh
      | _ => x.sshiftRight sh
  ⟨r.toNat, {}⟩

/-- The floating form of an element operation. -/
def floatElem (fmt op : Nat) (mode : Rnd) (a b d : Nat) : ElemResult :=
  let f := regFmt fmt
  let x := f.value a
  let y := f.value b
  match op with
  | 0xE8 => (x.add y).narrow f mode
  | 0xE9 => (x.add y.neg).narrow f mode
  | 0xEA => (x.mul y).narrow f mode
  | 0xEB => (FV.fma x y (f.value d)).narrow f mode
  | 0xEC => ⟨(f.round .nearest (FV.extreme true x y)).bits, {}⟩
  | _ => ⟨(f.round .nearest (FV.extreme false x y)).bits, {}⟩

/-- An element of VADD, VSUB, VMUL, VFMA, VMAX, VMIN or VLOG. -/
def arithElem (fmt op fn : Nat) (mode : Rnd) (a b d : Nat) : ElemResult :=
  if fmt = 9 then intElem op fn a b d else floatElem fmt op mode a b d

/-- The scalar operand of word 1. -/
def scalarOf (w : Eng) : Nat := dbits w.w1 31 0

/-- Operand b of element `e`: the scalar, or the element of vB. -/
def operandBV (v : Vec) (q : QEntry) (w16 : Bool) (e : Nat) : Nat :=
  if vSb q.w then scalarOf q.w else v.elem w16 q.w.b.toNat e

/-- The result of a register instruction for element `e` (R242, R244). -/
def elemResult (v : Vec) (q : QEntry) (mode : Rnd) (e : Nat) : ElemResult :=
  let fmt := q.w.fmt.toNat
  let w16 := fmtWide16 fmt
  let a := v.elem w16 q.w.a.toNat e
  match q.op.toNat with
  | 0xEF => vfnElem fmt (vFn q.w) a
  | 0xF0 =>
    let src := dbits q.w.w1 39 36
    convertElem src fmt mode (v.elem (fmtWide16 src) q.w.a.toNat e)
  | 0xF1 => ⟨if vSb q.w then scalarOf q.w else a, {}⟩
  | 0xF2 => ⟨e, {}⟩
  | op => arithElem fmt op (vFn q.w) mode a (operandBV v q w16 e) (v.elem w16 q.w.d.toNat e)

/-- The operands of element `e` carry poison (R101). -/
def elemTainted (v : Vec) (q : QEntry) (e : Nat) : Bool :=
  let w16 := fmtWide16 q.w.fmt.toNat
  let pa := v.elemPoison w16 q.w.a.toNat e
  let pb := !vSb q.w && v.elemPoison w16 q.w.b.toNat e
  match q.op.toNat with
  | 0xF0 => v.elemPoison (fmtWide16 (dbits q.w.w1 39 36)) q.w.a.toNat e
  | 0xF1 => !vSb q.w && pa
  | 0xF2 => false
  | 0xEF => pa
  | 0xEB => pa || pb || v.elemPoison w16 q.w.d.toNat e
  | _ => pa || pb

/-- VCMP for element `e`. -/
def compareElem (v : Vec) (q : QEntry) (e : Nat) : Bool :=
  let fmt := q.w.fmt.toNat
  let w16 := fmtWide16 fmt
  let a := v.elem w16 q.w.a.toNat e
  let b := operandBV v q w16 e
  if fmt = 9 then vcmpInt (vFn q.w) (int32 a) (int32 b)
  else vcmpFloat (vFn q.w) (elemValue fmt a) (elemValue fmt b)

/-- The mask bits that VMLOG reads for element `e` carry poison. -/
def maskOpTainted (v : Vec) (q : QEntry) (e : Nat) : Bool := v.maskBad q.w.a.toNat e || v.maskBad q.w.b.toNat e

/-- VMLOG for element `e`. -/
def maskElem (v : Vec) (q : QEntry) (e : Nat) : Bool :=
  plogOp (vFn q.w) (v.mask q.w.a.toNat e) (v.mask q.w.b.toNat e)

/-! ## VREDUCE (R243) -/

/-- Neighbours are combined; the flags of the additions gather. -/
def pairUp {α : Type} (f : α → α → α) : List α → List α
  | x :: y :: r => f x y :: pairUp f r
  | l => l

/-- The tree, `n` rounds of it. -/
def treeFold {α : Type} (f : α → α → α) : Nat → List α → List α
  | 0, l => l
  | n + 1, l => treeFold f n (pairUp f l)

/-- A node of the floating tree: an FP32 pattern and its flags. -/
structure TreeNode where
  bits : Nat
  flags : EFlags := {}
  deriving DecidableEq, Repr

/-- One operation of the floating tree, rounded to nearest even. -/
def treeOp (fn : Nat) (a b : TreeNode) : TreeNode :=
  let x := Fmt.fp32.value a.bits
  let y := Fmt.fp32.value b.bits
  let r : ElemResult := match fn with
    | 0 => (x.add y).narrow Fmt.fp32 .nearest
    | 1 => ⟨(Fmt.fp32.round .nearest (FV.extreme true x y)).bits, {}⟩
    | _ => ⟨(Fmt.fp32.round .nearest (FV.extreme false x y)).bits, {}⟩
  ⟨r.bits, (a.flags.or b.flags).or r.flags⟩

/-- The identity of a reduction: −0.0, −∞ or +∞; 0, −2^31 or 2^31 − 1 in INT32. -/
def reduceIdentity (int : Bool) (fn : Nat) : Nat :=
  match int, fn with
  | false, 0 => 0x80000000
  | false, 1 => inf32 true
  | false, _ => inf32 false
  | true, 0 => 0
  | true, 1 => 2 ^ 31
  | true, _ => 2 ^ 31 - 1

/-- One operation of the INT32 tree. -/
def treeInt (fn : Nat) (a b : BitVec 32) : BitVec 32 :=
  match fn with
  | 0 => a + b
  | 1 => intExtreme true a b
  | _ => intExtreme false a b

/-- The value of a VREDUCE: the tree over all elements of the register, inactive ones at the identity (R243). -/
def reduceResult (v : Vec) (q : QEntry) (mode : Rnd) : ElemResult :=
  let fmt := q.w.fmt.toNat
  let w16 := fmtWide16 fmt
  let n := regElems w16
  let rounds := if w16 then 11 else 10
  let fn := vFn q.w
  let x (e : Nat) : Nat := v.elem w16 q.w.a.toNat e
  if fmt = 9 then
    let t := (List.range n).map fun e => int32 (if v.active q e then x e else reduceIdentity true fn)
    ⟨((treeFold (treeInt fn) rounds t).headD 0).toNat, {}⟩
  else
    let t := (List.range n).map fun e => (⟨if v.active q e then (Fmt.fp32.round .nearest (elemValue fmt (x e))).bits
      else reduceIdentity false fn, {}⟩ : TreeNode)
    let r := (treeFold (treeOp fn) rounds t).headD ⟨0, {}⟩
    if fmt = 0 then ⟨r.bits, r.flags⟩
    else
      let y := ((regFmt fmt).round mode (Fmt.fp32.value r.bits)).result false
      ⟨y.bits, r.flags.or y.flags⟩

end Sys2Proof.Machine
end

