-- ==== Sys2Proof/Machine/Vector.lean ====
section
/-! DEFINITION. Vector.lean: the vector engine's instructions as they start, pass and complete (R224–R256). -/

namespace Sys2Proof.Machine

open Sys2Proof

/-! ## Elements of a walk (R238, R245) -/

/-- Where element `e` of a walk stands: its row's start and its column; none beyond the walk. -/
structure ElemPlace where
  row : Nat
  col : Nat
  deriving DecidableEq, Repr

/-- The place of element `e` in a walk whose rows hold `n` elements. -/
def placeElem (w : Walker) (n e : Nat) : Option ElemPlace :=
  ((descRows w.desc)[e / n]?).map fun r => ⟨w.start + r, e % n⟩

/-- The walk's element count. -/
def walkElems (d : BitVec 256) : Nat := descRowCount d * descCount0 d

/-- The address of an element's first byte, and the bytes it touches. -/
def elemBytesAt (d : BitVec 256) (p : ElemPlace) : Nat × Nat :=
  let f := descFormat d
  if isMx f then
    let w := elemBits f
    let base := p.row + pad16 (descCount0 d / 32)
    (base + w * p.col / 8, (w * p.col + w - 1) / 8 - w * p.col / 8 + 1)
  else (p.row + plainBytes f * p.col, plainBytes f)

/-- The addresses an element's access touches: its bytes and, in an MX walk, its block's scale. -/
def elemAddrs (d : BitVec 256) (p : ElemPlace) : List Nat :=
  let b := elemBytesAt d p
  (if isMx (descFormat d) then [p.row + p.col / 32] else []) ++ upFrom b.1 b.2

/-- The lines that hold the addresses, in order and once each. -/
def linesOf (l : List Nat) : List Nat := l.foldl (fun acc a => sadd acc (a / 64 * 64)) []

/-- The value of an element that VLD reads, before conversion, and whether it carries poison (R237). -/
def loadElem (e : Ev9) (d : BitVec 256) (p : ElemPlace) : FV × Bool :=
  let f := descFormat d
  let bad := (elemAddrs d p).any fun a => e.poisoned (wordOf a)
  if isMx f then
    let base := p.row + pad16 (descCount0 d / 32)
    let w := elemBits f
    let x := leNat (e.loads (base + w * p.col / 8) 5) / 2 ^ (w * p.col % 8) % 2 ^ w
    (((elemValue f x).mul (scaleValue (e.load (p.row + p.col / 32)))).value, bad)
  else (elemValue f (leNat (e.loads (elemBytesAt d p).1 (plainBytes f))), bad)

/-- The element that VLD writes into its register. -/
def loadResult (e : Ev9) (d : BitVec 256) (fmt : Nat) (mode : Rnd) (p : ElemPlace) : ElemResult :=
  if fmt = 9 then ⟨leNat (e.loads (elemBytesAt d p).1 4), {}⟩
  else ((regFmt fmt).round mode (loadElem e d p).1).result false

/-! ## Walkers, passes and their elements -/

/-- The walker of VLD, or of VST and VRED. -/
def vecWalker (c : Nat) (q : QEntry) : Walker :=
  if q.op.toNat = 0xE0 then ⟨c, .vector, q.w.a.toNat, 0, q.descA, 0⟩ else ⟨c, .vector, q.w.d.toNat, 0, q.descD, 0⟩

/-- Elements of one pass. -/
def passWidth (q : QEntry) : Nat := if fmtWide16 q.w.fmt.toNat then 128 else 64

/-- Elements of one row of VRED's walk, in the instruction's format (log 26). -/
def vredRow (q : QEntry) : Nat := max 1 (descL0 q.descD / atomicBytes q.w.fmt.toNat)

/-- Lines per beat of a vector access (R209, R248). -/
def vecRate (c a : Nat) (write : Bool) : Nat :=
  match placeOf a with
  | .obuf _ _ => 4
  | .tier k _ => if k = c then 4 else 2
  | .scratch _ _ => 2
  | _ => if write then 4 else 4

/-- The active elements of an instruction. -/
def Vec.activeElems (v : Vec) (q : QEntry) : List Nat := (List.range q.vl.toNat).filter (v.active q)

/-- The elements that a memory instruction moves: the active ones, and with them the whole MX blocks that a VST writes (R238, R239). -/
def movedElems (v : Vec) (q : QEntry) (d : BitVec 256) : List Nat :=
  let l := v.activeElems q
  if q.op.toNat = 0xE1 ∧ isMx (descFormat d) then
    (l.foldl (fun acc e => sadd acc (e / 32)) []).flatMap fun b => upFrom (32 * b) 32
  else l

/-- The lines that a memory instruction accesses: those that hold an element it moves. -/
def activeLines (c : Nat) (v : Vec) (q : QEntry) : List Nat :=
  let w := vecWalker c q
  let n := if q.op.toNat = 0xE2 then vredRow q else descCount0 w.desc
  linesOf ((movedElems v q w.desc).flatMap fun e =>
    match placeElem w n e with
    | none => []
    | some p => if q.op.toNat = 0xE2 then [p.row + atomicBytes q.w.fmt.toNat * p.col] else elemAddrs w.desc p)

/-- The passes P of an instruction (R225, R248); with vl = 0 it takes one (R224). -/
def passCount (c : Nat) (v : Vec) (q : QEntry) : Nat :=
  let p := (q.vl.toNat + passWidth q - 1) / passWidth q
  let lines := (activeLines c v q).length
  let rate := vecRate c (vecWalker c q).start (q.op.toNat == 0xE1)
  max 1 (match q.op.toNat with
    | 0xE0 | 0xE1 => max p ((lines + rate - 1) / rate)
    | 0xE2 => max p lines
    | 0xF5 => 1
    | _ => p)

/-- The half that a VRDACC or VWRACC names. -/
def vecHalf (q : QEntry) : Option Half2 :=
  if q.op.toNat = 0xE3 ∨ q.op.toNat = 0xE4 then some (halfOf (q.w.w1.getLsbD 41)) else none

/-- The first accumulator row of a VRDACC or VWRACC. -/
def vecRow (q : QEntry) : Nat := dbits q.w.w1 48 42

/-- All passes of a vector entry have been made. -/
def QEntry.passesOver (q : QEntry) : Bool :=
  q.finished || (q.active && q.op != 0xFC && decide (q.passes ≤ q.done))

/-! ## Start (R224, R245–R249, R251) -/

/-- Flags of CORE_VEC_FLAGS_c are raised in this beat (R10, R255). -/
def noteFlags (c : Nat) (f : BitVec 5) (s : State) : State :=
  (List.range 5).foldl (fun s i =>
    if f.getLsbD i then noteSet (offCoreStatus c + 0x4008) i ((s.ev9.core c).vec.flags.getLsbD i) s else s) s

/-- VECTOR_FAULT: the record, bit 4 of the flags, and what R148 lays down (R249). -/
def vectorFault (c : Nat) (q : QEntry) (reason e : Nat) (s : State) : State :=
  let p := partOf c
  let s := onCore c (fun x => { x.faultThreads with vec := { x.vec with flags := x.vec.flags ||| 16 } })
    (noteFlags c 16 s)
  let s := faultRecord { source := 2, part := some p, core := c, held := true, cause := 0x0600, d0 := reason,
                         d1 := q.thread.val + 4 * q.pc.toNat + 2 ^ 15 * q.op.toNat, d2 := e } s
  finishNamed (BitVec.ofNat 8 (2 ^ p)) stWrongState (enterHeld p s)

/-- The reason for which an instruction faults at its start: 0 vl above VLMAX, 1 vl above the walk or the accumulator. -/
def startFault (q : QEntry) : Option Nat :=
  let vl := q.vl.toNat
  if regElems (fmtWide16 q.w.fmt.toNat) < vl then some 0
  else match q.op.toNat with
    | 0xE0 => if walkElems q.descA < vl then some 1 else none
    | 0xE1 => if walkElems q.descD < vl then some 1 else none
    | 0xE3 | 0xE4 => if (128 - vecRow q) * 256 < vl then some 1 else none
    | _ => none

/-- SETVL entries behind the instructions whose passes are over have been reached, and take effect; they leave the queue in
their turn. -/
def Core.reachVector (x : Core) : Core :=
  let waiting := x.qVector.dropWhile QEntry.passesOver
  let r := reachSetvl x.vec waiting
  let ids := (waiting.take (waiting.length - r.1.length)).map (·.id)
  { x with vec := r.2, qVector := x.qVector.map fun q => if ids.contains q.id then { q with finished := true } else q }

/-- The entry that the vector engine starts next, or works on. -/
def Core.vectorNext (x : Core) : Option QEntry :=
  match x.qVector.find? fun q => !q.passesOver with
  | none => none
  | some q => if q.op = 0xFD then none else some q

/-- A vector instruction starts: with the vl in force, unless that vl or a VRED's target faults it. -/
def startVector (c : CoreId) (q0 : QEntry) (s : State) : State :=
  let v := (s.ev9.core c).vec
  let q := { q0 with vl := v.vl, active := true }
  let q := { q with passes := passCount c v q }
  match startFault q with
  | some r => vectorFault c q r 0 s
  | none =>
    let w := vecWalker c q
    if q.op.toNat = 0xE2 ∧ inOwnScratch c w.start = false then boundsFault c .reach w.from_ w.start s
    else
      onCore c (fun x => { x.onEntry q.id (fun _ => q) with
        vec := { x.vec with usesHalf := x.vec.usesHalf ++ (vecHalf q).toList } }) s

/-- The partition is held by a bounds fault of core `c`, so that another fault of the same beat can still be reported (R156,
R253). -/
def Ev9.boundsHeld (e : Ev9) (c : Nat) : Bool :=
  e.up && (e.part (partOf c)).runs && (e.part (partOf c)).curl.held && (e.core c).bounds && !e.retired c

/-- The array makes no use of the half that the instruction names (R229, R251). -/
def Core.halfAllows (x : Core) (q : QEntry) : Bool :=
  match vecHalf q with
  | some h => (x.half h).phase == .idle
  | none => true

/-- VECTOR_INSN_START (R224, R248, R249, R251, R253): the next instruction starts; a VRDACC or VWRACC waits for the array to leave its
half. A BALLAST starts here too. In the beat of a bounds fault that has come first, only a VECTOR_FAULT at the start shows. -/
def execVectorInsnStart (c : CoreId) (s : State) : Host.Outcome State Fault Refusal :=
  let x := (s.ev9.core c).reachVector
  match x.vectorNext with
  | none => if s.ev9.coreLive c then .next (onCore c Core.reachVector s) else stay s
  | some q =>
    if q.active || !x.halfAllows q then stay s
    else if s.ev9.coreLive c then
      .next (if q.op.toNat = 0xFC then startBallast c q (onCore c Core.reachVector s)
        else startVector c q (onCore c Core.reachVector s))
    else if s.ev9.boundsHeld c && q.op != 0xFC && !(s.ev9.core c).vec.flags.getLsbD 4 then
      let r := startVector c q (onCore c Core.reachVector s)
      if (r.ev9.core c).vec.flags.getLsbD 4 then .next r else stay s
    else stay s

/-! ## Passes (R225–R247) -/

/-- The elements below vl of pass `n`. -/
def passElems (q : QEntry) (n : Nat) : List Nat :=
  (upFrom (n * passWidth q) (passWidth q)).filter fun e => decide (e < q.vl.toNat)

/-- What a pass computes for one element. -/
structure PassElem where
  e : Nat
  active : Bool
  result : ElemResult
  bad : Bool
  deriving DecidableEq, Repr

/-- The results go to register D: active elements, and zeros in inactive ones under MZ (R228). What depends on a poisoned mask bit
carries its poison (R101). -/
def writePass (q : QEntry) (l : List PassElem) (v : Vec) : Vec :=
  let w16 := fmtWide16 q.w.fmt.toNat
  let r := q.w.d.toNat
  let hit := v.maskTaints q
  l.foldl (fun v x =>
    if x.active then v.setElem w16 r x.e x.result.bits (x.bad || hit x.e)
    else if vZero q.w then v.setElem w16 r x.e 0 (hit x.e)
    else if hit x.e then v.taint w16 r x.e else v) v

/-- A mask bit that an instruction computes. -/
structure MaskElem where
  e : Nat
  active : Bool
  bit : Bool
  bad : Bool
  deriving DecidableEq, Repr

/-- The bits go to mask D (R228), with the poison of what they depend on (R101). -/
def writeMaskPass (q : QEntry) (l : List MaskElem) (v : Vec) : Vec :=
  let r := q.w.d.toNat
  let hit := v.maskTaints q
  l.foldl (fun v x =>
    if x.active then v.setMask r x.e x.bit (x.bad || hit x.e)
    else if vZero q.w then v.setMask r x.e false (hit x.e)
    else if hit x.e then v.setMask r x.e (v.mask r x.e) true else v) v

/-- The sticky flags of a pass, and the first active element whose flag is enabled as a trap (R232, R249, R253). -/
def passFlags (l : List PassElem) : EFlags :=
  l.foldl (fun f x => if x.active then f.or x.result.flags else f) {}
def passTrap (ctrl : BitVec 4) (l : List PassElem) : Option (Nat × Nat) :=
  l.findSome? fun x => if x.active then (x.result.flags.trap ctrl).map fun r => (r, x.e) else none

/-- Flags of a pass become sticky, and an enabled one faults the instruction; else `body` writes the results. -/
def withFlags (c : CoreId) (q : QEntry) (l : List PassElem) (body : State → State) (s : State) : State :=
  let f := passFlags l
  let s := onCore c (fun x => { x with vec := { x.vec with flags := x.vec.flags ||| f.bits.setWidth 5 } })
    (noteFlags c (f.bits.setWidth 5) s)
  match passTrap (s.ev9.core c).vec.ctrl l with
  | some (r, e) => vectorFault c q r e s
  | none => body s

/-- The vector state of a core changed by `f`. -/
def onVec (c : CoreId) (f : Vec → Vec) (s : State) : State := onCore c (fun x => { x with vec := f x.vec }) s

/-- A pass of a register instruction. -/
def regPass (c : CoreId) (q : QEntry) (n : Nat) (s : State) : State :=
  let v := (s.ev9.core c).vec
  let l := (passElems q n).map fun e =>
    (⟨e, v.active q e, elemResult v q (elemRnd v.seedRun s.fresh c q e) e, elemTainted v q e⟩ : PassElem)
  withFlags c q l (onVec c (writePass q l)) s

/-- A pass of VCMP or VMLOG. -/
def maskPass (c : CoreId) (q : QEntry) (es : List Nat) (f bad : Vec → QEntry → Nat → Bool) (s : State) : State :=
  onVec c (fun v => writeMaskPass q (es.map fun e => ⟨e, v.active q e, f v q e, bad v q e⟩) v) s

/-- The last pass of a VREDUCE: the value is computed and written to every active element; the earlier passes read only (R243,
R256). -/
def reducePass (c : CoreId) (q : QEntry) (n : Nat) (s : State) : State :=
  if n + 1 < q.passes then s
  else
    let v := (s.ev9.core c).vec
    let w16 := fmtWide16 q.w.fmt.toNat
    let all := (List.range q.vl.toNat)
    let r := reduceResult v q (elemRnd v.seedRun s.fresh c q 0)
    let bad := all.any fun e => v.maskTaints q e || (v.active q e && v.elemPoison w16 q.w.a.toNat e)
    let l := all.map fun e => (⟨e, v.active q e, r, bad⟩ : PassElem)
    withFlags c q l (onVec c (writePass q l)) s

/-- A pass of VLD (R237, R245). -/
def loadPass (c : CoreId) (q : QEntry) (n : Nat) (s : State) : State :=
  let v := (s.ev9.core c).vec
  let w := vecWalker c q
  let es := (passElems q n).filter (v.active q)
  let places := es.filterMap fun e => placeElem w (descCount0 w.desc) e
  let lines := linesOf (places.flatMap (elemAddrs w.desc))
  match w.readFault s.ev9 lines with
  | some (r, a) => boundsFault c r w.from_ a s
  | none =>
    let s := countAccesses (partOf c) false lines s
    let l := (passElems q n).map fun e =>
      match placeElem w (descCount0 w.desc) e with
      | none => (⟨e, false, ⟨0, {}⟩, false⟩ : PassElem)
      | some p => ⟨e, v.active q e, loadResult s.ev9 w.desc q.w.fmt.toNat (elemRnd v.seedRun s.fresh c q e) p,
          (elemAddrs w.desc p).any fun a => s.ev9.poisoned (wordOf a)⟩
    withFlags c q l (onVec c (writePass q l)) s

/-- A store of bytes within one 16-byte unit. -/
structure ByteWrite where
  addr : Nat
  bytes : List Byte
  bad : Bool
  deriving DecidableEq, Repr

/-- Bytes cut at 16-byte units. -/
def splitUnits (a : Nat) (l : List Byte) (bad : Bool) : List ByteWrite :=
  if l.isEmpty then []
  else (List.range ((a + l.length - 1) / 16 + 1 - a / 16)).map fun k =>
    let lo := max a (16 * (a / 16 + k))
    let hi := min (a + l.length) (16 * (a / 16 + k) + 16)
    ⟨lo, slice l (lo - a) (hi - lo), bad⟩

/-- An FP or INT32 element as VST converts it into a plain format. -/
def storeElem (src dst : Nat) (mode : Rnd) (x : Nat) : ElemResult :=
  if dst = 9 then ⟨x, {}⟩ else ((regFmt dst).round mode (elemValue src x)).result false

/-- The 16-byte units of a plain VST that hold an active element: the bytes that active elements and, under MZ, inactive ones
write; the rest of the unit is merged from the destination, with its poison (R228). -/
def plainUnits (e : Ev9) (v : Vec) (w : Walker) (q : QEntry) (res : Nat → ElemResult) (es : List Nat) : List ByteWrite :=
  let d := w.desc
  let n := descCount0 d
  let sz := plainBytes (descFormat d)
  let w16 := fmtWide16 q.w.fmt.toNat
  let at_ (x : Nat) : Option Nat := (placeElem w n x).map fun p => p.row + sz * p.col
  let units := (es.filter (v.active q)).foldl (fun acc x => match at_ x with
    | some a => sadd acc (a / 16)
    | none => acc) []
  units.map fun u =>
    let mine := es.filter fun x => (at_ x).any fun a => a / 16 == u
    let put := mine.filter fun x => v.active q x || vZero q.w
    let bytes := put.foldl (fun b x => match at_ x with
      | some a =>
        let y := if v.active q x then (res x).bits else 0
        let i := a % 16
        b.take i ++ leBytes sz y ++ b.drop (i + sz)
      | none => b) (e.loads (16 * u) 16)
    let bad := (put.any fun x => v.active q x && v.elemPoison w16 q.w.a.toNat x) || mine.any (v.maskTaints q)
      || (decide (put.length * sz < 16) && e.poisoned u)
    ⟨16 * u, bytes, bad⟩

/-- An MX block that VST writes: its place, its scale, its 32 elements and their poison (R238, R239). -/
structure MxBlock where
  place : ElemPlace
  scale : Byte
  elems : List (Nat × ElemResult)
  bad : Bool
  deriving DecidableEq, Repr

/-- The block from element `b` on: inactive and tail elements are +0. -/
def mxBlock (v : Vec) (d : BitVec 256) (q : QEntry) (rnd : Nat → Rnd) (b : Nat) (p : ElemPlace) : MxBlock :=
  let fmt := descFormat d
  let src := q.w.fmt.toNat
  let w16 := fmtWide16 src
  let value (x : Nat) : FV := elemValue src (v.elem w16 q.w.a.toNat x)
  let xs := (upFrom b 32).filter (v.active q)
  let s := blockScale fmt (q.w.w1.getLsbD 40) (xs.map value)
  ⟨p, s, (upFrom b 32).map fun x =>
    (x, if v.active q x then (mxElem fmt s (rnd x) (value x)).result false else ⟨0, {}⟩),
    (xs.any fun x => v.elemPoison w16 q.w.a.toNat x) || (upFrom b 32).any fun x => decide (x < q.vl.toNat) && v.maskTaints q x⟩

/-- The blocks of an MX VST that hold an active element (R238). -/
def mxBlocks (v : Vec) (w : Walker) (q : QEntry) (rnd : Nat → Rnd) (es : List Nat) : List MxBlock :=
  let firsts := (es.filter (v.active q)).foldl (fun acc x => sadd acc (x / 32 * 32)) []
  firsts.filterMap fun b => (placeElem w (descCount0 w.desc) b).map fun p => mxBlock v w.desc q rnd b p

/-- The byte writes of an MX block: its scale and its packed elements. -/
def MxBlock.writes (d : BitVec 256) (b : MxBlock) : List ByteWrite :=
  let fmt := descFormat d
  let n := mxBlockBytes fmt
  let body := b.place.row + pad16 (descCount0 d / 32) + b.place.col / 32 * n
  ⟨b.place.row + b.place.col / 32, [b.scale], b.bad⟩
    :: splitUnits body (packElems (elemBits fmt) n (b.elems.map fun x => x.2.bits)) b.bad

/-- Byte writes by line, in order, as line writes that a checked line then makes one by one. -/
def storeBytes (l : List ByteWrite) (line : LineWrite) (s : State) : State :=
  (l.filter fun x => x.addr / 64 * 64 == line.addr).foldl (fun s x => onEv9 (Ev9.store x.addr x.bytes x.bad) s) s

/-- The lines of byte writes are checked and written. -/
def writeBytes (c : CoreId) (w : Walker) (l : List ByteWrite) (s : State) : State × Bool :=
  let lines := linesOf (l.map (·.addr))
  let s := countAccesses (partOf c) true lines s
  writeLines w (storeBytes l) (lines.map fun a => ⟨a, [], []⟩) s

/-- A pass of VST (R228, R236, R238–R240, R245). -/
def storePass (c : CoreId) (q : QEntry) (n : Nat) (s : State) : State :=
  let v := (s.ev9.core c).vec
  let w := vecWalker c q
  let es := passElems q n
  let rnd := elemRnd v.seedRun s.fresh c q
  if isMx (descFormat w.desc) then
    let bs := mxBlocks v w q rnd es
    let l := bs.flatMap fun b => b.elems.map fun x => (⟨x.1, v.active q x.1, x.2, b.bad⟩ : PassElem)
    withFlags c q l (fun s => (writeBytes c w (bs.flatMap (MxBlock.writes w.desc)) s).1) s
  else
    let res (e : Nat) : ElemResult :=
      storeElem q.w.fmt.toNat (descFormat w.desc) (rnd e) (v.elem (fmtWide16 q.w.fmt.toNat) q.w.a.toNat e)
    let l := es.map fun e => (⟨e, v.active q e, res e, false⟩ : PassElem)
    withFlags c q l (fun s => (writeBytes c w (plainUnits s.ev9 v w q res es) s).1) s

/-- The active elements of a VRED with their addresses. -/
def vredElems (c : CoreId) (v : Vec) (q : QEntry) : List (Nat × Nat) :=
  (v.activeElems q).filterMap fun e =>
    (placeElem (vecWalker c q) (vredRow q) e).map fun p => (e, p.row + atomicBytes q.w.fmt.toNat * p.col)

/-- The one atomic of a VRED on a line: its active elements there, as an access that takes its turn (R106, R108, R246). -/
def vredLine (c : CoreId) (q : QEntry) (line : Nat) (s : State) : State :=
  let fmt := q.w.fmt.toNat
  let w16 := fmtWide16 fmt
  let v := (s.ev9.core c).vec
  let mine := (vredElems c v q).filter fun x => x.2 / 64 * 64 == line
  match placeOf line with
  | .scratch k _ =>
    arriveScr ⟨k, s.ev9.stampBeat k, c, 1, .atomic fmt (vFn q.w) none, mine.map fun x =>
      ⟨x.2, leBytes (atomicBytes fmt) (v.elem w16 q.w.a.toNat x.1),
        v.elemPoison w16 q.w.a.toNat x.1 || v.maskTaints q x.1⟩⟩ s
  | _ => s

/-- A pass of VRED makes the atomic of one line, as long as there are lines (R246, R248); a line outside the partition's scratch is a
bounds fault with reason 2. -/
def vredPass (c : CoreId) (q : QEntry) (n : Nat) (s : State) : State :=
  match (activeLines c (s.ev9.core c).vec q)[n]? with
  | none => s
  | some a =>
    let w := vecWalker c q
    match w.checkAtomic s.ev9 a with
    | .bounds r => boundsFault c r w.from_ a s
    | .sealed => sealViolation c w.from_ a s
    | .pass => vredLine c q a (countAccesses (partOf c) true [a] s)

/-- The accumulator cell of element `e`: row-major from the named row, column 0 (R247). -/
def accCell (q : QEntry) (e : Nat) : Nat := 257 * (vecRow q + e / 256) + e % 256

/-- A cell carries poison (R101). -/
def AccHalf.cellPoison (h : AccHalf) (n : Nat) : Bool := h.poisonAt (n / 257) (n % 257)

/-- A pass of VRDACC (R247). -/
def accReadPass (c : CoreId) (h : Half2) (q : QEntry) (n : Nat) (s : State) : State :=
  let a := (s.ev9.core c).half h
  let v := (s.ev9.core c).vec
  let l := (passElems q n).map fun e =>
    (⟨e, v.active q e, ⟨(tget 0 a.cells (accCell q e)).toNat, {}⟩, a.cellPoison (accCell q e)⟩ : PassElem)
  onVec c (writePass q l) s

/-- Poison of whole rows and columns as poison of cells, so that single cells can lose it. -/
def AccHalf.spreadPoison (h : AccHalf) : AccHalf :=
  if h.poisonRows.isEmpty && h.poisonCols.isEmpty then h
  else
    { h with poisonRows := [], poisonCols := [],
             poisonCells := ((List.range (129 * 257)).filter fun n => h.cellPoison n) }

/-- A pass of VWRACC (R171, R247): the cells are written and the half's checksums are invalid. -/
def accWritePass (c : CoreId) (h : Half2) (q : QEntry) (n : Nat) (s : State) : State :=
  let v := (s.ev9.core c).vec
  let es := (passElems q n).filter (v.active q)
  if q.vl = 0 then s
  else
    onCore c (Core.onHalf h fun a =>
      es.foldl (fun a e =>
        let bad := v.elemPoison false q.w.a.toNat e
        { a with
          cells := tput 0 a.cells (accCell q e) (BitVec.ofNat 32 (v.elem false q.w.a.toNat e))
          poisonCells := if bad then sadd a.poisonCells (accCell q e) else sdel a.poisonCells (accCell q e) })
        { a.spreadPoison with invalid := true, touched := true }) s

/-- What pass `n` of an instruction does. -/
def passBody (c : CoreId) (q : QEntry) (n : Nat) (s : State) : State :=
  if q.vl = 0 then s
  else
    match q.op.toNat with
    | 0xE0 => loadPass c q n s
    | 0xE1 => storePass c q n s
    | 0xE2 => vredPass c q n s
    | 0xE3 => match vecHalf q with
      | some h => accReadPass c h q n s
      | none => s
    | 0xE4 => match vecHalf q with
      | some h => accWritePass c h q n s
      | none => s
    | 0xF3 => reducePass c q n s
    | 0xF4 => maskPass c q (passElems q n) compareElem elemTainted s
    | 0xF5 => maskPass c q (List.range q.vl.toNat) maskElem maskOpTainted s
    | _ => regPass c q n s

/-- The activity class of a vector pass (R371): VFN, 16-bit and 32-bit formats. -/
def passClass (q : QEntry) : Nat :=
  if q.op = 0xEF then 6 else if fmtWide16 q.w.fmt.toNat then 5 else 4

/-- Pass `q.done` of the running instruction. -/
def makePass (c : CoreId) (q : QEntry) (s : State) : State :=
  let s := onCore c (fun x => { x.onEntry q.id fun e => { e with done := q.done + 1 } with
    vec := { x.vec with passes := satAdd x.vec.passes 1 } }) s
  let r := passBody c q q.done (activity (partOf c) (passClass q) 15 s)
  if vRnd q.w = 3 then drawn r else r

/-- VECTOR_PASS (R225–R247, R253): the running instruction makes its next pass. In the beat of a bounds fault that has come first,
only a VECTOR_FAULT of the pass shows. -/
def execVectorPass (c : CoreId) (s : State) : Host.Outcome State Fault Refusal :=
  match (s.ev9.core c).vectorNext with
  | none => stay s
  | some q =>
    if !q.active || q.op == 0xFC then stay s
    else if s.ev9.coreLive c then .next (makePass c q s)
    else if s.ev9.boundsHeld c && !(s.ev9.core c).vec.flags.getLsbD 4 then
      let r := makePass c q s
      if (r.ev9.core c).vec.flags.getLsbD 4 then .next r else stay s
    else stay s

/-- VECTOR_INSN_COMPLETE (R134, R248, R251): the oldest instruction whose passes are over has written its last result; it signals
if it is to, frees its half and leaves the queue. -/
def execVectorInsnComplete (c : CoreId) (s : State) : Host.Outcome State Fault Refusal :=
  match (s.ev9.core c).qVector.find? fun q => !q.finished with
  | none => stay s
  | some q =>
    if s.ev9.coreLive c && q.active && q.op != 0xFC && decide (q.passes ≤ q.done) then
      let s := match vecHalf q with
        | some h => onVec c (fun v => { v with usesHalf := v.usesHalf.erase h }) s
        | none => s
      .next (completeEntry c q.id s)
    else stay s

end Sys2Proof.Machine
end

