-- ==== Sys2Proof/Machine/Access.lean ====
section
/-! DEFINITION. Access.lean: one line access of an engine (R147), timers (R139, R153), WAITLOCK and WAITSTALL (R143–R145). -/

namespace Sys2Proof

/-- The access is a write. -/
def LineKind.isWrite : LineKind → Bool
  | .read => false
  | .write _ _ => true

/-- The mask removes the access entirely (R149). -/
def LineKind.removed : LineKind → Bool
  | .read => false
  | .write _ m => m == 0

end Sys2Proof

namespace Sys2Proof.Machine

open Sys2Proof

/-! ## One line access (R98–R103, R147, R148) -/

/-- The walker whose limit holds the line, else the first. -/
def pickWalker (line : Nat) (l : List Walker) : Option Walker :=
  match l.find? fun w => decide (w.start ≤ line) && decide (line < w.start + 64 * descLimit w.desc) with
  | some w => some w
  | none => l.head?

/-- The walkers of the matrix array's running instruction through a handle: every iteration of its tile, or its drain. -/
def matrixWalkers (c : Nat) (x : Core) (r : HandleRole) : List Walker :=
  let runs := (x.halfA.run.toList ++ x.halfB.run.toList)
  runs.flatMap fun run =>
    match r with
    | .A => (tileIters run.entry run.tile).map (walkerA c run.entry)
    | .B => (tileIters run.entry run.tile).map (walkerB c run.entry)
    | .D => [⟨c, .matrix, run.handleD.toNat, run.entry.w.loop.toNat, run.descD, run.offD.toInt⟩]

/-- The walker of the vector engine's running instruction through a handle. -/
def vectorWalkers (c : Nat) (x : Core) (r : HandleRole) : List Walker :=
  match x.vectorNext with
  | none => []
  | some q =>
    match q.op.toNat, r with
    | 0xE0, .A | 0xE1, .D | 0xE2, .D => if q.active then [vecWalker c q] else []
    | _, _ => []

/-- The walker of the mover's present iterations through a handle. -/
def moverWalkers (c : Nat) (x : Core) (r : HandleRole) : List Walker :=
  match r with
  | .A => match x.moverNext with
    | some q => if q.op = 0xFC ∨ q.op = 0xD3 then [] else [moverSource c q (x.begun q)]
    | none => []
  | .D => (x.bufs.filter fun b => b.entry.op != 0xD2).map fun b => moverTarget c b.entry b.iter
  | .B => []

/-- The walker that an access of an engine belongs to. -/
def accessWalker (c : Nat) (x : Core) (e : Engine) (r : HandleRole) (line : Nat) : Option Walker :=
  pickWalker line (match e with
    | .matrix => matrixWalkers c x r
    | .vector => vectorWalkers c x r
    | .mover => moverWalkers c x r)

/-- The access is one of a reduction: MV.RED or VRED through D. -/
def reduction? (x : Core) (e : Engine) : Option (Nat × AtomicOp) :=
  match e with
  | .matrix => none
  | .vector => match x.vectorNext with
    | some q => if q.op = 0xE2 then some (q.w.fmt.toNat, atomicOp (vFn q.w)) else none
    | none => none
  | .mover => match x.bufs.head? with
    | some b => if b.entry.op = 0xD1 then some (b.entry.w.fmt.toNat, atomicOp (dbits (b.entry.w.mods.setWidth 64) 2 1)) else none
    | none => none

/-- The 16-byte units of a line that a mask selects, as writes. -/
def maskedUnits (line : Nat) (data : List Byte) (mask : BitVec 4) : List LineWrite :=
  ((List.range 4).filter fun i => mask.getLsbD i).map fun i =>
    ⟨line + 16 * i, slice (padTo 64 data) (16 * i) 16, [false]⟩

/-- The selected units of a line are written. -/
def writeUnits (c : Nat) (l : List LineWrite) (s : State) : State := l.foldl (fun s u => storeAt c u s) s

/-- The place of an engine among the accesses of its core (R252). -/
def engineUnit : Engine → Nat
  | .matrix | .mover => 2
  | .vector => 1

/-- A tier access waits while its bank refreshes; the core, channel and bank of such an access (R81, R93, R112). -/
def Ev9.refreshing (e : Ev9) (a : Nat) : Option (CoreId × Fin 4) :=
  match placeOf a with
  | .tier k off =>
    if (tget {} e.banks (64 * k + 16 * (off / 64 % 4) + off / 256 % 16)).busy then
      some (Fin.ofNat 64 k, Fin.ofNat 4 (off / 64))
    else none
  | _ => none

/-- The access that a refresh delays is a scheduled read that is absent at its beat, with cause refresh: it raises a curl request
unless one for its channel stands already (R58, R93, R97, R113). -/
def waitRefresh (p : Nat) (x : CoreId × Fin 4) (s : State) : State :=
  if (s.ev9.part p).curl.absent.any fun a => a.item == .read x.1 x.2 then s else raiseRequest p (.read x.1 x.2) s

/-- An access that passes its checks is made: a read corrects or poisons what the SEC-DED code finds (R98–R100). A write or a reduction
in scratch takes its turn among the accesses of its beat (R108). -/
def makeAccess (c : CoreId) (e : Engine) (line : Nat) (kind : LineKind) (ecc : EccFinding) (s : State) : State :=
  match kind with
  | .read => applyEcc line 0 ecc (countAccesses (partOf c) false [line] s)
  | .write data mask =>
    let s := countAccesses (partOf c) true [line] s
    let us := maskedUnits line data mask
    match placeOf line, reduction? (s.ev9.core c) e with
    | .scratch k _, some (fmt, op) =>
      arriveScr ⟨k, s.ev9.stampBeat k, c, engineUnit e, .atomic fmt op.code none, us.map fun u => ⟨u.addr, u.bytes, false⟩⟩ s
    | .scratch k _, none =>
      arriveScr ⟨k, s.ev9.stampBeat k, c, engineUnit e, .write, us.map fun u => ⟨u.addr, u.bytes, false⟩⟩ s
    | _, _ => writeUnits c us s

/-- ASU_LINE_ACCESS (R93, R113, R147–R149): an access of the engine's running instruction through a handle is checked for limit, reach and
seal, and waits while its bank refreshes. An access that the mask removes entirely is not checked. -/
def execAsuLineAccess (c : CoreId) (e : Engine) (r : HandleRole) (line : Addr) (kind : LineKind) (ecc : EccFinding) (s : State) :
    Host.Outcome State Fault Refusal :=
  let a := line.toNat / 64 * 64
  match accessWalker c (s.ev9.core c) e r a with
  | none => stay s
  | some w =>
    if !s.ev9.coreLive c || kind.removed then stay s
    else
      match w.check s.ev9 kind.isWrite a with
      | .bounds x => .next (boundsFault c x w.from_ a s)
      | .sealed => .next (sealViolation c w.from_ a s)
      | .pass => match s.ev9.refreshing a with
        | some x => .next (waitRefresh (partOf c) x s)
        | none => .next (makeAccess c e a kind ecc s)

/-! ## Timers (R139, R153) -/

/-- TIMER_EXPIRY (R139): an armed timer whose beats have passed adds 1 to its counter and is no longer armed. -/
def execTimerExpiry (c : CoreId) (i : Fin 8) (s : State) : Host.Outcome State Fault Refusal :=
  let t := tget {} (s.ev9.core c).timers i.val
  if s.ev9.coreLive c && t.armed && t.beats == 0 then
    .next (signalCore c t.ac.toNat 1 false (onCore c (fun x => { x with timers := tdel x.timers i.val }) s))
  else stay s

/-! ## WAITLOCK and WAITSTALL (R143–R145, R156) -/

/-- The thread waits, or waited when a bounds fault of this beat stopped it (R156). A thread in a WAIT has n above 0. -/
def ThreadRegs.inWait (r : ThreadRegs) : Bool :=
  r.state == .waiting || (r.state == .faulted && r.waitN != 0)

/-- The thread is active, or was when a bounds fault of this beat stopped it. -/
def ThreadRegs.wasActive (r : ThreadRegs) : Bool := r.state == .running || r.state == .waiting || r.state == .faulted

/-- The threads of a core whose registers satisfy `f`, as a mask. -/
def Core.threadMask (x : Core) (f : ThreadRegs → Bool) : Nat :=
  (List.range 4).foldl (fun n t => n + 2 ^ t * bit (f (x.thread t).regs)) 0

/-- Detail words 0 and 1 of R145. -/
def waitDetail (x : Core) : Nat × Nat :=
  (x.threadMask ThreadRegs.inWait + 16 * x.threadMask ThreadRegs.wasActive,
    (List.range 4).foldl (fun n t =>
      let r := (x.thread t).regs
      n + 2 ^ (6 * t) * (if r.inWait then r.waitAc.toNat + 32 else 0)) 0)

/-- What WAITLOCK and WAITSTALL do: the record, the held state, and pending commands complete with WAITLOCK (R145). After a bounds
fault of the same beat the partition is held already, and pending commands have completed (R156). -/
def raiseWait (c : CoreId) (cause : Nat) (s : State) : State :=
  let p := partOf c
  let d := waitDetail (s.ev9.core c)
  let s := faultRecord { source := 0, part := some p, core := c, held := true, cause := cause, d0 := d.1, d1 := d.2 } s
  if (s.ev9.part p).curl.held then s
  else finishNamed (BitVec.ofNat 8 (2 ^ p)) stWaitlock (enterHeld p s)

/-- The waitlock condition as it stood when a bounds fault of this beat stopped the threads (R156). -/
def Ev9.lockCondHeld (e : Ev9) (c : Nat) : Bool :=
  let x := e.core c
  let act := (List.range 4).filter fun t => (x.thread t).regs.wasActive
  !act.isEmpty && act.all fun t => (x.thread t).regs.inWait && !e.declared c (x.thread t).regs.waitAc.toNat

/-- WAITLOCK (R143, R145, R156): the condition has held for 8 schedule beats. -/
def execWaitlock (c : CoreId) (s : State) : Host.Outcome State Fault Refusal :=
  let x := s.ev9.core c
  if decide (8 ≤ x.lockBeats) && ((s.ev9.coreLive c && s.ev9.lockCond c)
      || (s.ev9.boundsHeld c && !x.waitlock && s.ev9.lockCondHeld c)) then
    .next (raiseWait c 0x0300 (onCore c (fun x => { x with waitlock := true }) (noteSet (offCoreStatus c) 1 x.waitlock s)))
  else stay s

/-- The beats after which a WAIT stalls out: CORE_WAIT_LIMIT_c, a value below 256 acting as 256 (R144, R150). -/
def Core.stallBeats (x : Core) : Nat := max 256 x.waitLimit.toNat

/-- WAITSTALL (R144, R145, R156): the thread's WAIT has lasted CORE_WAIT_LIMIT_c beats. -/
def execWaitstall (c : CoreId) (t : ThreadId) (s : State) : Host.Outcome State Fault Refusal :=
  let r := s.regs c t
  let x := s.ev9.core c
  if decide (x.stallBeats ≤ (x.thread t).waitBeats.toNat) && ((s.ev9.coreLive c && r.state == .waiting)
      || (s.ev9.boundsHeld c && !x.waitstall && r.inWait)) then
    .next (raiseWait c 0x0301 (onCore c (fun x => { x with waitstall := true }) (noteSet (offCoreStatus c) 2 x.waitstall s)))
  else stay s

end Sys2Proof.Machine
end

