-- ==== Sys2Proof/Machine/Sessions.lean ====
section
/-! DEFINITION. Sessions.lean: how sessions and unlocks end (R439–R443, R511–R514), the peek selections (R507–R515, R529, R530) and the
test access ports (R503–R506, R532). -/

namespace Sys2Proof

/-- The causes of R443, as detail word 0 of a session end (log 31). -/
inductive EndCause where
  | drop | timeout | reset | ringDisabled
  deriving DecidableEq, Repr

/-- The cause as a number. -/
def EndCause.code : EndCause → Nat
  | .drop => 1
  | .timeout => 2
  | .reset => 3
  | .ringDisabled => 4

end Sys2Proof

namespace Sys2Proof.Machine

open Sys2Proof

/-- The debug registers changed by `f`. -/
def onDbg (f : Debug → Debug) (s : State) : State := onEv9 (fun e => { e with dbg := f e.dbg }) s

/-! ## Selections (R512–R514) -/

/-- Selection `n` of the EV9. -/
def Debug.peek (d : Debug) (n : Nat) : PeekSel := tget {} d.sel n

/-- A selection that the EV9 clears: disabled, with one audit entry of detail 0 (R514). -/
def clearSelection (n : Nat) (s : State) : State :=
  auditEv9 { carrier := 2, kind := 5, what := 8 * n }
    (onDbg (fun d => { d with sel := tmod {} d.sel n fun x => { x with enable := false } }) s)

/-- The selections of a carrier that `which` picks are disabled. -/
def clearSelections (carrier : Nat) (which : PeekSel → Bool) (s : State) : State :=
  (List.range 8).foldl (fun s n =>
    let x := s.ev9.dbg.peek n
    if x.enable && x.carrier.toNat == carrier && which x then clearSelection n s else s) s

/-- The unlock of an EV9 session: 0 none, 1 public, 2 full. -/
def Ev9.unlock (e : Ev9) (carrier : Nat) : Nat := if carrier = 0 then e.dbg.unlockPf.toNat else e.dbg.unlockSmb.toNat

/-- The unlock of an EV9 carrier becomes `n`, and selections outside it are disabled (R514). -/
def setUnlock (carrier n : Nat) (s : State) : State :=
  let s := onDbg (fun d => if carrier = 0 then { d with unlockPf := BitVec.ofNat 2 n } else { d with unlockSmb := BitVec.ofNat 2 n }) s
  match n with
  | 0 => clearSelections carrier (fun _ => true) s
  | 1 => clearSelections carrier (fun x => decide (256 ≤ x.index.toNat)) s
  | _ => s

/-- The unlock of a session ends. -/
def endUnlock (i : SessionId) (s : State) : State :=
  match i with
  | .pf => if s.ev9.unlock 0 = 0 then s else setUnlock 0 0 s
  | .smb0 => if s.ev9.unlock 1 = 0 then s else setUnlock 1 0 s
  | .nwHost => onNw8 (fun w => { w with unlockHost := 0 }) s
  | .nwRack => onNw8 (fun w => { w with unlockRack := 0 }) s

/-- The parts of a firmware image that a session has sent are discarded with it (R444). -/
def dropUpload (i : SessionId) (u : FwUpload) : FwUpload := 
  if u.active && u.owner == i then { u with active := false, length := 0, bytes := [] } else u

/-- A session falls back to operator role (R443): its end is recorded with its cause, and its unlock ends with it (R511). -/
def endSession (i : SessionId) (k : EndCause) (s : State) : State :=
  let r := (s.session i).role
  if r = .operator then s
  else
    let s := auditBy i { carrier := 0, kind := 3, role := r, detail := k.code } (onSession i (fun x => { x with role := .operator }) s)
    endUnlock i (match sessChip i with
      | .ev9 => onEv9 (Ev9.onSvc fun v => { v with fw := dropUpload i v.fw }) s
      | .nw8 => onNw8 (fun w => { w with fw := dropUpload i w.fw }) s)

/-- SESSION_TIMEOUT (R443, R462): 15 minutes without a command or register access. -/
def execSessionTimeout (sid : SessionId) (s : State) : Host.Outcome State Fault Refusal :=
  if (s.session sid).role != .operator && s.since (sessChip sid) (s.session sid).lastMs 900000 then .next (endSession sid .timeout s)
  else stay s

/-- LOCKOUT_END (R442): ten minutes after the fourth failed attempt. -/
def execLockoutEnd (sid : SessionId) (s : State) : Host.Outcome State Fault Refusal :=
  let x := s.session sid
  if x.locked && s.since (sessChip sid) (x.fails.getLastD 0) 600000 then
    .next (onSession sid (fun x => { x with locked := false, fails := [] }) s)
  else stay s

/-- NONCE_EXPIRY (R441): 60 s after ROLE_CHALLENGE. -/
def execNonceExpiry (sid : SessionId) (s : State) : Host.Outcome State Fault Refusal :=
  let x := s.session sid
  if x.nonce.isSome && s.since (sessChip sid) x.nonceMs 60000 then .next (onSession sid (fun x => { x with nonce := none }) s)
  else stay s

/-! ## Selection writes (R512, R513, R515, R529, R530) -/

/-- The index lies in an unlocked set. -/
def inSet (unlock index : Nat) : Bool := match unlock with
  | 0 => false
  | 1 => decide (index < 256)
  | _ => true

/-- A selection of carrier 0 or 1 for pin `n`: set and audited, or ignored as a denied attempt (R512). -/
def selectPeek (carrier n index : Nat) (enable : Bool) (value : Nat) (s : State) : State :=
  let role := (s.session (if carrier = 0 then .pf else .smb0)).role
  if inSet (s.ev9.unlock carrier) index then
    auditEv9 { carrier := carrier, kind := 5, role := role, what := 8 * n, detail := value }
      (onDbg (fun d => { d with
        sel := tput {} d.sel n { index := BitVec.ofNat 12 index, enable := enable, carrier := BitVec.ofNat 2 carrier }
        changes := satAdd d.changes 1 }) s)
  else auditEv9 { carrier := carrier, kind := 4, role := role, status := stNotPermitted, what := 8 * n, detail := value } s

/-- A write of DBG_OBS_SEL_n; only the physical function's path selects (R512). -/
def writeObsSel (path : RegPath) (n : Nat) (v : Dword) (s : State) : State :=
  match path with
  | .pf => selectPeek 0 n (field v 11 0) (v.getLsbD 15) v.toNat s
  | _ => auditReg path 4 (0x3000000 + 8 * n) v.toNat stNotPermitted s

/-- DBG_OBS_SEL_WRITE (R512, R529, R530). -/
def execDbgObsSelWrite (path : RegPath) (n : Fin 8) (value : Dword) (s : State) : Host.Outcome State Fault Refusal :=
  pathWrite path path.isEv9 (writeObsSel path n value) s

/-- A write of HOLD_PEEK_n: installer role, and FACTORY_N fitted for indices 32–63 (R515). -/
def writeHoldPeek (path : RegPath) (n : Nat) (v : Dword) (s : State) : State :=
  let ok := Role.installer.atLeast (s.pathRole path) && (decide (field v 5 0 < 32) || s.nw8.factoryLow)
  let x : BitVec 8 := BitVec.ofNat 8 (field v 5 0 + 128 * bit (v.getLsbD 7))
  if ok then
    auditReg path 5 (0x20 + 4 * n) v.toNat 0 (onNw8 (fun w =>
      { w with hold := if n = 0 then { w.hold with peek0 := x } else { w.hold with peek1 := x } }) s)
  else auditReg path 4 (0x20 + 4 * n) v.toNat stNotPermitted s

/-- HOLD_PEEK_WRITE (R515). -/
def execHoldPeekWrite (path : RegPath) (n : Fin 2) (value : Word) (s : State) : Host.Outcome State Fault Refusal :=
  pathWrite path path.isNw8 (writeHoldPeek path n (value.setWidth 64)) s

/-- A full-set unlock falls back when FACTORY_N goes high: to the public set while the session holds its role (R511). -/
def narrowUnlock (carrier : Nat) (i : SessionId) (s : State) : State :=
  if s.ev9.unlock carrier = 2 then setUnlock carrier (if (s.session i).role = .operator then 0 else 1) s else s

/-- FACTORY_N_CHANGE (R440, R511, R520). -/
def execFactoryNChange (chip : Chip) (high : Bool) (s : State) : Host.Outcome State Fault Refusal :=
  match chip with
  | .ev9 =>
    let s := onDbg (fun d => { d with factoryLow := !high }) s
    .next (if high then narrowUnlock 1 .smb0 (narrowUnlock 0 .pf s) else s)
  | .nw8 =>
    let narrow (u : BitVec 2) : BitVec 2 := if u = 2 then 1 else u
    .next (onNw8 (fun w => { w with
      factoryLow := !high
      unlockHost := if high then narrow w.unlockHost else w.unlockHost
      unlockRack := if high then narrow w.unlockRack else w.unlockRack }) s)

/-! ## Test access ports (R503–R506, R513, R532) -/

/-- The port of a chip changed by `f`. -/
def onTap (chip : Chip) (f : Tap → Tap) (s : State) : State :=
  match chip with
  | .ev9 => onDbg (fun d => { d with tap := f d.tap }) s
  | .nw8 => onNw8 (fun w => { w with tap := f w.tap }) s

/-- The port works: on the EV9, VDD_IO is present (R532). -/
def State.tapUp (s : State) : Chip → Bool
  | .ev9 => s.ev9.svc.rails.getLsbD 5 && s.ev9.svc.boot != .railFail
  | .nw8 => true

/-- The gate of R505. -/
def State.gate (s : State) : Chip → Bool
  | .ev9 => s.ev9.dbg.factoryLow && (List.range 8).all fun p => (s.ev9.part p).state == .off
  | .nw8 => s.nw8.factoryLow && (List.range 8).all fun n => (s.nw8.chan n).state == .off

/-- An instruction comes into force; TRST_N is high then. -/
def loadIr (chip : Chip) (code : Nat) (data : Option Boundary) (s : State) : State :=
  onTap chip (fun t => { t with held := false, ir := BitVec.ofNat 8 code, boundary := data.getD t.boundary }) s

/-- The EV9-only instructions select BYPASS on the NW8, as codes that it does not list (R504). -/
def ev9Only (chip : Chip) (code : Nat) : Nat := if chip = .nw8 then 0xFF else code

/-- The offset of DBG_STATUS (R527). -/
def offDbgStatus : Nat := 0x3000048

/-- A refused instruction loads BYPASS, sets the chip's flag and is recorded (R505). -/
def refuseGated (chip : Chip) (code : Nat) (s : State) : State :=
  let s := loadIr chip 0xFF none s
  match chip with
  | .ev9 => auditEv9 { carrier := 2, kind := 4, what := code } (onDbg (fun d => { d with jtagRefused := true })
      (noteSet offDbgStatus 0 s.ev9.dbg.jtagRefused s))
  | .nw8 => auditNw8 { carrier := 2, kind := 4, what := code } (onNw8 (fun w => { w with hold := { w.hold with jtagRefused := true } })
      (noteSet (offNw8 0) 2 s.nw8.hold.jtagRefused s))

/-- A gated instruction (R505). -/
def gatedInsn (chip : Chip) (code : Nat) (data : Option Boundary) (s : State) : Host.Outcome State Fault Refusal :=
  if !s.tapUp chip then stay s
  else if ev9Only chip code = 0xFF ∧ (code = 9 ∨ code = 10) then .next (loadIr chip 0xFF none s)
  else if s.gate chip then .next (loadIr chip code data s)
  else .next (refuseGated chip code s)

/-- An instruction without a gate. -/
def openInsn (chip : Chip) (code : Nat) (data : Option Boundary) (s : State) : Host.Outcome State Fault Refusal :=
  if s.tapUp chip then .next (loadIr chip code data s) else stay s

/-- A gated instruction is in force (R505, R527). -/
def Tap.gated (t : Tap) : Bool := [0x00, 0x04, 0x05, 0x09, 0x0A].contains t.ir.toNat

/-- A partition leaves OFF: a gated instruction in force gives way to BYPASS first (R505). -/
def releaseTap (s : State) : State := if s.ev9.dbg.tap.gated then onTap .ev9 (fun t => { t with ir := 0xFF }) s else s

/-- TAP_RESET (R503): Test-Logic-Reset, which selects IDCODE (log 9). -/
def execTapReset (chip : Chip) (s : State) : Host.Outcome State Fault Refusal :=
  .next (onTap chip (fun t => { t with held := true, ir := 0x01 }) s)

/-- EXTEST (R504, R505). -/
def execExtest (chip : Chip) (data : Boundary) (s : State) : Host.Outcome State Fault Refusal := gatedInsn chip 0x00 (some data) s

/-- The 32 bits that IDCODE reads (R504). -/
def idcodeOf : Chip → BitVec 32
  | .ev9 => 0x10E904D7
  | .nw8 => 0x10A084D7

/-- IDCODE (R504): the identification register is read. -/
def execIdcode (chip : Chip) (s : State) : Host.Outcome State Fault Refusal :=
  if s.tapUp chip then .next (emit (.registerRead (idcodeOf chip)) (loadIr chip 0x01 none s)) else stay s

/-- SAMPLE/PRELOAD (R504). -/
def execSamplePreload (chip : Chip) (data : Boundary) (s : State) : Host.Outcome State Fault Refusal := openInsn chip 0x02 (some data) s

/-- CLAMP (R504, R505). -/
def execClamp (chip : Chip) (s : State) : Host.Outcome State Fault Refusal := gatedInsn chip 0x04 none s

/-- HIGHZ (R504, R505). -/
def execHighz (chip : Chip) (s : State) : Host.Outcome State Fault Refusal := gatedInsn chip 0x05 none s

/-- EXTEST_PULSE (R504–R506). -/
def execExtestPulse (chip : Chip) (data : Boundary) (s : State) : Host.Outcome State Fault Refusal := gatedInsn chip 0x09 (some data) s

/-- EXTEST_TRAIN (R504–R506). -/
def execExtestTrain (chip : Chip) (data : Boundary) (s : State) : Host.Outcome State Fault Refusal := gatedInsn chip 0x0A (some data) s

/-- BYPASS (R504). -/
def execBypass (chip : Chip) (s : State) : Host.Outcome State Fault Refusal := openInsn chip 0xFF none s

/-- DBG_SELECT (R512, R513): an Update-DR sets a pin's selection as a write by carrier 1. -/
def execDbgSelect (value : BitVec 16) (s : State) : Host.Outcome State Fault Refusal :=
  if !s.tapUp .ev9 then stay s
  else
    let v := value.toNat
    .next (selectPeek 1 (v % 8) (v / 8 % 4096) (value.getLsbD 15) v (loadIr .ev9 0x20 none s))

/-- VDD_IO_LOSS (R517, R532): the peek pins and the TAP stop; selections are kept. -/
def execVddIoLoss (s : State) : Host.Outcome State Fault Refusal :=
  .next (onEv9 (Ev9.onSvc fun v => { v with rails := clrBit v.rails 5 }) s)

end Sys2Proof.Machine
end

