-- ==== Sys2Proof/Machine/Peek.lean ====
section
/-! DEFINITION. Peek.lean: the levels of the peek pins of both chips: the signals, the crossings that some of them observe, and what a
pin shows (R507–R510, R515, R529, R531, R532). -/

namespace Sys2Proof.Machine

open Sys2Proof

/-! ## Crossings (R54, R508) -/

/-- A crossing FIFO between a core island and its cluster island. -/
structure Crossing where
  core : Nat
  cluster : Nat
  /-- from the core island to the cluster island -/
  outward : Bool
  deriving DecidableEq, Repr

/-- Crossing x, 0–127: the cluster ⌊x / 8⌋, the core 4k + j of it, and the direction x mod 2 (R508). -/
def crossingOf (x : Nat) : Crossing := ⟨4 * (x / 8) + x % 8 / 2, x / 8, x % 2 == 0⟩

/-- The flit at the head of an input of router `k` that the local output takes in this beat to core `c`: the one that the slot entry
names, else a best-effort one. -/
def Ev9.headFor (e : Ev9) (k c : Nat) : Bool :=
  let mine (f : Flit) : Bool := clusterOf f.h.dcore == k && f.h.dcore == c
  match e.slotBuf k 4 with
  | some b => (e.noc.head b).any mine
  | none => e.noc.bufs.any fun b => bufRouter b.1 == k &&
      (e.noc.head b.1).any fun f => decide (4 ≤ f.vc) && mine f && e.beOutput k f == some 4

/-- The sending island drives a write request while a flit stands before the crossing (log 61). -/
def Ev9.crossRequest (e : Ev9) (x : Crossing) : Bool :=
  if x.outward then !(e.core x.core).sendq.isEmpty else e.headFor x.cluster x.core

/-- The crossing FIFO has a place for what its sender offers. -/
def Ev9.crossRoom (e : Ev9) (x : Crossing) : Bool :=
  if x.outward then
    match (e.core x.core).sendq with
    | f :: _ => decide ((e.noc.buf (bufIndex x.cluster 4 f.flit.vc (x.core % 4))).length < bufCap x.cluster 4 f.flit.vc)
    | [] => true
  else decide ((e.core x.core).inbox.length < 4)

/-- The receiving island acknowledges a request that it takes; a full FIFO holds the write (R54, log 61). -/
def Ev9.crossAck (e : Ev9) (x : Crossing) : Bool := e.crossRequest x && e.crossRoom x

/-! ## Divided clocks (R510) -/

/-- An island's clock divided by 2 × half: it follows the beats that the island has taken. -/
def Isl.divided (half : Nat) (x : Isl) : Bool := x.ticks / half % 2 == 1

/-- Core island c's clock divided by 2 × half: 0 for a retired core and for a core whose partition is OFF. -/
def Ev9.coreClock (e : Ev9) (c half : Nat) : Bool :=
  !e.retired c && (e.part (partOf c)).state != .off && ((e.part (partOf c)).island (c % 8)).divided half

/-- Cluster island k's clock divided by 2 × half. -/
def Ev9.clusterClock (e : Ev9) (k half : Nat) : Bool := ((e.part (k / 2)).island (8 + k % 2)).divided half

/-- The edge island's clock divided by 2 × half. -/
def Ev9.edgeClock (e : Ev9) (half : Nat) : Bool := e.noc.edgeBeat / half % 2 == 1

/-! ## The EV9's signals (R507) -/

/-- The place of an index in a range of `n` signals from `base`. -/
def among (i base n : Nat) : Option Nat := if base ≤ i ∧ i < base + n then some (i - base) else none

/-- Some island of the partition is stretched or stopped by droop (R51). -/
def Ev9.drooping (e : Ev9) (p : Nat) : Bool :=
  let x := e.part p
  if e.chip.strict then x.curl.causes.contains .droop
  else (List.range 10).any fun i => decide (15 ≤ (x.island i).mv) || (x.island i).deep

/-- The partition stands at schedule beat 0 of a step and takes beats. -/
def Ev9.stepStart (e : Ev9) (p : Nat) : Bool := e.live p && (e.part p).clk.stepBeat == 0

/-- The public signals by index. -/
def State.publicSignal (s : State) (i : Nat) : Bool :=
  let e := s.ev9
  if i < 2 then i == 1
  else if i < 10 then (e.part (i - 2)).curl.curled
  else if i < 18 then (e.part (i - 10)).curl.held
  else if i < 26 then e.stepStart (i - 18)
  else if i < 34 then (e.part (i - 26)).clk.glide
  else if i < 42 then (coresOf (i - 34)).any fun c => (e.core c).window
  else if i < 58 then e.clusterClock (i - 42) 128
  else if i = 58 then e.edgeClock 128
  else if i < 61 then Config.pinLevel .ev9 i e.noc.edgeBeat
  else if i < 73 then (e.port (i - 61)).state == .active
  else if i < 85 then s.pulses.contains i
  else if i < 149 then e.coreClock (i - 85) 128
  else if i < 213 then s.pulses.contains i
  else if i < 221 then (e.part (i - 213)).clk.fll == 0x3FF
  else if i = 221 then !e.power.brakeSrc.getLsbD 0
  else if i = 222 then !e.therm.trip
  else if i = 223 then e.power.braked
  else if i < 232 then e.drooping (i - 224)
  else false

/-- The other signals of the full set by index; reserved ones and the die test points read 0. -/
def State.fullSignal (s : State) (i : Nat) : Bool :=
  let e := s.ev9
  if i < 512 then
    let x := crossingOf ((i - 256) / 2)
    if i % 2 = 0 then e.crossRequest x else e.crossAck x
  else if i < 576 then e.coreClock (i - 512) 8
  else if i < 592 then e.clusterClock (i - 576) 8
  else if i = 592 then e.edgeClock 8
  else if i < 600 then false
  else if i < 2648 then ((e.core ((i - 600) / 32)).acorn ((i - 600) % 32)).value == 0
  else if i < 2712 then (e.core (i - 2648)).window
  else if i < 2776 then e.lockCond (i - 2712)
  else if i < 3032 then ((e.core ((i - 2776) / 4)).thread ((i - 2776) % 4)).regs.state == .waiting
  else false

/-- Signal i of the EV9 (R507, R508, R510). -/
def State.signal (s : State) (i : Nat) : Bool := if i < 256 then s.publicSignal i else s.fullSignal i

/-- The signal runs on when THERMTRIP_N stops the islands: a constant, or one of the service island, the edge or TRCLK (R531). -/
def keepsRunning (i : Nat) : Bool :=
  decide (i < 2) || (decide (58 ≤ i) && decide (i < 85)) || (decide (221 ≤ i) && decide (i < 224)) || i == 592

/-! ## Pins (R509, R529, R531, R532) -/

/-- The level that an enabled selection shows: its signal's, or the level at which THERMTRIP_N has held it. -/
def State.shown (s : State) (n : Nat) : Bool :=
  let i := (s.ev9.dbg.peek n).index.toNat
  if !s.ev9.therm.trip || keepsRunning i then s.signal i
  else match tfind s.ev9.dbg.held n with
    | some (k, b) => if k = i then b else s.signal i
    | none => s.signal i

/-- DBG_OBS[n] of the EV9: 0 while its selection is disabled; nothing drives it without VDD_IO. -/
def State.obsPin (s : State) (n : Nat) : Option Bool :=
  if s.tapUp .ev9 then some ((s.ev9.dbg.peek n).enable && s.shown n) else none

/-- The levels of the eight pins are held: what each shows, with its index (R531). -/
def holdPins (s : State) : State :=
  onDbg (fun d => { d with held := (List.range 8).foldl (fun t n =>
    let i := (d.peek n).index.toNat
    tins t n (i, s.signal i)) [] }) s

/-! ## The NW8's pins (R515) -/

/-- Signal i of the NW8. -/
def State.nwSignal (s : State) (i : Nat) : Bool :=
  let w := s.nw8
  let slot (base : Nat) (f : TrayCh → Bool) : Bool := f (w.chan (i - base))
  if i = 0 then false
  else if i < 3 then Config.pinLevel .nw8 i w.hold.timeMs
  else if i = 3 then w.hold.kept
  else if i = 4 then s.pulses.contains (4096 + i)
  else if i = 5 then w.hold.autonomous
  else if i = 6 then decide (w.busMv < 36000)
  else if i = 7 then w.cool.emergency
  else if i < 16 then slot 8 fun x => x.state == .inrush || x.state == .on
  else if i < 24 then s.pulses.contains (4096 + i)
  else if i < 32 then slot 24 fun x => x.state == .on
  else if i < 40 then slot 32 fun x => decide (1000 * breakerAmps x.breaker < x.current.toNat)
  else if i < 48 then Config.pinLevel .nw8 i w.hold.timeMs
  else if i < 56 then slot 48 fun x => x.brakeLow
  else false
where
  /-- SLOT_CTRL_n.breaker: values outside 10–30 A act as 26 (R418) -/
  breakerAmps (b : BitVec 5) : Nat := if b.toNat < 10 ∨ 30 < b.toNat then 26 else b.toNat

/-- DBG_OBS[n] of the NW8: 0 while its selection is disabled. -/
def State.nwObsPin (s : State) (n : Nat) : Bool :=
  let x := if n = 0 then s.nw8.hold.peek0 else s.nw8.hold.peek1
  x.getLsbD 7 && s.nwSignal (x.toNat % 64)

end Sys2Proof.Machine
end

