-- ==== Sys2Proof/Machine/Power.lean ====
section
/-! DEFINITION. Power.lean: caps and budgets, the estimator, the governor, brakes, temperature, and the glides (R49, R365–R395). -/

namespace Sys2Proof

/-- The exact value of a finite number; 0 for none. -/
def Machine.FV.rat : Machine.FV → Rat
  | .fin neg m e =>
    let x : Rat := if 0 ≤ e then (m : Rat) * (2 : Rat) ^ e.toNat else (m : Rat) / (2 : Rat) ^ (-e).toNat
    if neg then -x else x
  | _ => 0

end Sys2Proof

namespace Sys2Proof.Machine

open Sys2Proof

/-- The power registers changed by `f`. -/
def onPower (f : Power → Power) (s : State) : State := onEv9 (fun e => { e with power := f e.power }) s
/-- The temperature registers changed by `f`. -/
def onTherm (f : Therm → Therm) (s : State) : State := onEv9 (fun e => { e with therm := f e.therm }) s

/-! ## Caps and budgets (R369, R370) -/

/-- Limited to 300–900 W. -/
def clampCap (w : Nat) : Nat := max 300 (min 900 w)

/-- The effective chip cap in W, and what sets it: 0 slot, 1 ceiling, 2 host; ties give the lower code (R369, R387). -/
def Power.capSource (x : Power) : Nat × Nat :=
  let slot := clampCap x.slotLimit.toNat
  let ceil := clampCap x.ceiling.toNat
  let host := clampCap x.hostCap.toNat
  if slot ≤ ceil ∧ slot ≤ host then (slot, 0) else if ceil ≤ host then (ceil, 1) else (host, 2)

/-- The effective cap in W. -/
def Power.cap (x : Power) : Nat := x.capSource.1

/-- The measured power of all rails in mW. -/
def Power.measured (x : Power) : Nat := (List.range 6).foldl (fun n r => n + (tget 0 x.measPower r).toNat) 0

/-- Coefficient j; the fused value until the fit has changed it (R372). -/
def Power.coefWord (x : Power) (j : Nat) : Word := (tfind x.coef j).getD (Config.fusedCoef j)

/-- Its value. -/
def Power.c (x : Power) (j : Nat) : Rat := (Fmt.fp32.value (x.coefWord j).toNat).rat

/-- The share weight; 0 acts as 1. -/
def Part.weight (x : Part) : Nat := max 1 x.share.toNat

/-- The mean temperature of the core sensors (R372, R383). -/
def Therm.meanCore (t : Therm) : Rat :=
  ((List.range 64).foldl (fun (n : Int) i => n + (tget 0 t.sensors i).toInt) 0 : Int) / 64

/-- The leakage of one partition at a voltage in mV: an eighth of the chip's (log 27), in W. -/
def Ev9.leakage (e : Ev9) (mv : Nat) : Rat :=
  (mv : Rat) / 1000 * (e.power.c 15 + e.power.c 16 * (e.therm.meanCore - 60)) / 8

/-- P_fixed in W: the mean of the other rails over the last 100 samples, and the tier static term (R370). -/
def Ev9.fixedPower (e : Ev9) : Rat :=
  let l := e.power.fixedSamples
  (if l.isEmpty then 0 else ((l.foldl (· + ·) 0 : Nat) : Rat) / 1000 / (l.length : Rat)) + e.power.c 17

/-- P_idle in W. -/
def Ev9.idlePower (e : Ev9) : Rat :=
  let n := ((List.range 8).filter fun p => (e.part p).state == .off || (e.part p).state == .fenced).length
  (n : Rat) * e.leakage e.power.vdd

/-- The sum of the weights of ENABLING and ON partitions. -/
def Ev9.weights (e : Ev9) : Nat :=
  (List.range 8).foldl (fun n p => if (e.part p).powered then n + (e.part p).weight else n) 0

/-- B_p in mW, never below 0 (R370). -/
def Ev9.budgetOf (e : Ev9) (p : Nat) : Nat :=
  if !(e.part p).powered then 0
  else
    let b := ((e.power.cap : Rat) - e.fixedPower - e.idlePower) * ((e.part p).weight : Rat) / (e.weights : Rat)
    (b * 1000).floor.toNat

/-! ## The estimator (R372, R376) -/

/-- The beat rate of a pace in Hz (R2). -/
def beatRate (k : Nat) : Nat := 1500000000 - 150000000 * k

/-- The island beats of a partition in the last window: its ten islands each count one per schedule beat (R46, R371). -/
def Part.windowBeats (x : Part) : Nat := tget 0 x.lastActivity 11 / 150

/-- The class rate per beat over the last window. -/
def Part.perBeat (x : Part) (j : Nat) : Rat :=
  if x.windowBeats = 0 then 0 else ((tget 0 x.lastActivity j : Nat) : Rat) / 15 / (x.windowBeats : Rat)

/-- Σ c_j × a_j of a partition over classes `js` at a beat rate, in W (R372). -/
def Ev9.dynamic (e : Ev9) (p : Nat) (js : List Nat) (hz : Nat) : Rat :=
  js.foldl (fun (x : Rat) j => x + e.power.c j * (e.part p).perBeat j * (hz : Rat)) 0

/-- P_p(k) in mW at a voltage (R372, R376). -/
def Ev9.powerAt (e : Ev9) (p k mv : Nat) : Rat :=
  let v : Rat := (mv : Rat) / 810
  (v * v * e.dynamic p (List.range 12) (beatRate k) + e.leakage mv + e.dynamic p [12, 13, 14] (beatRate k)) * 1000

/-- P_p(k) as the governor of partition p predicts it: V is the higher of the setpoint of pace k and the highest that the other
partitions hold (R376). -/
def Ev9.predict (e : Ev9) (p k : Nat) : Rat :=
  e.powerAt p k (max (setpoint e.chip.strict k) (e.wantedVdd ((List.range 8).filter (· != p))))

/-- The estimated chip power in mW: the two modelled rails with the partitions at their present paces, and the other rails as
measured (R372, R387, log 27). -/
def Ev9.estimate (e : Ev9) : Nat :=
  let parts := (List.range 8).foldl (fun (x : Rat) p =>
    x + (if (e.part p).powered then e.powerAt p (e.part p).clk.pace.val e.power.vdd else e.leakage e.power.vdd * 1000)) 0
  let other := ([2, 3, 4, 5].foldl (fun n r => n + (tget 0 e.power.measPower r).toNat) 0 : Nat)
  (parts + e.power.c 17 * 1000).floor.toNat + other

/-! ## Requests (R376–R379, R384) -/

/-- THM_THROTTLE; values outside 85–104 act as 100 (R387). -/
def Therm.threshold (t : Therm) : Nat := if 85 ≤ t.throttle.toNat ∧ t.throttle.toNat ≤ 104 then t.throttle.toNat else 100

/-- Tj in °C. -/
def Therm.tjInt (t : Therm) : Int := t.tj.toInt

/-- The paces that the thermal term adds (R384). -/
def Therm.term (t : Therm) : Nat :=
  if (t.threshold : Int) ≤ t.tjInt then (t.tjInt - t.threshold).toNat + 1 else 0

/-- The fastest pace that fits, or 7. -/
def Ev9.fastestFit (e : Ev9) (p b : Nat) : Nat :=
  ((List.range 8).find? fun k => decide (e.predict p k ≤ (98 : Rat) / 100 * (b : Rat))).getD 7

/-- The request before the thermal term, and the run of evaluations in which the next faster pace has fitted (R376). -/
def Ev9.nextBase (e : Ev9) (p : Nat) : Fin 8 × Nat :=
  let x := e.part p
  let b := e.budgetOf p
  if (98 : Rat) / 100 * (b : Rat) < e.predict p x.clk.pace.val then (toPace (e.fastestFit p b), 0)
  else if x.base = 0 then (0, 0)
  else if e.predict p (x.base.val - 1) ≤ (95 : Rat) / 100 * (b : Rat) then
    if 10 ≤ x.fasterRuns + 1 then (toPace (x.base.val - 1), 0) else (x.base, x.fasterRuns + 1)
  else (x.base, 0)

/-- A partition's request becomes base plus the thermal term, and says what limits it (R376, R384, R387). -/
def setRequest (base : Fin 8) (runs : Nat) (fallback : Bool) (term budget : Nat) (x : Part) : Part :=
  { x with
    base := base
    fasterRuns := runs
    request := toPace (min 7 (base.val + term))
    budget := BitVec.ofNat 32 budget
    limited := BitVec.ofNat 3 (bit (!fallback && base != 0) + 2 * bit (decide (0 < term)) + 4 * bit (fallback && base != 0)) }

/-- The partition runs at its own request: it is ENABLING, or ON outside a running troupe, which runs from IMAGE_START on (R345,
R378). -/
def Ev9.ownPace (e : Ev9) (p : Nat) : Bool :=
  (e.part p).powered && match e.memberOf p with
    | none => true
    | some (_, m) => !m.isRunning

/-- A partition that runs at its own request applies it, after any rise of VDD_CORE (R378). -/
def applyOwn (p : Nat) (s : State) : State :=
  let x := s.ev9.part p
  if !s.ev9.ownPace p || x.clk.braked then s
  else if s.ev9.vddFor x.request.val then onPart p (onClk fun c => { c.setPace x.request with pending := none }) s
  else settleVdd (onPart p (onClk fun c => { c with pending := some x.request }) s)

/-- Every partition that runs at its own request applies it. -/
def applyOwnAll (s : State) : State := settleVdd ((List.range 8).foldl (fun s p => applyOwn p s) s)

/-- A member whose request has changed says so (R379). -/
def noteRequests (before : Ev9) (s : State) : State :=
  s.ev9.members.foldl (fun s e =>
    if before.memberRequest e.2 ≠ s.ev9.memberRequest e.2 then
      sendRequest e.1 (e.2.parts.any fun p => (s.ev9.part p).clk.braked) s
    else s) s

/-- A change of requests takes effect. -/
def afterRequests (before : State) (s : State) : State := applyOwnAll (noteRequests before.ev9 s)

/-! ## Brakes (R380–R382) -/

/-- The offsets of PWR_STATUS and THM_STATUS (R387). -/
def offPwrStatus : Nat := 0x0100010
def offThmStatus : Nat := 0x0180000

/-- The onset of a brake: every ENABLING or ON partition curls with cause brake and glides to the slower of PWR_BRAKE and its
pace (R380, R388). -/
def brakePart (p : Nat) (s : State) : State :=
  if !(s.ev9.part p).powered then s
  else
    let k := s.ev9.power.brakePace
    openCause p .brake (onPart p (onClk fun c => { c with pace := slower c.pace k, glide := true, braked := true }) s)

/-- Active brake sources change. The first active source is a brake onset with its record (R380); when every source has
released, members send their unbraked requests, and partitions outside a running troupe return to their own (R382). -/
def setSources (src : BitVec 4) (s : State) : State :=
  let old := s.ev9.power.brakeSrc
  let s := onPower (fun x => { x with brakeSrc := src }) s
  if old = 0 ∧ src ≠ 0 then
    let s := onPower (fun x => { x with braked := true, brakeSeen := true }) (noteSet offPwrStatus 8 s.ev9.power.brakeSeen s)
    let s := (List.range 8).foldl (fun s p => brakePart p s) s
    faultRecord { source := 8, part := none, cause := 0x0800, d0 := src.toNat, d1 := s.ev9.power.brakePace.val,
                  d2 := s.ev9.power.measured / 1000 } s
  else if old ≠ 0 ∧ src = 0 then
    let s := s.ev9.members.foldl (fun s e => sendRequest e.1 false s) s
    let s := (List.range 8).foldl (fun s p =>
      if s.ev9.ownPace p then onPart p (onClk fun c => { c with braked := false }) s else s) s
    settleBrake (applyOwnAll s)
  else s

/-- One source begins or releases: bit 0 pin, 1 power, 2 thermal, 3 measurement. -/
def brakeSource (i : Nat) (on : Bool) (s : State) : State :=
  setSources (if on then setBit s.ev9.power.brakeSrc i else clrBit s.ev9.power.brakeSrc i) s

/-- BRAKE_PIN (R380): BRAKE_N has been low for 200 ns. -/
def execBrakePin (s : State) : Host.Outcome State Fault Refusal :=
  if s.ev9.up then .next (brakeSource 0 true s) else stay s

/-- BRAKE_PIN_RELEASE (R382): BRAKE_N has been high for 1 ms. -/
def execBrakePinRelease (s : State) : Host.Outcome State Fault Refusal :=
  if s.ev9.up then .next (brakeSource 0 false s) else stay s

/-- The samples of 100 ms (R383). -/
def samples100ms : Nat := 1000

/-- THERMAL_BRAKE_RELEASE (R382): Tj has stayed below 102 °C for 100 ms. -/
def execThermalBrakeRelease (s : State) : Host.Outcome State Fault Refusal :=
  if s.ev9.up && decide (samples100ms ≤ s.ev9.therm.brakeCool) then .next (brakeSource 2 false s) else stay s

/-- GLIDE_COMPLETE (R49, R380, R381): the glide reaches its rate. A brake curl ends, and once its member's last one has, the
member sends its PACE_REQUEST with the brake bit. -/
def execGlideComplete (p : PartId) (s : State) : Host.Outcome State Fault Refusal :=
  let x := s.ev9.part p
  if !x.clk.glide || !s.ev9.up then stay s
  else
    let braking := x.curl.causes.contains .brake
    let s := onPart p (onClk fun c => { c with glide := false }) s
    let s := if braking then endCause p .brake s else s
    let s := match s.ev9.memberOf p with
      | none => s
      | some (t, m) =>
        if braking && m.parts.all (fun q => !(s.ev9.part q).curl.causes.contains .brake) then sendRequest t true s else s
    .next (settleVdd s)

/-- VDD_CORE_RISE_REACHED (R368): partitions that wait for the voltage take their pace. -/
def execVddCoreRiseReached (s : State) : Host.Outcome State Fault Refusal :=
  if s.ev9.power.vddReached then stay s
  else .next (applyOwnAll (onPower (fun x => { x with vddReached := true }) s))

/-! ## Samples (R366, R371–R377) -/

/-- A rail is lost after 10 polls in succession (R366). -/
def Power.lost (x : Power) : Bool := x.fails.any fun e => decide (10 ≤ e.2)

/-- One rail's poll. -/
def Power.poll (r : Nat) (m : Option RailReading) (x : Power) : Power :=
  match m with
  | none => { x with fails := tmod 0 x.fails r fun n => n + 1 }
  | some m =>
    { x with fails := tdel x.fails r, measPower := tput 0 x.measPower r m.power, measVolts := tput 0 x.measVolts r m.volts }

/-- The six rails' polls. -/
def Power.pollAll (l : List (Option RailReading)) (x : Power) : Power :=
  (List.range 6).foldl (fun x r => x.poll r ((l[r]?).getD none)) x

/-- The samples of a poll join their windows; runs above and below the limits are counted (R370, R375, R380, R382). -/
def Power.sample (x : Power) : Power :=
  let other := [2, 3, 4, 5].foldl (fun n r => n + (tget 0 x.measPower r).toNat) 0
  let cap := 1000 * x.cap
  { x with
    samples := x.samples ++ [(tget 0 x.measPower 0).toNat]
    fixedSamples := ((x.fixedSamples ++ [other]).reverse.take 100).reverse
    overRun := if 105 * cap < 100 * x.measured then x.overRun + 1 else 0
    underRun := if x.measured ≤ cap then x.underRun + 1 else 0 }

/-- The least-squares update of the 18 coefficients: free values of this draw (R372, log 4). -/
def Power.refit (draw : Nat) (x : Power) : Power :=
  { x with coef := (List.range 18).map fun j => (j, Config.fitCoef draw j), residual := Config.fitResidual draw }

/-- The measured power scaled to a pace one faster on every partition (R377, log 27). -/
def Ev9.scaledFaster (e : Ev9) : Rat :=
  (List.range 8).foldl (fun (x : Rat) p =>
    if (e.part p).powered then x + e.predict p ((e.part p).clk.pace.val - 1) - e.predict p (e.part p).clk.pace.val else x)
    (e.power.measured : Rat)

/-- One sample under fallback moves every partition's request (R377). -/
def fallbackSample (s : State) : State :=
  if !s.ev9.power.fallback then s
  else
    let limit := 920 * s.ev9.power.cap
    let shift (f : Fin 8 → Fin 8) (s : State) : State :=
      (List.range 8).foldl (fun s p =>
        if (s.ev9.part p).powered then
          onPart p (fun x => setRequest (f x.base) 0 true s.ev9.therm.term (s.ev9.budgetOf p) x) s
        else s) s
    if limit < s.ev9.power.measured then
      shift (fun k => toPace (min 7 (k.val + 1))) (onPower (fun x => { x with fasterRun := 0 }) s)
    else if s.ev9.scaledFaster ≤ (limit : Rat) then
      if 100 ≤ s.ev9.power.fasterRun + 1 then
        shift (fun k => toPace (k.val - 1)) (onPower (fun x => { x with fasterRun := 0 }) s)
      else onPower (fun x => { x with fasterRun := x.fasterRun + 1 }) s
    else onPower (fun x => { x with fasterRun := 0 }) s

/-- Fallback and the measurement brake follow stale and meas_lost (R377, R380, R382). -/
def settleMeasurement (s : State) : State :=
  let x := s.ev9.power
  let both := x.stale && x.measLost
  brakeSource 3 both (onPower (fun x => { x with fallback := x.stale || x.measLost }) s)

/-- A dither window ends: x^16 + x^14 + x^13 + x^11 + 1, stepped once (R374). -/
def lfsrStep (x : BitVec 16) : BitVec 16 :=
  (x >>> 1) ||| (((x ^^^ (x >>> 2) ^^^ (x >>> 3) ^^^ (x >>> 5)) &&& 1) <<< 15)

/-- The 1 ms windows of activity and dither end (R371, R374). -/
def endWindows (e : Ev9) : Ev9 :=
  let e := (List.range 8).foldl (fun e p => e.onPart p fun x => { x with lastActivity := x.activity, activity := [] }) e
  { e with members := e.members.map fun m => (m.1, { m.2 with lfsr := lfsrStep m.2.lfsr }) }

/-- RAIL_POLL (R366, R371–R377, R380, R382): one poll of the six measured rails, 1 ms after the last. -/
def execRailPoll (rails : List (Option RailReading)) (s : State) : Host.Outcome State Fault Refusal :=
  if s.ev9.svc.boot != .complete then stay s
  else
    let before := s
    let draw := s.fresh
    let fit := (rails[0]?).getD none |>.isSome
    let fit := fit && ((rails[1]?).getD none).isSome
    let s := onEv9 (Ev9.onSvc fun v => { v with timeMs := v.timeMs + 1 }) s
    let s := onEv9 endWindows (onPower (fun x => (x.pollAll rails).sample) s)
    let s := if fit then drawn (onPower (Power.refit draw) s) else s
    let s := onPower (fun x => { x with measLost := x.lost }) s
    let s := onEv9 (fun e => { e with power := { e.power with est := BitVec.ofNat 32 e.estimate } }) s
    let s := settleMeasurement s
    let s := fallbackSample s
    let s := if 3 ≤ s.ev9.power.overRun then brakeSource 1 true s
      else if 100 ≤ s.ev9.power.underRun then brakeSource 1 false s else s
    .next (afterRequests before s)

/-- The samples' standard deviation is below 1 % of their mean (R375). -/
def flatSamples (l : List Nat) : Bool :=
  let n := l.length
  let a := l.foldl (· + ·) 0
  let b := l.foldl (fun x y => x + y * y) 0
  decide (10000 * (n * b - a * a) < a * a)

/-- A flat window is counted; after 600 the fit is stale (R375). -/
def countFlat (s : State) : State :=
  let n := min 600 (s.ev9.power.flat.toNat + 1)
  let s := onPower (fun x => { x with flat := BitVec.ofNat 10 n, lastFlat := true }) s
  if n = 600 ∧ s.ev9.power.stale = false then
    settleMeasurement (faultRecord { source := 8, part := none, cause := 0x0A00, d0 := 600 }
      (onPower (fun x => { x with stale := true, staleSeen := true }) (noteSet offPwrStatus 9 s.ev9.power.staleSeen s)))
  else s

/-- A window that is not flat ends the count, and stale with it if the fit is good (R375). -/
def endFlat (s : State) : State :=
  let l := s.ev9.power.samples
  let good := decide (100 * s.ev9.power.residual.toNat * l.length ≤ 3 * l.foldl (· + ·) 0)
  let s := onPower (fun x => { x with flat := 0, lastFlat := false, stale := x.stale && !good }) s
  settleMeasurement s

/-- FLAT_WINDOW_END (R375): a 1 s window ends. Counts that are kept by the second begin anew (R99, R281). -/
def execFlatWindowEnd (s : State) : Host.Outcome State Fault Refusal :=
  if s.ev9.svc.boot != .complete then stay s
  else
    let x := s.ev9.power
    let s := if !x.ballastRan && flatSamples x.samples then countFlat s else endFlat s
    let s := onPower (fun x => { x with samples := [], ballastRan := false }) s
    let s := (List.range 8).foldl (fun s p => onPart p (fun x => { x with tier := { x.tier with ceThisSecond := false } }) s) s
    .next ((List.range 12).foldl (fun s n => onPort n (fun x => { x with replayThisSecond := false }) s) s)

/-! ## The governor (R376, R384) -/

/-- One partition's evaluation; in fallback the request follows the samples and only the thermal term is added anew. -/
def evaluate (p : Nat) (s : State) : State :=
  let e := s.ev9
  if !(e.part p).powered then onPart p (fun x => { x with budget := 0 }) s
  else
    let b := e.budgetOf p
    let k := if e.power.fallback then ((e.part p).base, 0) else e.nextBase p
    onPart p (setRequest k.1 k.2 e.power.fallback e.therm.term b) s

/-- The first evaluation at or above the threshold begins a throttle episode (R384). -/
def beginThrottle (s : State) : State :=
  if decide (0 < s.ev9.therm.term) && !s.ev9.therm.throttling then
    faultRecord { source := 9, part := none, cause := 0x0801 }
      (onTherm (fun t => { t with throttling := true, onset := true }) (noteSet offThmStatus 17 s.ev9.therm.onset s))
  else s

/-- A notice and a prepared pace grow older by an evaluation (R379, log 13). -/
def Member.countAges (m : Member) : Member :=
  { m with noticeAge := if m.notice.isSome then m.noticeAge + 1 else m.noticeAge
           preparedAge := if m.prepared.isSome then m.preparedAge + 1 else m.preparedAge }

/-- GOVERNOR_EVALUATION (R376, R378, R384): every 100 µs each ENABLING or ON partition forms its request. -/
def execGovernorEvaluation (s : State) : Host.Outcome State Fault Refusal :=
  if !s.ev9.up then stay s
  else
    let before := s
    let s := beginThrottle s
    let s := onEv9 (fun e => { e with members := e.members.map fun m => (m.1, m.2.countAges) }) s
    .next (afterRequests before ((List.range 8).foldl (fun s p => evaluate p s) s))

/-! ## Temperature (R91, R92, R383–R385) -/

/-- The limits of bands 1–3 in °C. -/
def bandLimit (b : Nat) : Int :=
  match b with
  | 0 => 70
  | 1 => 85
  | _ => 95

/-- The band for a tier temperature, never below the floor (R91, R92). -/
def bandFor (floor : Nat) (tj : Int) : Nat :=
  let b := if tj + 3 ≤ 70 then 0 else if tj + 3 ≤ 85 then 1 else if tj + 3 ≤ 95 then 2 else 3
  max floor b

/-- What a beat at a pace adds to the refresh time of a partition, whose unit is 1/63,000 of an operation: an operation lasts
250 − 25k beats at pace k (R90). -/
def refreshStep (k : Nat) : Nat := 2520 / (10 - k)

/-- The length of a refresh operation in refresh time. -/
def refreshOp : Nat := 63000

/-- The retention window of a band, 0–3 for bands 1–4, in refresh time: 16, 8, 4 or 2 ms of 166.7 ns operations (R91). -/
def retention (band : Nat) : Nat := 96000 / 2 ^ band * refreshOp

/-- The age of a row at a refresh time. -/
def Bank.age (now row : Nat) (b : Bank) : Nat := now - tget 0 b.last row

/-- An operation starts in the bank (R93). -/
def Bank.start (now : Nat) (forced : Bool) (b : Bank) : Bank := { b with busy := true, forced := forced, since := now }

/-- The rows older than a window, which a rise of the band refreshes at once; a row whose operation runs is not among them. An idle
bank starts the first of them (R92). -/
def Bank.force (now window : Nat) (b : Bank) : Bank :=
  let old := (List.range 384).filter fun r => decide (window < b.age now r) && !(b.busy && r == b.row)
  let b := { b with owed := old.length }
  if old.isEmpty || b.busy then b else b.start now true

/-- A bank changed by `f`; a forced operation that starts in it is counted (R92, R97, R111). -/
def countForced (i : Nat) (f : Bank → Bank) (s : State) : State :=
  let b := tget {} s.ev9.banks i
  let n := f b
  let s := onEv9 (fun e => { e with banks := tput {} e.banks i n }) s
  if n.busy && n.forced && !(b.busy && b.forced && n.since == b.since) then
    onPart (i / 512) (fun x => { x with tier := { x.tier with forced := satAdd x.tier.forced 1 } }) s
  else s

/-- Every row whose last refresh is older than the new window is refreshed as a forced operation when the band rises; the carousel of
a strict partition that is ON needs nothing more (R92, R118). -/
def forceRows (s : State) : State :=
  (List.range 8).foldl (fun s p =>
    let x := s.ev9.part p
    let w := retention s.ev9.therm.band.toNat
    if (s.ev9.chip.strict && x.state == .on) || decide (x.tier.clock ≤ w) then s
    else (upFrom (512 * p) 512).foldl (fun s i => countForced i (Bank.force x.tier.clock w) s) s) s

/-- The band rises to `b`. -/
def raiseBand (b : Nat) (s : State) : State :=
  if s.ev9.therm.band.toNat < b then forceRows (onTherm (fun t => { t with band := BitVec.ofNat 2 b, bandCool := 0 }) s) else s

/-- The band may fall: tj_max lies at least 5 °C below the limit of the next lower band, which the floor admits (R92). -/
def Therm.coolForBand (t : Therm) : Bool :=
  let b := t.band.toNat
  decide (t.bandFloor.toNat < b) && decide ((t.tjMax.toNat : Int) + 5 ≤ bandLimit (b - 1))

/-- The runs of samples that R92 and R382 count. -/
def Therm.countCool (t : Therm) : Therm :=
  { t with brakeCool := if t.tjInt < 102 then t.brakeCool + 1 else 0
           bandCool := if t.coolForBand then t.bandCool + 1 else 0 }

/-- The larger of two readings, with its sensor. -/
def hotter (a : Int × Nat) (b : Int × Nat) : Int × Nat := if a.1 < b.1 then b else a

/-- THERMTRIP_N is asserted (R385, R394): the islands stop, and with them every brake, glide and curl in progress; the peek pins hold
their levels (R531). -/
def thermTrip (s : State) : State :=
  let s := holdPins s
  let s := onTherm (fun t => { t with trip := true }) s
  let s := faultRecord { source := 9, part := none, cause := 0x0801, d0 := 1 } s
  let s := onPower (fun x => { x with braked := false }) s
  (List.range 8).foldl (fun s p => onPart p (fun x =>
    { x with clk := { x.clk with glide := false, braked := false }
             curl := if x.curl.held then x.curl
               else { x.curl with curled := false, request := false, absent := [], causes := [], causeNow := none } }) s) s

/-- THERMAL_SAMPLE (R91, R92, R383–R385): the 82 readings of 100 µs. -/
def execThermalSample (readings : List Int) (s : State) : Host.Outcome State Fault Refusal :=
  if s.ev9.svc.boot != .complete then stay s
  else
    let at_ (i : Nat) : Int := (readings[i]?).getD (tget 0 s.ev9.therm.sensors i).toInt
    let hot := (List.range 82).foldl (fun h i => hotter h (at_ i, i)) (at_ 0, 0)
    let tier := (upFrom 64 16).foldl (fun h i => hotter h (at_ i, i)) (at_ 64, 64)
    let s := onTherm (fun t => { t with
      sensors := (List.range 82).foldl (fun u i => tput 0 u i (BitVec.ofInt 8 (at_ i))) t.sensors
      tj := BitVec.ofInt 8 hot.1
      hottest := BitVec.ofNat 7 hot.2
      tjMax := BitVec.ofInt 8 (max 0 tier.1)
      throttling := t.throttling && !decide (hot.1 < (t.threshold : Int) - 3) }) s
    let s := onTherm Therm.countCool (raiseBand (bandFor s.ev9.therm.bandFloor.toNat tier.1) s)
    let s := if 105 ≤ hot.1 ∧ s.ev9.therm.trip = false then brakeSource 2 true s else s
    .next (if 115 ≤ hot.1 ∧ s.ev9.therm.trip = false then thermTrip s else s)

/-- BAND_FALL (R92): tj_max has stayed at least 5 °C below the lower band's limit for 100 ms, and the band falls by one, to the
floor at lowest. -/
def execBandFall (s : State) : Host.Outcome State Fault Refusal :=
  let t := s.ev9.therm
  if t.coolForBand && decide (samples100ms ≤ t.bandCool) then .next (onTherm (fun t => { t with band := t.band - 1, bandCool := 0 }) s)
  else stay s

end Sys2Proof.Machine
end

