-- ==== Sys2Proof/Machine/Refresh.lean ====
section
/-! DEFINITION. Refresh.lean: tier refresh, carousel windows, the band floor (R90–R97, R112–R118, R474), and BAR2 (R84, R303). -/

namespace Sys2Proof.Machine

open Sys2Proof

/-! ## Refresh operations (R90–R94, R97–R100) -/

/-- The number of a bank of a core's channel. -/
def bankIndex (c ch bank : Nat) : Nat := 64 * c + 16 * ch + bank

/-- A bank. -/
def Ev9.bank (e : Ev9) (i : Nat) : Bank := tget {} e.banks i

/-- A bank changed by `f`. -/
def onBank (i : Nat) (f : Bank → Bank) (s : State) : State :=
  onEv9 (fun e => { e with banks := tmod {} e.banks i f }) s

/-- The internal address of 16-byte word `w` of a row: rows of 32 lines, lines going to channels and then to banks in turn (R82,
log 28). -/
def rowAddr (c ch bank row w : Nat) : Nat :=
  tierAddr c (64 * (64 * (32 * row + w / 4) + 4 * bank + ch) + 16 * (w % 4))

/-- The refresh of a core follows the carousel: strict mode in an ON partition (R94, R95). -/
def Ev9.carousel (e : Ev9) (c : Nat) : Bool := e.chip.strict && (e.part (partOf c)).state == .on

/-- The refresh time of a core's partition. -/
def Ev9.refreshNow (e : Ev9) (c : Nat) : Nat := (e.part (partOf c)).tier.clock

/-- REFRESH_START (R93, R94): the rotation's next operation starts in an idle bank. -/
def execRefreshStart (c : CoreId) (ch : Fin 4) (bank : Fin 16) (s : State) : Host.Outcome State Fault Refusal :=
  let i := bankIndex c ch bank
  if s.ev9.up && !s.ev9.carousel c && !(s.ev9.bank i).busy then
    .next (onBank i (Bank.start (s.ev9.refreshNow c) false) s)
  else stay s

/-- The bank's next row has gone 7/8 of the window since its last refresh (R93, R97). -/
def Ev9.mustForce (e : Ev9) (c i : Nat) : Bool :=
  let b := e.bank i
  decide (7 * retention e.therm.band.toNat ≤ 8 * b.age (e.refreshNow c) b.row)

/-- FORCED_REFRESH (R93, R97): once its row has gone 7/8 of the window the operation starts regardless of queued access, and is
counted. -/
def execForcedRefresh (c : CoreId) (ch : Fin 4) (bank : Fin 16) (s : State) : Host.Outcome State Fault Refusal :=
  let i := bankIndex c ch bank
  if s.ev9.up && !(s.ev9.bank i).busy && s.ev9.mustForce c i then
    .next (countForced i (Bank.start (s.ev9.refreshNow c) true) s)
  else stay s

/-- What the SEC-DED code finds in the row that a refresh operation reads: a corrected word is written back, an uncorrectable one
poisoned, unless a full write replaces it in the same beat (R98–R100, R117). -/
def refreshEcc (c ch bank row : Nat) (f : EccFinding) (s : State) : State :=
  match f with
  | .clean => s
  | .single w => correctedError (rowAddr c ch bank row (w % 128)) 1 s
  | .double w => uncorrectable (rowAddr c ch bank row (w % 128)) 1 true s
  | .replaced w => uncorrectable (rowAddr c ch bank row (w % 128)) 1 false s

/-- An operation ends: its row is refreshed and the rotation moves on. What a carousel window or a rise of the band still asks of the
bank begins at once (R92, R95). -/
def Bank.finish (now : Nat) (b : Bank) : Bank :=
  let owed := b.owed - (if b.forced || b.left == 0 then 1 else 0)
  let n := { b with last := tins b.last b.row now, row := (b.row + 1) % 384, busy := false, forced := false,
                    left := b.left - 1, owed := owed }
  if 0 < n.left then n.start now false else if 0 < owed then n.start now true else n

/-- REFRESH_COMPLETE (R90, R98–R100): an operation that has run for its length ends. -/
def execRefreshComplete (c : CoreId) (ch : Fin 4) (bank : Fin 16) (ecc : EccFinding) (s : State) :
    Host.Outcome State Fault Refusal :=
  let i := bankIndex c ch bank
  let b := s.ev9.bank i
  let now := s.ev9.refreshNow c
  if s.ev9.up && b.busy && decide (b.since + refreshOp ≤ now) then
    .next (countForced i (Bank.finish now) (refreshEcc c ch bank b.row ecc (activity (partOf c) 14 15 s)))
  else stay s

/-! ## The carousel (R95, R96, R113) -/

/-- The loaded plan gives the core a window that begins in the present beat of the member's step (R96). -/
def Ev9.planned (e : Ev9) (c : Nat) : Bool :=
  match e.memberOf (partOf c) with
  | none => false
  | some (_, m) =>
    match m.image with
    | none => false
    | some g => g.carousel.any fun w => w.core == c && w.stepInCycle == m.step.toNat % max 1 g.cycleSteps
        && w.startBeat == (e.part (partOf c)).clk.stepBeat.toNat

/-- The 64 banks of a core. -/
def coreBanks (c : Nat) : List Nat := upFrom (64 * c) 64

/-- The operations that each bank completes in one window at a pace: ⌊3,000 / operation length⌋ (R95). -/
def windowOps (k : Nat) : Nat := 3000 / (250 - 25 * k)

/-- A bank begins its operations of a window; one that runs already is among them. -/
def Bank.openWindow (now n : Nat) (b : Bank) : Bank := if b.busy then { b with left := n } else { b.start now false with left := n }

/-- The window is over: the operations that the bank has not reported are complete too, one after the other (R95). -/
def Bank.closeWindow (now : Nat) (b : Bank) : Bank :=
  (List.range b.left).foldl (fun b _ => { b with last := tins b.last b.row now, row := (b.row + 1) % 384 })
    { b with busy := b.busy && b.left == 0, left := 0 }

/-- CAROUSEL_WINDOW_START (R95): a window of the plan begins, and every bank of the core refreshes. -/
def execCarouselWindowStart (c : CoreId) (s : State) : Host.Outcome State Fault Refusal :=
  if s.ev9.carousel c && s.ev9.live (partOf c) && s.ev9.planned c && !(s.ev9.core c).window then
    let n := windowOps (s.ev9.part (partOf c)).clk.pace.val
    .next ((coreBanks c).foldl (fun s i => onBank i (Bank.openWindow (s.ev9.refreshNow c) n) s)
      (onCore c (fun x => { x with window := true, windowLeft := 3000 }) s))
  else stay s

/-- CAROUSEL_WINDOW_END (R95, R113): after its 3,000 beats the window is counted, and held accesses go on. -/
def execCarouselWindowEnd (c : CoreId) (s : State) : Host.Outcome State Fault Refusal :=
  if (s.ev9.core c).window && s.ev9.up && (s.ev9.core c).windowLeft == 0 then
    let ops := (coreBanks c).foldl (fun n i => n + (s.ev9.bank i).left) 0
    .next ((coreBanks c).foldl (fun s i => onBank i (Bank.closeWindow (s.ev9.refreshNow c)) s)
      (onPart (partOf c) (fun x => { x with tier := { x.tier with windows := satAdd x.tier.windows 1 } })
        (onCore c (fun x => { x with window := false }) (activity (partOf c) 14 (15 * ops) s))))
  else stay s

/-! ## The band floor (R92, R111, R474) -/

/-- The offset of TIER_BAND. -/
def offTierBand : Nat := 0x2800000

/-- band_floor takes a value; one above the band in force raises the band at once. -/
def setBandFloor (v : Dword) (s : State) : State :=
  let f := field v 9 8
  raiseBand f (onTherm (fun t => { t with bandFloor := BitVec.ofNat 2 f }) s)

/-- A write of TIER_BAND. -/
def writeTierBand (p : RegPath) (v : Dword) (s : State) : State :=
  privWrite p .installer offTierBand v.toNat (setBandFloor v) s

/-- BAND_FLOOR_WRITE (R111, R474). -/
def execBandFloorWrite (path : RegPath) (value : Dword) (s : State) : Host.Outcome State Fault Refusal :=
  pathWrite path path.isEv9 (writeTierBand path value) s

/-! ## BAR2 (R84, R303) -/

/-- The internal address behind a BAR2 offset; none where it is unmapped. -/
def bar2Addr (off : Nat) : Option Nat :=
  let c := off / 0x4000000
  let o := off % 0x4000000
  if o < 0x3000000 then some (tierAddr c o)
  else if c % 4 = 0 then some (scratchAddr (c / 4) (o - 0x3000000))
  else none

/-- BAR2 is open to the physical function (R303). -/
def State.bar2Open (s : State) : Bool := Role.installer.atLeast s.ev9.sessPf.role

/-- The whole range is mapped, to one run of internal addresses (log 11: no request of PCI Express crosses from one window to the
next). -/
def bar2Range (off len : Nat) : Bool :=
  match bar2Addr off with
  | none => decide (len = 0)
  | some a => (List.range len).all fun k => bar2Addr (off + k) == some (a + k)

/-- BAR2_READ (R84, R98–R101, R303): the bytes complete, poisoned if a word of them is; a closed BAR2 or an unmapped offset
completes with Unsupported Request. -/
def execBar2Read (offset : BitVec 32) (len : Nat) (ecc : EccFinding) (s : State) : Host.Outcome State Fault Refusal :=
  let off := offset.toNat
  if !s.ev9.hostUp then stay s
  else
    let s := touch (some .pf) s
    match s.bar2Open && bar2Range off len, bar2Addr off with
    | true, some a =>
      let s := applyEcc (a / 16 * 16) 2 ecc s
      .next (emit (.completion (s.ev9.loads a len) (decide (0 < len) && s.ev9.anyPoison a len)) s)
    | _, _ => .next (emit .unsupported s)

/-- A host write of bytes, run by run of equal seal: sealed bytes are discarded. -/
def hostBytes (a : Nat) (l : List Byte) (s : State) : State :=
  onEv9 (fun e =>
    let all := (List.range l.length).map fun i => (a + i, byteAt l i)
    if all.any fun x => e.sealed x.1 then (all.filter fun x => !e.sealed x.1).foldl (fun e x => e.store x.1 [x.2] false) e
    else e.store a l false) s

/-- A host write that meets an active seal sets the violation bit and is recorded as a denied attempt (R103). -/
def hostSealed (off a : Nat) (s : State) : State :=
  let p := ((placeOf a).part?).getD 0
  auditReg .pf 4 off 0 stNotPermitted (noteViolation p s)

/-- BAR2_WRITE (R84, R103, R108, R115, R303): the bytes are written; a closed BAR2 discards and records; sealed bytes are discarded.
Bytes for scratch take their turn among the accesses of the beat (R116). -/
def execBar2Write (offset : BitVec 32) (data : List Byte) (s : State) : Host.Outcome State Fault Refusal :=
  let off := offset.toNat
  if !s.ev9.hostUp then stay s
  else
    let s := touch (some .pf) s
    if !s.bar2Open then .next (auditReg .pf 4 off 0 stNotPermitted s)
    else if !bar2Range off data.length then .next (emit .unsupported s)
    else
      match bar2Addr off with
      | none => .next (emit .unsupported s)
      | some a =>
        let hit := (upFrom a data.length).any s.ev9.sealed
        match placeOf a with
        | .scratch k _ =>
          .next ((scrUnits a data).foldl (fun s u => arriveScr ⟨k, s.ev9.stampBeat k, 64, 3, .write, [u]⟩ s) s)
        | _ => .next (if hit then hostSealed off a (hostBytes a data s) else hostBytes a data s)

end Sys2Proof.Machine
end

