-- ==== Sys2Proof/Machine/Copies.lean ====
section
/-! DEFINITION. Copies.lean: the data that copies move (R101, R103, R115, R318, R329, R331, R332), and copies that stop before they
have moved all of it (R336, R349). -/

namespace Sys2Proof.Machine

open Sys2Proof

/-- Word `i` of a copy, with its poison, as bytes at their address. -/
def copyWord (a i : Nat) (data : List Byte) (poisoned : Nat → Bool) : ScrUnit := ⟨a + 16 * i, slice data (16 * i) 16, poisoned i⟩

/-- One 64-byte line of a COPY_IN is written, word by word with its poison; a line in a seal range that has become active is
discarded (R101, R103, R115). A line of scratch takes its turn among the accesses to its cluster (R108, R331). -/
def copyLine (a i : Nat) (data : List Byte) (poisoned : Nat → Bool) (s : State) : State :=
  let us := (upFrom (4 * i) 4).map fun w => copyWord a w data poisoned
  match placeOf (a + 64 * i) with
  | .scratch k _ => arriveScr ⟨k, s.ev9.stampBeat k, 64, 0, .write, us⟩ s
  | _ =>
    if s.ev9.sealed (a + 64 * i) then hostSealed 0 (a + 64 * i) s
    else onEv9 (fun e => us.foldl (fun e u => e.store u.addr u.bytes u.bad) e) s

/-- The data of a COPY_IN. -/
def copyInData (a len : Nat) (data : List Byte) (poisoned : Nat → Bool) (s : State) : State :=
  (List.range (len / 64)).foldl (fun s i => copyLine a i data poisoned s) s

/-- The data of a COPY_OUT: poisoned words go out in poisoned TLPs (R101, R318). -/
def copyOutData (fn a iova len : Nat) (s : State) : State :=
  let bad := (List.range (len / 16)).filter fun i => s.ev9.poisoned (wordOf (a + 16 * i))
  bad.foldl (fun s i => emit (.poisonedWrite fn (iova + 16 * i)) s) (onEv9 (Ev9.hostWrite fn iova (s.ev9.loads a len)) s)

/-- The lines that a copy of `n` bytes had moved when it was stopped after the transfer in progress: the state does not hold how far it
had come (a free value, log 58). -/
def linesMoved (draw n : Nat) : Nat := (Config.unstated draw).toNat % (n / 64 + 1)

/-- A copy stops after the transfer in progress (R336, R349): what it has moved until then stays moved. -/
def stopCopy (s : State) (d : Deferred) : State :=
  let k := s.fresh
  match d.work with
  | .copyIn a _ n =>
    let m := linesMoved k n
    copyInData a.toNat (64 * m) ((List.range (64 * m)).map (Config.copyByte k)) (Config.copyPoison k) (drawn s)
  | .copyOut a iova n =>
    copyOutData (ringFunction ((d.via.ring?).getD 0)) a.toNat iova.toNat (64 * linesMoved k n) (drawn s)
  | _ => s

/-- Every copy that `sel` picks stops. -/
def stopCopies (sel : Deferred → Bool) (s : State) : State := (s.ev9.hif.deferred.filter sel).foldl stopCopy s

/-- Poisoned TLPs that brought the data of a COPY_IN count in HIF_ERR. The state does not hold how many words one TLP carries: at least
one, and at most one for each poisoned word (R333, a free value, log 58). -/
def countPoisonedTlps (words : Nat) (s : State) : State :=
  if words = 0 then s
  else
    let n := 1 + (Config.unstated s.fresh).toNat % words
    onEv9 (Ev9.onHif fun h => { h with errUncorr := satAdd h.errUncorr n }) (drawn s)

end Sys2Proof.Machine
end

