-- ==== Sys2Proof/Machine/Rings.lean ====
section
/-! DEFINITION. Rings.lean: ring pairs and their registers (R305–R311, R335, R337), and the resets of functions and of the host
interface (R299–R302, R336, R466, R476, R477, R483). -/

namespace Sys2Proof.Machine

open Sys2Proof

/-! ## Fetching (R307, R309, R311, R335) -/

/-- The entries that a doorbell has made known are fetched, unless the ring is disabled or holds 64 replies; the head advances as
they are. -/
def Ring.fetch (g : Ring) : Ring :=
  if !g.enable || decide (64 ≤ g.heldReplies.length) then g
  else
    { g with
      fetched := g.fetched ++ g.waiting
      fetchedAt := g.fetchedAt ++ g.waitingAt
      waiting := []
      waitingAt := []
      sqHead := g.sqTail
      inflight := satAdd g.inflight g.waiting.length }

/-- The distance from the head to a tail. -/
def Ring.distance (g : Ring) (tail : Nat) : Nat := (tail + ringSize g.sqOrder - g.sqHead.toNat) % ringSize g.sqOrder

/-- A doorbell in an edge beat: the tail, and the entries then known, each with its place in the order of R311 and that beat. -/
def Ring.ringUp (place beat tail : Nat) (entries : List Packet) (g : Ring) : Ring :=
  { g with
    sqTail := BitVec.ofNat 15 tail
    waiting := entries
    waitingAt := g.waitingAt.take entries.length
      ++ (upFrom g.waitingAt.length (entries.length - g.waitingAt.length)).map fun i => (32768 * place + i, beat) }.fetch

/-- A doorbell of which the ring could not be read whole: the entries before the failure are fetched, and the failure is flagged
(R333, log 56). -/
def Ring.ringCut (place beat : Nat) (entries : List Packet) (g : Ring) : Ring :=
  { g.ringUp place beat ((g.sqHead.toNat + entries.length) % ringSize g.sqOrder) entries with dmaError := true }

/-- The path writes every register of the ring: its own tenant, or the physical function's BAR0 for the management ring (R305). -/
def ownsRing (path : RegPath) (r : Nat) : Bool :=
  match path with
  | .vf t => decide (r < 65536) && tenantOf r == t.val
  | .pf | .smb0 => r == 65536
  | _ => false

/-- The offset of RING_STATUS_r in the physical function's BAR0 (R304, R333). -/
def offRingStatus (r : Nat) : Nat := if r = 65536 then 0x0400138 else 0x0800038 + 0x40 * r

/-- Fewer entries have been read than the tail announces: a ring access to host memory failed. It counts as an uncorrectable error
(R333, log 56). -/
def ringReadFailed (r place beat : Nat) (entries : List Packet) (s : State) : State :=
  onEv9 (fun e => (e.onRing r fun g => g.ringCut place beat entries).onHif fun h => { h with errUncorr := satAdd h.errUncorr 1 })
    (noteSet (offRingStatus r) 1 (s.ev9.ring r).dmaError s)

/-- A doorbell write (R307, R311, R337): a tail outside the ring is ignored and flagged; a disabled ring fetches nothing. -/
def writeTail (r tail : Nat) (entries : List Packet) (s : State) : State :=
  let g := s.ev9.ring r
  if ringSize g.sqOrder ≤ tail then
    onEv9 (Ev9.onRing r fun g => { g with badDoorbell := true }) (noteSet (offRingStatus r) 0 g.badDoorbell s)
  else
    let place := s.ev9.hif.doorbells
    let beat := s.ev9.noc.edgeBeat
    let s := onEv9 (Ev9.onHif fun h => { h with doorbells := place + 1 }) s
    if !g.enable then onEv9 (Ev9.onRing r fun g => { g with sqTail := BitVec.ofNat 15 tail }) s
    else if entries.length < g.distance tail then ringReadFailed r place beat entries s
    else onEv9 (Ev9.onRing r fun g => g.ringUp place beat tail entries) s

/-- DOORBELL (R307, R311, R333, R337): `entries` are what the submission ring holds from head to tail, as far as it could be read. -/
def execDoorbell (path : RegPath) (ring : Fin 65537) (tail : Dword) (entries : List Packet) (s : State) :
    Host.Outcome State Fault Refusal :=
  let g := s.ev9.ring ring.val
  let t := field tail 14 0
  if g.enable && decide (t < ringSize g.sqOrder) && decide (g.distance t < entries.length) then stay s
  else pathWrite path (ownsRing path ring.val) (writeTail ring.val t entries) s

/-- The completion head moves: held replies are written, and fetching goes on (R308, R309). -/
def writeCqHead (r : Nat) (v : Dword) (s : State) : State :=
  let s := onEv9 (Ev9.onRing r fun g => { g with cqHead := BitVec.ofNat 15 (field v 14 0) }) s
  onEv9 (Ev9.onRing r Ring.fetch) (releaseReplies r (s.ev9.ring r).heldReplies.length s)

/-- CQ_HEAD_WRITE (R308, R309). -/
def execCqHeadWrite (path : RegPath) (ring : Fin 65537) (value : Dword) (s : State) : Host.Outcome State Fault Refusal :=
  pathWrite path (ownsRing path ring.val) (writeCqHead ring.val value) s

/-! ## Enable (R305, R306, R333, R335) -/

/-- Writing 1: orders are taken while the ring is disabled; heads, tails and phase begin anew. -/
def Ring.enabled (v : Dword) (g : Ring) : Ring :=
  let g := if g.enable then g else { g with sqOrder := BitVec.ofNat 4 (field v 7 4), cqOrder := BitVec.ofNat 4 (field v 11 8) }
  { g with enable := true, sqHead := 0, sqTail := 0, cqHead := 0, cqTail := 0, phase := true, waiting := [], waitingAt := [] }

/-- Writing 0: fetching stops, and fetched commands run on. -/
def Ring.disabled (v : Dword) (g : Ring) : Ring :=
  if g.enable then { g with enable := false, waiting := [], waitingAt := [] }
  else { g with sqOrder := BitVec.ofNat 4 (field v 7 4), cqOrder := BitVec.ofNat 4 (field v 11 8) }

/-- The physical function's session ends with its management ring (R443). -/
def ringDisabled (r : Nat) (s : State) : State := if r = 65536 then endSession .pf .ringDisabled s else s

/-- A write of RING_CFG_r by its owner. Once a new enable has freed the completion ring, the replies that the ring holds are written
(R309). -/
def writeRingCfg (r : Nat) (v : Dword) (s : State) : State :=
  if v.getLsbD 0 then
    let s := onEv9 (Ev9.onRing r (Ring.enabled v)) s
    releaseReplies r (s.ev9.ring r).heldReplies.length s
  else
    let was := (s.ev9.ring r).enable
    let s := onEv9 (Ev9.onRing r (Ring.disabled v)) s
    if was then ringDisabled r s else s

/-- RING_ENABLE (R333): 1 is written to enable. -/
def execRingEnable (path : RegPath) (ring : Fin 65537) (value : Dword) (s : State) : Host.Outcome State Fault Refusal :=
  if !value.getLsbD 0 then stay s else pathWrite path (ownsRing path ring.val) (writeRingCfg ring.val value) s

/-- The physical function may disable any tenant ring, and change nothing else of it (R305). -/
def Ring.stopped (g : Ring) : Ring := if g.enable then { g with enable := false, waiting := [], waitingAt := [] } else g

/-- RING_DISABLE (R305, R335): 0 is written to enable. -/
def execRingDisable (path : RegPath) (ring : Fin 65537) (value : Dword) (s : State) : Host.Outcome State Fault Refusal :=
  if value.getLsbD 0 then stay s
  else if ownsRing path ring.val then pathWrite path true (writeRingCfg ring.val value) s
  else pathWrite path path.isEv9 (onEv9 (Ev9.onRing ring.val Ring.stopped)) s

/-! ## Resets (R336, R476, R477, R483, R499) -/

/-- What a Function Level Reset does to a tenant's slot: PENDING and COLLECT slots are freed, BOUND ones become RELEASING. -/
def resetSlot (t : Nat) (g : StreamSlot) : StreamSlot :=
  if g.state = .free ∨ g.tenant.toNat ≠ t then g
  else match g.state with
    | .pending | .collect => {}
    | .bound => { g with state := .releasing }
    | _ => g

/-- The slots of a tenant after its reset. -/
def Hif.resetSlots (t : Nat) (h : Hif) : Hif :=
  { h with slots := (h.slots.map fun e => (e.1, resetSlot t e.2)).filter fun e => e.2 != {} }

/-- The carrier is a ring of the tenant. -/
def Carrier.ofTenant (t : Nat) : Carrier → Bool
  | .ring r => tenantOf r.val == t
  | _ => false

/-- The troupes whose image a tenant is loading. -/
def Ev9.loadsOf (e : Ev9) (t : Nat) : List Nat :=
  e.hif.deferred.filterMap fun d => match d.work with
    | .imageLoad u => if Carrier.ofTenant t d.via then some u.toNat else none
    | _ => none

/-- A Function Level Reset of tenant `t` (R336): its rings are disabled, its waiting commands complete without a reply, its copies
stop after the transfer in progress, and so do its image loads, which leave no image (R44). -/
def resetTenant (t : Nat) (s : State) : State :=
  let s := (s.ev9.loadsOf t).foldl (fun s u => onMember u (fun m => { m with image := none }) s) s
  let s := stopCopies (fun d => Carrier.ofTenant t d.via) s
  let s := dropDeferred (fun d => Carrier.ofTenant t d.via) s
  onEv9 (Ev9.onHif fun h =>
    { h.resetSlots t with rings := h.rings.filter fun e => !(decide (e.1 < 65536) && tenantOf e.1 == t) }) s

/-- The physical function's own reset (R298, R443): its session ends, its management ring is disabled, and the commands that wait on that
ring complete without a reply, as R336 has it for a tenant (DESIGN CHOICE, log 57). -/
def resetPhysical (s : State) : State :=
  let s := dropDeferred (fun d => d.via == .mgmt) s
  let s := endSession .pf .reset s
  onEv9 (Ev9.onHif fun h => { h with rings := tdel h.rings 65536 }) s

/-- FUNCTION_LEVEL_RESET (R298, R336, R363, R443): function 0 is the physical function, function t + 1 tenant t (R300). -/
def execFunctionLevelReset (f : Fin 1025) (s : State) : Host.Outcome State Fault Refusal :=
  if !s.ev9.hostUp then stay s
  else if f.val = 0 then .next (resetPhysical s) else .next (resetTenant (f.val - 1) s)

/-- The tenants that hold a ring or a slot. -/
def Ev9.activeTenants (e : Ev9) : List Nat :=
  (e.hif.rings.filterMap fun x => if x.1 < 65536 then some (tenantOf x.1) else none).foldl sadd
    ((e.hif.slots.map fun x => x.2.tenant.toNat).foldl sadd [])

/-- Every tenant is reset at once. -/
def resetTenants (s : State) : State := s.ev9.activeTenants.foldl (fun s t => resetTenant t s) s

/-- A host reset (R477, level 2): configuration and SR-IOV state, every ring, the physical function's session, every tenant. -/
def hostReset (s : State) : State :=
  let s := dropDeferred (fun d => d.via == .mgmt) (resetTenants s)
  let s := endSession .pf .reset s
  let s := onSession .pf (fun _ => {}) s
  onEv9 (fun e => { e with
    chip := { e.chip with latchPf := none }
    hif := { e.hif with rings := [], numVfs := 0, vfEnable := false, up := false, training := false, rate := 0, width := 0,
                        flit := false, reversed := false, errCorr := 0, errUncorr := 0 } }) s

/-- HOST_RESET (R477, R499): PERST_N low, Hot Reset or link down. -/
def execHostReset (s : State) : Host.Outcome State Fault Refusal :=
  .next (onEv9 (Ev9.onHif fun h => { h with perst := false }) (hostReset s))

/-- VDD_PCIE is within limits (R365, R483). -/
def Ev9.pcieRail (e : Ev9) : Bool := e.svc.rails.getLsbD 4

/-- PERST_N_RELEASE (R299, R483): link training begins once VDD_PCIE is within limits; in recovery and rail failure it does not. -/
def execPerstNRelease (s : State) : Host.Outcome State Fault Refusal :=
  .next (onEv9 (fun e => e.onHif fun h =>
    { h with perst := true, training := e.pcieRail && !e.inRecovery }) s)

/-- PCIE_LINK_UP (R299, R333, R483): the link is up at a rate code 4–6 and a width of 4, 8 or 16. -/
def execPcieLinkUp (rate : Fin 3) (width : Fin 3) (reversed : Bool) (s : State) : Host.Outcome State Fault Refusal :=
  let h := s.ev9.hif
  if h.perst && (h.training || s.ev9.pcieRail) && !h.up && !s.ev9.inRecovery then
    .next (onEv9 (Ev9.onHif fun h => { h with up := true, training := false, rate := BitVec.ofNat 3 (4 + rate.val),
                                              width := BitVec.ofNat 5 (4 * 2 ^ width.val), flit := rate == 2, reversed := reversed }) s)
  else stay s

/-- VF_ENABLE (R300, R466): NumVFs is written and VF Enable set. -/
def execVfEnable (num : Nat) (s : State) : Host.Outcome State Fault Refusal :=
  if s.ev9.hostUp && decide (num ≤ 1024) && !s.ev9.hif.vfEnable then
    .next (onEv9 (Ev9.onHif fun h => { h with numVfs := BitVec.ofNat 11 num, vfEnable := true }) s)
  else stay s

/-- VF_DISABLE (R476): a Function Level Reset of every tenant at once. -/
def execVfDisable (s : State) : Host.Outcome State Fault Refusal :=
  if s.ev9.hostUp && s.ev9.hif.vfEnable then
    .next (onEv9 (Ev9.onHif fun h =>
      { h with vfEnable := false, rings := h.rings.filter fun e => decide (65536 ≤ e.1) }) (resetTenants s))
  else stay s

end Sys2Proof.Machine
end

