-- ==== Sys2Proof/Machine/Boot.lean ====
section
/-! DEFINITION. Boot.lean: the EV9's power-on and chip resets, and its power-up (R47, R385, R477–R485, R518, R532). -/

namespace Sys2Proof.Machine

open Sys2Proof

/-! ## Resets (R477, R478, R500) -/

/-- What the EV9 holds after a reset of level 0 or 1 (R477): STRICT, SVC_RETIRE, the keys and the firmware images are in the SPI NOR;
PERST_N and FACTORY_N are pins; host memory is the host's. -/
def Ev9.fresh (e : Ev9) : Ev9 :=
  { chip := { strict := e.chip.strict }
    hif := { perst := e.hif.perst, hostMem := e.hif.hostMem }
    svc := { retire := e.svc.retire, installerKey := e.svc.installerKey }
    dbg := { factoryLow := e.dbg.factoryLow } }

/-- The EV9 after a chip reset: its cause, the number of chip resets, the count of audit entries lost, the straps, and THERMTRIP_N,
which only the removal of VDD_STBY releases (R385, R478). -/
def Ev9.chipReset (cause : Nat) (e : Ev9) : Ev9 :=
  let f := e.fresh
  { f with
    therm := { f.therm with trip := e.therm.trip }
    svc := { f.svc with
      resetCause := BitVec.ofNat 3 cause
      resets := satAdd e.svc.resets 1
      lost := BitVec.ofNat 16 (min 65535 (e.svc.unforwarded + e.svc.lostToReport.toNat))
      slotId := e.svc.slotId } }

/-- POWER_ON_RESET (R477): VDD_STBY rises into range. -/
def execPowerOnReset (s : State) : Host.Outcome State Fault Refusal := .next (onEv9 Ev9.fresh s)

/-- CHIP_RESET (R477, R478, R500, R532): RESET_N low. -/
def execChipReset (s : State) : Host.Outcome State Fault Refusal :=
  if s.ev9.svc.vddStby then .next (onEv9 (Ev9.chipReset 1) s) else stay s

/-- The boot ROM starts; the first audit entries are the reset's cause and the count of entries that it lost (R478, R479). -/
def startRom (s : State) : State :=
  emit .bootRom (onEv9 (Ev9.onSvc fun v =>
    let v := v.addAudit { carrier := 2, kind := 7, detail := v.resetCause.toNat }
    { v.addAudit { carrier := 2, kind := 8, detail := v.lost.toNat } with boot := .rom }) s)

/-- SERVICE_WATCHDOG_EXPIRY (R477): a chip reset with RESET_N high, so that the boot ROM starts at once. -/
def execServiceWatchdogExpiry (s : State) : Host.Outcome State Fault Refusal :=
  if s.ev9.svc.boot == .down then stay s else .next (startRom (onEv9 (Ev9.chipReset 2) s))

/-- VDD_STBY_REMOVED (R385): the service island stops and THERMTRIP_N is released. -/
def execVddStbyRemoved (s : State) : Host.Outcome State Fault Refusal :=
  .next (onEv9 (fun e => { e with
    svc := { e.svc with boot := .down, rails := 0, vddStby := false }
    therm := { e.therm with trip := false }
    hif := { e.hif with up := false, training := false } }) s)

/-! ## Power-up (R479–R483) -/

/-- BOOT_START (R479, R518): RESET_N rises, and SLOT_ID is sampled. -/
def execBootStart (slotId : BitVec 3) (s : State) : Host.Outcome State Fault Refusal :=
  if s.ev9.svc.vddStby && s.ev9.svc.boot == .down then
    .next (startRom (onEv9 (Ev9.onSvc fun v => { v with slotId := slotId }) s))
  else stay s

/-- The service island answers SMB_0 from now on; a word that is not zero is told (R434, R479). -/
def answersSmb (b : BootStage) (s : State) : State := callSmb 0 (onEv9 (Ev9.onSvc fun v => { v with boot := b }) s)

/-- Image i runs, and the rails are switched on (R479, R480). -/
def runImage (i : Nat) (x : FwImage) (fallback : Bool) (s : State) : State :=
  onEv9 (Ev9.onSvc fun v => { v with image := i, major := x.major, fallback := fallback, boot := .rails 0 }) s

/-- FIRMWARE_SELECT (R480): the image with the higher version runs, else the other one as a fallback, else the EV9 enters recovery. -/
def execFirmwareSelect (first second : FwImage) (s : State) : Host.Outcome State Fault Refusal :=
  if s.ev9.svc.boot != .rom then stay s
  else
    let later := decide (first.version < second.version)
    let hi := if later then second else first
    let lo := if later then first else second
    if hi.valid then .next (runImage (bit later) hi false s)
    else if lo.valid then .next (runImage (bit !later) lo true s)
    else .next (answersSmb .recovery s)

/-- The rail of R365 that stage 2 switches on as its k-th: VDD_IO, VDD_TIER, VDD_CORE, VDD_SNL 0.9 V and 1.2 V, VDD_PCIE. -/
def railOf (k : Nat) : Nat := match k with
  | 0 => 5
  | 1 => 1
  | 2 => 0
  | 3 => 2
  | 4 => 3
  | _ => 4

/-- VDD_CORE is set for pace 7 before it is switched on (R479). -/
def coreRail (k : Nat) (s : State) : State :=
  if k = 2 then
    let mv := setpoint s.ev9.chip.strict 7
    emit (.vddCore mv) (onPower (fun x => { x with vdd := mv }) s)
  else s

/-- RAIL_UP (R479, R483, R517): the rail is within limits and the next one is switched on; with VDD_PCIE link training begins if PERST_N
is high. -/
def execRailUp (s : State) : Host.Outcome State Fault Refusal :=
  match s.ev9.svc.boot with
  | .rails k =>
    let s := onEv9 (Ev9.onSvc fun v =>
      { v with rails := setBit v.rails (railOf k), boot := if k < 5 then .rails (k + 1) else .fll }) s
    let s := if k < 5 then coreRail (k + 1) s else s
    .next (if k < 5 then s else onEv9 (Ev9.onHif fun h => { h with training := h.perst }) s)
  | _ => stay s

/-- RAIL_START_FAIL (R481): every rail is off again, and the failing one is named. -/
def execRailStartFail (s : State) : Host.Outcome State Fault Refusal :=
  match s.ev9.svc.boot with
  | .rails k =>
    .next (answersSmb .railFail (onPower (fun x => { x with vdd := 0 })
      (onEv9 (Ev9.onSvc fun v => { v with rails := setBit 0 (railOf k) }) s)))
  | _ => stay s

/-- EDGE_FLL_LOCK (R47, R479): the edge FLL has locked to TRCLK, whose frequency error is then measured (log 4). -/
def execEdgeFllLock (s : State) : Host.Outcome State Fault Refusal :=
  if s.ev9.svc.boot != .fll then stay s
  else
    .next (drawn (onEv9 (fun e => { e with
      chip := { e.chip with trPresent := true, freqErr := Config.freqErr s.fresh }
      svc := { e.svc with boot := .selfTest } }) s))

/-- Spare rows of a tier bank (R482). -/
def spareRows : Nat := 8

/-- A tier bank of the core needs more spare rows than it has. -/
def SelfTest.tierFails (x : Sys2Proof.SelfTest) : Bool := x.rows.any fun r => decide (spareRows < r)

/-- The rows that spares replace: those of banks that do not fail. -/
def SelfTest.repaired (x : Sys2Proof.SelfTest) : Nat := (x.rows.filter fun r => decide (r ≤ spareRows)).sum

/-- The finding of a core, if the self-test has one. -/
def findingOf (l : List Sys2Proof.SelfTest) (c : Nat) : Option Sys2Proof.SelfTest := l.find? fun x => x.core.val == c

/-- A scratch bank of core c's cluster fails. -/
def scratchFails (l : List Sys2Proof.SelfTest) (c : Nat) : Bool := l.any fun x => x.scratch && clusterOf x.core.val == clusterOf c

/-- SVC_REPAIR_c (R482, R496). -/
def repairOf (l : List Sys2Proof.SelfTest) (c : Nat) : BitVec 11 :=
  let scratch := 1024 * bit (scratchFails l c)
  match findingOf l c with
  | none => BitVec.ofNat 11 scratch
  | some x => BitVec.ofNat 11 (min 255 (SelfTest.repaired x) + 256 * bit (SelfTest.tierFails x) + 512 * bit x.obuf + scratch)

/-- The core is retired by the self-test. -/
def failsTest (l : List Sys2Proof.SelfTest) (c : Nat) : Bool := decide (256 ≤ (repairOf l c).toNat)

/-- TIER_SELF_TEST_COMPLETE (R479, R482): rows are repaired, cores retired, and boot is complete. -/
def execTierSelfTestComplete (findings : List Sys2Proof.SelfTest) (s : State) : Host.Outcome State Fault Refusal :=
  if s.ev9.svc.boot != .selfTest then stay s
  else
    .next (answersSmb .complete (onEv9 (Ev9.onSvc fun v => { v with
      selftestFail := (List.range 64).foldl (fun m c => if failsTest findings c then setBit m c else m) 0
      repair := (List.range 64).foldl (fun t c => tput 0 t c (repairOf findings c)) [] }) s))

end Sys2Proof.Machine
end

