-- ==== Sys2Proof/Machine/Control.lean ====
section
/-! DEFINITION. Control.lean: the control instructions (R191–R196). -/

namespace Sys2Proof.Machine

open Sys2Proof

/-- The shift count b[5:0]. -/
def shiftCount (b : Dword) : Nat := b.toNat % 64

/-- a is below b, signed or, when mod[0] is 1, unsigned. -/
def belowBy (w : Ctl) (a b : Dword) : Bool := if w.mod.getLsbD 0 then a.ult b else a.slt b

/-- NOP (R191). -/
def execControlNop (c : CoreId) (t : ThreadId) (w : Ctl) (s : State) : Host.Outcome State Fault Refusal :=
  regOp 0x00 c t w id s

/-- HALT: the thread becomes HALTED; its enqueued engine work runs on (R191). -/
def execHalt (c : CoreId) (t : ThreadId) (w : Ctl) (s : State) : Host.Outcome State Fault Refusal :=
  regOp 0x01 c t w (fun r => { r with state := .halted }) s

/-- ADD: g[dst] := g[srca] + b, modulo 2^64 (R191). -/
def execAdd (c : CoreId) (t : ThreadId) (w : Ctl) (s : State) : Host.Outcome State Fault Refusal :=
  aluOp 0x08 c t w (fun a b => a + b) s

/-- SUB: g[dst] := g[srca] − b, modulo 2^64 (R191). -/
def execSub (c : CoreId) (t : ThreadId) (w : Ctl) (s : State) : Host.Outcome State Fault Refusal :=
  aluOp 0x09 c t w (fun a b => a - b) s

/-- MUL: the low 64 bits of the product, ready after 3 beats (R191, R192). -/
def execMul (c : CoreId) (t : ThreadId) (w : Ctl) (s : State) : Host.Outcome State Fault Refusal :=
  controlOp 0x0A c t w (fun s =>
    notReady c t w.dst 3 (onRegs c t (fun r => r.setG w.dst (r.gr w.srca * operandB r w)) (issued c t 1 s))) s

/-- AND (R191). -/
def execAnd (c : CoreId) (t : ThreadId) (w : Ctl) (s : State) : Host.Outcome State Fault Refusal :=
  aluOp 0x0B c t w (fun a b => a &&& b) s

/-- OR (R191). -/
def execOr (c : CoreId) (t : ThreadId) (w : Ctl) (s : State) : Host.Outcome State Fault Refusal :=
  aluOp 0x0C c t w (fun a b => a ||| b) s

/-- XOR (R191). -/
def execXor (c : CoreId) (t : ThreadId) (w : Ctl) (s : State) : Host.Outcome State Fault Refusal :=
  aluOp 0x0D c t w (fun a b => a ^^^ b) s

/-- SHL: shifted left by b[5:0] (R191). -/
def execShl (c : CoreId) (t : ThreadId) (w : Ctl) (s : State) : Host.Outcome State Fault Refusal :=
  aluOp 0x0E c t w (fun a b => a <<< shiftCount b) s

/-- SHR: logical shift right by b[5:0] (R191). -/
def execShr (c : CoreId) (t : ThreadId) (w : Ctl) (s : State) : Host.Outcome State Fault Refusal :=
  aluOp 0x0F c t w (fun a b => a >>> shiftCount b) s

/-- SRA: arithmetic shift right by b[5:0] (R191). -/
def execSra (c : CoreId) (t : ThreadId) (w : Ctl) (s : State) : Host.Outcome State Fault Refusal :=
  aluOp 0x10 c t w (fun a b => a.sshiftRight (shiftCount b)) s

/-- MIN: signed, or unsigned when mod[0] is 1 (R191). -/
def execMin (c : CoreId) (t : ThreadId) (w : Ctl) (s : State) : Host.Outcome State Fault Refusal :=
  aluOp 0x11 c t w (fun a b => if belowBy w a b then a else b) s

/-- MAX: signed, or unsigned when mod[0] is 1 (R191). -/
def execMax (c : CoreId) (t : ThreadId) (w : Ctl) (s : State) : Host.Outcome State Fault Refusal :=
  aluOp 0x12 c t w (fun a b => if belowBy w a b then b else a) s

/-- MOVHI: the immediate above the low word of g[srca] (R191). -/
def execMovhi (c : CoreId) (t : ThreadId) (w : Ctl) (s : State) : Host.Outcome State Fault Refusal :=
  regOp 0x13 c t w (fun r => r.setG w.dst (w.imm ++ (r.gr w.srca).extractLsb' 0 32)) s

/-- CMP: p[dst] := the condition of mod[2:0] on g[srca] and b (R191). -/
def execCmp (c : CoreId) (t : ThreadId) (w : Ctl) (s : State) : Host.Outcome State Fault Refusal :=
  regOp 0x18 c t w (fun r =>
    r.setP w.dst.toNat (cmpCond (w.mod.extractLsb' 0 3).toNat (r.gr w.srca) (operandB r w))) s

/-- PLOG: p[dst] := p[srca] op p[srcb] (R191). -/
def execPlog (c : CoreId) (t : ThreadId) (w : Ctl) (s : State) : Host.Outcome State Fault Refusal :=
  regOp 0x19 c t w (fun r =>
    r.setP w.dst.toNat (plogOp (w.mod.extractLsb' 0 2).toNat (r.pr w.srca.toNat) (r.pr w.srcb.toNat))) s

/-- SEL: g[srca] if p[mod[2:0]], else b (R191). -/
def execSel (c : CoreId) (t : ThreadId) (w : Ctl) (s : State) : Host.Outcome State Fault Refusal :=
  regOp 0x1A c t w (fun r =>
    r.setG w.dst (if r.pr (w.mod.extractLsb' 0 3).toNat then r.gr w.srca else operandB r w)) s

/-- MOVA: a[dst] := g[srca][39:0] (R191). -/
def execMova (c : CoreId) (t : ThreadId) (w : Ctl) (s : State) : Host.Outcome State Fault Refusal :=
  regOp 0x20 c t w (fun r => r.setA w.dst ((r.gr w.srca).setWidth 40)) s

/-- ADDA: a[dst] := (a[srca] + b)[39:0] (R191). -/
def execAdda (c : CoreId) (t : ThreadId) (w : Ctl) (s : State) : Host.Outcome State Fault Refusal :=
  regOp 0x21 c t w (fun r => r.setA w.dst (r.ar w.srca + (operandB r w).setWidth 40)) s

/-- RDA: g[dst] := a[srca], zero-extended (R191). -/
def execRda (c : CoreId) (t : ThreadId) (w : Ctl) (s : State) : Host.Outcome State Fault Refusal :=
  regOp 0x22 c t w (fun r => r.setG w.dst ((r.ar w.srca).setWidth 64)) s

/-! ## Thread accesses (R193, R194) -/

/-- What a thread access may reach: the core's own operand buffer and the scratch of its partition. An atomic acts in scratch
only (R106). -/
def Ev9.threadReaches (e : Ev9) (c : Nat) (atomic : Bool) (a : Nat) : Bool :=
  e.reaches c false false a && match placeOf a with
    | .obuf _ _ => !atomic
    | .scratch _ _ => true
    | _ => false

/-- A thread access of `n` bytes: an unreachable target and then a misalignment are bounds faults of the thread, and the
faulting instruction does not issue (R193, log 20); else `body`. -/
def threadAccess (c : CoreId) (t : ThreadId) (w : Ctl) (n : Nat) (atomic : Bool) (body : Nat → State → State) (s : State) :
    State :=
  let a := (ctlAddr (s.regs c t) w).toNat
  if !s.ev9.threadReaches c atomic a then boundsFault c .reach (fromThread t) (a / 64 * 64) s
  else if a % n ≠ 0 then boundsFault c .misaligned (fromThread t) 0 s
  else body a s

/-- Beats from the issue of a scratch access to its result: its own cluster or the partition's other one, a returning atomic, and the 8
further beats of strict mode (R105). -/
def scrLatency (strict : Bool) (c k : Nat) (atomic : Bool) : Nat :=
  (if c / 4 = k then 20 else 26) + 4 * bit atomic + 8 * bit strict

/-- LD: g[dst] := the 8 bytes at a[srca] + sext(imm) (R192, R193). A load from scratch takes its turn among the accesses of its beat
(R108). A thread register carries no poison (log 21). -/
def execLd (c : CoreId) (t : ThreadId) (w : Ctl) (s : State) : Host.Outcome State Fault Refusal :=
  controlOp 0x28 c t w (threadAccess c t w 8 false fun a s =>
    match placeOf a with
    | .scratch k _ =>
      notReady c t w.dst (scrLatency s.ev9.chip.strict c k false)
        (arriveScr ⟨k, s.ev9.stampBeat k, c, 0, .load t w.dst, [⟨a, [], false⟩]⟩ (issued c t 1 s))
    | _ =>
      notReady c t w.dst 4
        (onRegs c t (fun r => r.setG w.dst (BitVec.ofNat 64 (leNat (s.ev9.loads a 8)))) (issued c t 1 s))) s

/-- ST: the 8 bytes at a[srca] + sext(imm) := g[srcb] (R193). A store to scratch takes its turn among the accesses of its beat
(R108, R116). -/
def execSt (c : CoreId) (t : ThreadId) (w : Ctl) (s : State) : Host.Outcome State Fault Refusal :=
  controlOp 0x29 c t w (threadAccess c t w 8 false fun a s =>
    let v := leBytes 8 ((s.regs c t).gr w.srcb).toNat
    match placeOf a with
    | .scratch k _ => arriveScr ⟨k, s.ev9.stampBeat k, c, 0, .write, [⟨a, v, false⟩]⟩ (issued c t 1 s)
    | _ => onEv9 (Ev9.store a v false) (issued c t 1 s)) s

/-- The format code of a SATOM: mod[1:0]. -/
def satomFormat (w : Ctl) : Nat :=
  match (w.mod.extractLsb' 0 2).toNat with
  | 0 => 0
  | 1 => 1
  | _ => 9

/-- SATOM: one element of scratch is changed by the operation of mod[3:2] with the low bits of g[srcb]; in the returning form g[dst]
receives the old element. It takes its turn among the accesses of its beat (R106–R108, R192, R194). -/
def execSatom (c : CoreId) (t : ThreadId) (w : Ctl) (s : State) : Host.Outcome State Fault Refusal :=
  let fmt := satomFormat w
  let n := atomicBytes fmt
  controlOp 0x2A c t w (threadAccess c t w n true fun a s =>
    let arg := leBytes n (((s.regs c t).gr w.srcb).toNat % 2 ^ (8 * n))
    match placeOf a with
    | .scratch k _ =>
      let ret := if w.dst = 0 then none else some (t, w.dst)
      notReady c t w.dst (scrLatency s.ev9.chip.strict c k true)
        (arriveScr ⟨k, s.ev9.stampBeat k, c, 0, .atomic fmt (w.mod.extractLsb' 2 2).toNat ret, [⟨a, arg, false⟩]⟩ (issued c t 1 s))
    | _ => s) s

/-! ## Branches -/

/-- The branch target imm[12:0]. -/
def ctlTarget (w : Ctl) : BitVec 13 := w.imm.setWidth 13

/-- BR: pc := imm[12:0] (R191, R192). -/
def execBr (c : CoreId) (t : ThreadId) (w : Ctl) (s : State) : Host.Outcome State Fault Refusal :=
  controlOp 0x30 c t w (fun s => branchGap c t (onRegs c t (fun r => { r with pc := ctlTarget w }) (issued c t 1 s))) s

/-- LOOP: g[dst] falls by 1, and the thread branches unless the result is zero (R191, R192, R219). -/
def execLoop (c : CoreId) (t : ThreadId) (w : Ctl) (s : State) : Host.Outcome State Fault Refusal :=
  controlOp 0x31 c t w (fun s =>
    let v := (s.regs c t).gr w.dst - 1
    let s := onRegs c t (fun r => r.setG w.dst v) (issued c t 1 s)
    if v = 0 then s else branchGap c t (onRegs c t (fun r => { r with pc := ctlTarget w }) s)) s

/-! ## Counters and timers (R139, R195) -/

/-- n := imm[15:0]. -/
def ctlN (w : Ctl) : Nat := w.imm.toNat % 65536

/-- SIGNAL: n is added to the counter in the issue beat (R139, R151, R195). -/
def execSignal (c : CoreId) (t : ThreadId) (w : Ctl) (s : State) : Host.Outcome State Fault Refusal :=
  controlOp 0x38 c t w (fun s => signalCore c w.dst.toNat (ctlN w) false (issued c t 1 s)) s

/-- WAIT: with n = 0 the thread goes on at once. Else it waits, and is checked from the end of this beat on, after the beat's additions
and after the waits of the threads that waited before: it subtracts n and goes on as soon as the counter holds n (R139, R151). -/
def execWait (c : CoreId) (t : ThreadId) (w : Ctl) (s : State) : Host.Outcome State Fault Refusal :=
  controlOp 0x39 c t w (fun s =>
    let s := issued c t 1 s
    if ctlN w = 0 then s
    else onThread c t (fun th =>
      { th with waitBeats := 0,
                regs := { th.regs with state := .waiting, waitAc := w.dst, waitN := BitVec.ofNat 16 (ctlN w) } }) s) s

/-- EXPECT: n is added to the expected-arrival count (R139). -/
def execExpect (c : CoreId) (t : ThreadId) (w : Ctl) (s : State) : Host.Outcome State Fault Refusal :=
  controlOp 0x3A c t w (fun s =>
    onCore c (fun x =>
      { x with acorns := tmod {} x.acorns w.dst.toNat fun a =>
          { a with expected := a.expected + BitVec.ofNat 32 (ctlN w) } }) (issued c t 1 s)) s

/-- A timer is set. One that expires in this beat signals first (R153). -/
def Core.armTimer (i : Nat) (k : Timer) (x : Core) : Core :=
  let old := tget {} x.timers i
  let x := if old.armed && old.beats == 0 then x.addAcorn old.ac.toNat 1 false else x
  { x with timers := tput {} x.timers i k }

/-- TIMER: timer mod[2:0] is armed to add 1 to the counter after imm beats; this replaces an earlier arming (R139, R153). -/
def execTimer (c : CoreId) (t : ThreadId) (w : Ctl) (s : State) : Host.Outcome State Fault Refusal :=
  controlOp 0x3B c t w (fun s =>
    onCore c (Core.armTimer (w.mod.extractLsb' 0 3).toNat ⟨true, w.dst, w.imm⟩) (issued c t 1 s)) s

/-- RDAC: g[dst] := the value of counter srca (R191). -/
def execRdac (c : CoreId) (t : ThreadId) (w : Ctl) (s : State) : Host.Outcome State Fault Refusal :=
  controlOp 0x3C c t w (fun s =>
    let v := ((s.ev9.core c).acorn w.srca.toNat).value
    onRegs c t (fun r => r.setG w.dst (v.setWidth 64)) (issued c t 1 s)) s

/-! ## Descriptors (R191, R195) -/

/-- A 64-bit word of a wider value replaced. -/
def putWord {n : Nat} (d : BitVec n) (i : Nat) (v : Dword) : BitVec n :=
  (d &&& ~~~(BitVec.ofNat n (2 ^ 64 - 1) <<< (64 * i))) ||| (v.setWidth n <<< (64 * i))

/-- Word `i` of handle `h` is written; its reserved bits stay zero (R5, R126). -/
def Core.putHandle (h i : Nat) (v : Dword) (x : Core) : Core :=
  { x with handles := tmod 0 x.handles h fun d => descReal (putWord d i v) }

/-- Word `i` of loop descriptor `l` is written, its reserved bits zero; entry 0 takes no write (R5, R129, R130). -/
def Core.putLoop (l i : Nat) (v : Dword) (x : Core) : Core :=
  if l = 0 then x else { x with loops := tmod 0 x.loops l fun d => loopReal (putWord d i v) }

/-- DSET: word mod[1:0] of handle imm[7:0] := g[srca] (R191, R195). -/
def execDset (c : CoreId) (t : ThreadId) (w : Ctl) (s : State) : Host.Outcome State Fault Refusal :=
  controlOp 0x40 c t w (fun s =>
    let v := (s.regs c t).gr w.srca
    onCore c (Core.putHandle (w.imm.toNat % 256) (w.mod.toNat % 4) v) (issued c t 1 s)) s

/-- LSET: word mod[2:0] of loop descriptor imm[5:0] := g[srca]; a write to entry 0 is ignored (R129, R191). -/
def execLset (c : CoreId) (t : ThreadId) (w : Ctl) (s : State) : Host.Outcome State Fault Refusal :=
  controlOp 0x41 c t w (fun s =>
    let v := (s.regs c t).gr w.srca
    onCore c (Core.putLoop (w.imm.toNat % 64) (w.mod.toNat % 8) v) (issued c t 1 s)) s

/-- DGET: g[dst] := word mod[1:0] of handle imm[7:0] (R191). -/
def execDget (c : CoreId) (t : ThreadId) (w : Ctl) (s : State) : Host.Outcome State Fault Refusal :=
  controlOp 0x42 c t w (fun s =>
    let d := (s.ev9.core c).handle (BitVec.ofNat 8 w.imm.toNat)
    onRegs c t (fun r => r.setG w.dst (d.extractLsb' (64 * (w.mod.toNat % 4)) 64)) (issued c t 1 s)) s

/-- VLMAX for an element width (R223). -/
def vlMax (wide16 : Bool) : Nat := if wide16 then 2048 else 1024

/-- SETVL: vl := min(request, VLMAX) goes to g[dst] and, as an entry, into the vector queue; a full queue stalls the thread
(R196). -/
def execSetvl (c : CoreId) (t : ThreadId) (w : Ctl) (s : State) : Host.Outcome State Fault Refusal :=
  controlOp 0x48 c t w (fun s =>
    let r := s.regs c t
    let wide16 := w.mod.getLsbD 0
    let request := if ctlI w then (ctlImm w).toNat else (r.gr w.srca).toNat
    let vl := min request (vlMax wide16)
    let q := s.ev9.capture 0x48 c t ⟨0, 0, 0, 0, false, 0, 0, 0, 0⟩
    let s := enqueue c .vector { q with vl := BitVec.ofNat 12 vl, wide16 := wide16 } (issued c t 1 s)
    retireCore c (onRegs c t (fun r => r.setG w.dst (BitVec.ofNat 64 vl)) s)) s

/-- RDSYS: BEATCOUNT, step number, beat within the step, troupe position or core index (R191). -/
def execRdsys (c : CoreId) (t : ThreadId) (w : Ctl) (s : State) : Host.Outcome State Fault Refusal :=
  controlOp 0x50 c t w (fun s =>
    let k := (s.ev9.part (partOf c)).clk
    let v : Dword := match (w.mod.extractLsb' 0 3).toNat with
      | 0 => k.beatCount
      | 1 => k.step.setWidth 64
      | 2 => k.stepBeat.setWidth 64
      | 3 => match s.ev9.memberOf (partOf c) with
        | some (_, m) => m.position.setWidth 64
        | none => 0
      | _ => BitVec.ofNat 64 c.val
    onRegs c t (fun r => r.setG w.dst v) (issued c t 1 s)) s

end Sys2Proof.Machine
end

