-- ==== Sys2Proof/Machine/Sha.lean ====
section
/-! DEFINITION. Sha.lean: SHA-256 and HMAC-SHA-256, which the spec names for digests (R16, R18) and for MACs (R441, R446). The
functions themselves are those of FIPS 180-4 and FIPS 198-1 (PRESUMED, log 16). -/

namespace Sys2Proof.Machine

open Sys2Proof

/-- The first 64 primes, from whose roots the constants of SHA-256 come. -/
def shaPrimes : List Nat :=
  [2, 3, 5, 7, 11, 13, 17, 19, 23, 29, 31, 37, 41, 43, 47, 53, 59, 61, 67, 71, 73, 79]
    ++ [83, 89, 97, 101, 103, 107, 109, 113, 127, 131, 137, 139, 149, 151, 157, 163, 167, 173, 179]
    ++ [181, 191, 193, 197, 199, 211, 223, 227, 229, 233, 239, 241, 251, 257, 263, 269, 271, 277, 281, 283, 293, 307, 311]

/-- The integer `k`-th root of `n` by its `b` lowest bits, above the bits already found in `r`. -/
def rootFrom (k n : Nat) : Nat → Nat → Nat
  | 0, r => r
  | b + 1, r => rootFrom k n b (if (r + 2 ^ b) ^ k ≤ n then r + 2 ^ b else r)

/-- The first 32 bits of the fraction of a prime's `k`-th root; the whole root is below 8. -/
def rootFraction (k p : Nat) : Word := BitVec.ofNat 32 (rootFrom k (p * 2 ^ (32 * k)) 35 0)

/-- The 64 round constants: cube roots. -/
def shaK : List Word := shaPrimes.map (rootFraction 3)

/-- The eight chaining words. -/
structure ShaState where
  a : Word
  b : Word
  c : Word
  d : Word
  e : Word
  f : Word
  g : Word
  h : Word
  deriving DecidableEq, Repr

/-- The initial chaining words: square roots of the first eight primes. -/
def shaInit : ShaState :=
  let w (p : Nat) : Word := rootFraction 2 p
  ⟨w 2, w 3, w 5, w 7, w 11, w 13, w 17, w 19⟩

/-- The next word of the message schedule, from the schedule held latest first. -/
def shaNext (w : List Word) : Word :=
  let x1 := (w[1]?).getD 0
  let x14 := (w[14]?).getD 0
  let s1 := x1.rotateRight 17 ^^^ x1.rotateRight 19 ^^^ (x1 >>> 10)
  let s0 := x14.rotateRight 7 ^^^ x14.rotateRight 18 ^^^ (x14 >>> 3)
  s1 + (w[6]?).getD 0 + s0 + (w[15]?).getD 0

/-- The schedule, latest first, after `n` more words. -/
def shaExtend : Nat → List Word → List Word
  | 0, w => w
  | n + 1, w => shaExtend n (shaNext w :: w)

/-- One round. -/
def shaRound (s : ShaState) (k w : Word) : ShaState :=
  let s1 := s.e.rotateRight 6 ^^^ s.e.rotateRight 11 ^^^ s.e.rotateRight 25
  let ch := (s.e &&& s.f) ^^^ (~~~s.e &&& s.g)
  let t1 := s.h + s1 + ch + k + w
  let s0 := s.a.rotateRight 2 ^^^ s.a.rotateRight 13 ^^^ s.a.rotateRight 22
  let maj := (s.a &&& s.b) ^^^ (s.a &&& s.c) ^^^ (s.b &&& s.c)
  ⟨t1 + (s0 + maj), s.a, s.b, s.c, s.d + t1, s.e, s.f, s.g⟩

/-- The big-endian word of four bytes. -/
def beWord (l : List Byte) : Word := BitVec.ofNat 32 (leNat l.reverse)

/-- The big-endian bytes of a word. -/
def beBytes (w : Word) : List Byte := (leBytes 4 w.toNat).reverse

/-- One block of 64 bytes. -/
def shaBlock (s : ShaState) (l : List Byte) : ShaState :=
  let first := ((List.range 16).map fun i => beWord (slice l (4 * i) 4)).reverse
  let w := (shaExtend 48 first).reverse
  let r := (shaK.zip w).foldl (fun s kw => shaRound s kw.1 kw.2) s
  ⟨s.a + r.a, s.b + r.b, s.c + r.c, s.d + r.d, s.e + r.e, s.f + r.f, s.g + r.g, s.h + r.h⟩

/-- All blocks, `n` of them. -/
def shaBlocks : Nat → ShaState → List Byte → ShaState
  | 0, s, _ => s
  | n + 1, s, l => shaBlocks n (shaBlock s (l.take 64)) (l.drop 64)

/-- SHA-256. -/
def sha256 (m : List Byte) : List Byte :=
  let pad := (119 - m.length % 64) % 64
  let full := m ++ [0x80] ++ List.replicate pad 0 ++ (leBytes 8 (8 * m.length)).reverse
  let s := shaBlocks (full.length / 64) shaInit full
  [s.a, s.b, s.c, s.d, s.e, s.f, s.g, s.h].flatMap beBytes

/-- HMAC-SHA-256 under a key of at most 64 bytes. -/
def hmacSha256 (key m : List Byte) : List Byte :=
  let k := padTo 64 key
  sha256 (k.map (· ^^^ 0x5c) ++ sha256 (k.map (· ^^^ 0x36) ++ m))

end Sys2Proof.Machine
end

