-- ==== Sys2Proof/Machine/ImageParse.lean ====
section
/-! DEFINITION. ImageParse.lean: the schedule image (R16–R22) and the checks that IMAGE_LOAD makes on it (R96, R120, R190, R263,
R276, R374, R485). Bytes that a layout calls reserved are ignored (R5). -/

namespace Sys2Proof.Machine

open Sys2Proof

/-- A directory entry (R18). -/
structure Section where
  type : Nat
  position : Nat
  core : Nat
  index : Nat
  offset : Nat
  length : Nat
  digest : List Byte
  deriving DecidableEq, Repr

/-- The header is within the limits of R16 and R17. -/
def headerOk (img : List Byte) : Bool :=
  let mode := byteAt img 14
  let modes := (mode &&& 3).toNat
  256 ≤ img.length && fieldAt img 0 4 == 0x39564C45 && fieldAt img 4 2 == 1
    && decide (1 ≤ fieldAt img 6 2) && fieldAt img 6 2 ≤ 1024
    && decide (4096 ≤ fieldAt img 8 4) && fieldAt img 8 4 ≤ 16777216
    && decide (1 ≤ fieldAt img 12 2) && fieldAt img 12 2 ≤ 512
    && modes != 0 && (mode &&& 0x1C == 0 || modes == 1)
    && decide (fieldAt img 16 4 < fieldAt img 8 4) && decide (1 ≤ fieldAt img 20 2)
    && fieldAt img 24 8 % 64 == 0 && fieldAt img 24 8 + 64 * fieldAt img 20 2 ≤ img.length

/-- Entry `i` of the directory at byte `dir`. -/
def sectionAt (img : List Byte) (dir i : Nat) : Section :=
  let e := slice img (dir + 64 * i) 64
  ⟨fieldAt e 0 2, fieldAt e 2 2, fieldAt e 4 1, fieldAt e 5 1, fieldAt e 8 8, fieldAt e 16 8, slice e 24 32⟩

/-- Every section of the directory. -/
def sectionsOf (img : List Byte) : List Section :=
  (List.range (fieldAt img 20 2)).map (sectionAt img (fieldAt img 24 8))

/-- The bytes of a section. -/
def Section.bytes (x : Section) (img : List Byte) : List Byte := slice img x.offset x.length

/-- The section has a type of R19 and lies within the image. The spec names no status for one that runs beyond the image's end: like any
invalid image it is BAD_PARAM (DESIGN CHOICE, log 52). -/
def Section.ok (img : List Byte) (x : Section) : Bool :=
  decide (1 ≤ x.type) && decide (x.type ≤ 0x0B) && decide (x.offset + x.length ≤ img.length)

/-- The section is loaded by the member at a position. -/
def Section.isFor (pos : Nat) (x : Section) : Bool := x.position == pos || x.position == 0xFFFF

/-- The directory digest and every section digest match (R16, R18, R23). -/
def digestsOk (img : List Byte) : Bool :=
  sha256 (slice img (fieldAt img 24 8) (64 * fieldAt img 20 2)) == slice img 32 32
    && (sectionsOf img).all fun x => sha256 (x.bytes img) == x.digest

/-- An entry of the member table (R20). -/
def memberEntryAt (b : List Byte) (i : Nat) : MemberEntry :=
  let e := slice b (16 + 16 * i) 16
  { partitions := byteAt e 0, entryChip := (byteAt e 1).getLsbD 0, exitChip := (byteAt e 1).getLsbD 1,
    ev7 := (byteAt e 1).getLsbD 2, laneFirst := fieldAt e 2 2, laneCount := fieldAt e 4 2 }

/-- The lanes that the entry chips declare are disjoint and cover 0 to batch − 1 exactly (R14). -/
def lanesOk (t : List MemberEntry) (batch : Nat) : Bool :=
  let es := t.filter (·.entryChip)
  es.foldl (fun n e => n + e.laneCount) 0 == batch
    && (List.range batch).all fun l => es.any fun e => decide (e.laneFirst ≤ l) && decide (l < e.laneFirst + e.laneCount)

/-- The member table's conditions (R20). -/
def memberTableOk (b : List Byte) (members batch : Nat) (ev7Allowed : Bool) (t : List MemberEntry) : Bool :=
  fieldAt b 0 2 == members && decide (16 + 16 * members ≤ b.length)
    && t.all (fun e => e.partitions != 0) && lanesOk t batch
    && t.any (·.entryChip) && t.any (·.exitChip) && (ev7Allowed || t.all fun e => !e.ev7)

/-- An entry of the cue tree (R21). -/
def cueEntryAt (b : List Byte) (i : Nat) : CueEntry :=
  let e := slice b (16 + 8 * i) 8
  ⟨BitVec.ofNat 16 (fieldAt e 0 2), byteAt e 2, byteAt e 3, BitVec.ofNat 32 (fieldAt e 4 4)⟩

/-- Position 0 is reached from `i` within `n` parent links. -/
def reachesRoot (t : List CueEntry) : Nat → Nat → Bool
  | _, 0 => true
  | 0, _ => false
  | n + 1, i =>
    match t[i]? with
    | none => false
    | some e => reachesRoot t n e.parent.toNat

/-- The port plan section gives a port to a neighbour position (R275, R276); without the section it gives none. -/
def planGives (plan : Option (List Byte)) (port pos : Nat) : Bool :=
  match plan with
  | some b => fieldAt b (16 + 16 * port) 2 == pos
  | none => false

/-- The cue tree's conditions (R21). -/
def cueTreeOk (b : List Byte) (plan : Option (List Byte)) (members pos : Nat) (t : List CueEntry) : Bool :=
  fieldAt b 0 2 == members && decide (16 + 8 * members ≤ b.length)
    && (match t[0]? with
        | none => false
        | some e => e.parent == 0xFFFF)
    && ((List.range members).all fun i => i == 0 ||
        match t[i]? with
        | none => false
        | some e => decide (e.parent.toNat < members) && e.parent.toNat != i && reachesRoot t members i
            && decide (e.rxPort.toNat ≤ 11) && decide (e.txPort.toNat ≤ 11)
            && (i != pos || planGives plan e.rxPort.toNat e.parent.toNat)
            && (e.parent.toNat != pos || planGives plan e.txPort.toNat i))

/-- A weights section (R22). -/
structure Weights where
  core : Nat
  sealBase : Nat
  sealLimit : Nat
  offset : Nat
  data : List Byte
  deriving DecidableEq, Repr

/-- The header and data of a weights section. -/
def weightsOf (x : Section) (img : List Byte) : Weights :=
  let b := x.bytes img
  ⟨x.core, fieldAt b 0 2, fieldAt b 2 2, fieldAt b 8 8, b.drop 64⟩

/-- The limits of R22 on one weights section. -/
def weightsOk (x : Section) (img : List Byte) : Bool :=
  let b := x.bytes img
  let w := weightsOf x img
  let len := fieldAt b 16 8
  decide (64 ≤ b.length) && b.length == 64 + len && len % 64 == 0 && decide (64 ≤ len)
    && decide (w.sealBase < w.sealLimit) && decide (w.sealLimit ≤ 768) && w.offset % 64 == 0
    && decide (65536 * w.sealBase ≤ w.offset) && decide (w.offset + len ≤ 65536 * w.sealLimit)

/-- The words of an instruction stream. -/
def streamWords (b : List Byte) : List Dword :=
  (List.range (b.length / 8)).map fun i => BitVec.ofNat 64 (fieldAt b (8 * i) 8)

/-- An instruction stream section (R120, R190). -/
def streamSectionOk (mode : Byte) (b : List Byte) : Bool :=
  decide (b.length ≤ 65536) && b.length % 8 == 0 && streamOk mode (streamWords b)

/-- Entry `i` of a slot table (R260). -/
def slotEntryAt (b : List Byte) (i : Nat) : BitVec 32 := BitVec.ofNat 32 (fieldAt b (4 * i) 4)

/-- A slot table section's router and output (R263). -/
def Section.router (x : Section) : Nat := x.index / 8
/-- The output that a slot table section is for. -/
def Section.output (x : Section) : Nat := x.index % 8

/-- One slot table of a member with the given partitions (R263): every entry of a mesh router names the router's partition as its owner,
valid or not. -/
def slotTableOk (parts : BitVec 8) (img : List Byte) (x : Section) : Bool :=
  x.length == 256 && x.core == 0xFF && outputExists x.router x.output
    && (decide (16 ≤ x.router) ||
      (maskBit parts (x.router / 2) && (List.range 64).all fun i =>
        slotOwner (slotEntryAt (x.bytes img) i) == x.router / 2))

/-- Two slot tables of one router do not give one input and VC to two outputs in one beat (R263). -/
def slotPairOk (img : List Byte) (x y : Section) : Bool :=
  x.router != y.router || x.output == y.output || (List.range 64).all fun i =>
    let a := slotEntryAt (x.bytes img) i
    let b := slotEntryAt (y.bytes img) i
    !(slotValid a && slotValid b && slotSource a == slotSource b)

/-- The carousel plan's entries (R96). -/
def carouselOf (b : List Byte) : List CarouselEntry :=
  (List.range (fieldAt b 4 4)).map fun i =>
    let e := slice b (8 + 8 * i) 8
    ⟨fieldAt e 0 1, fieldAt e 2 2, fieldAt e 4 4⟩

/-- The carousel plan's conditions (R96). -/
def carouselOk (parts : BitVec 8) (stepLength : Nat) (b : List Byte) : Bool :=
  decide (1 ≤ fieldAt b 0 2) && decide (fieldAt b 0 2 ≤ 256) && decide (8 + 8 * fieldAt b 4 4 ≤ b.length)
    && (carouselOf b).all fun e => decide (e.core < 64) && maskBit parts (e.core / 8)
      && decide (e.stepInCycle < fieldAt b 0 2) && decide (e.startBeat + 3000 ≤ stepLength)

/-- What a load writes besides the image itself. -/
structure LoadPlan where
  image : Image
  streams : List (Nat × Nat × List Dword)
  handles : List (Nat × List (BitVec 256))
  loops : List (Nat × List (BitVec 512))
  weights : List Weights
  /-- router, output, entries -/
  slots : List (Nat × Nat × List (BitVec 32))
  deriving DecidableEq, Repr

/-- The outcome of the checks: a plan, or a status with its result. -/
inductive LoadResult where
  | ok (p : LoadPlan)
  | bad (status : Nat) (result : List Byte)
  deriving DecidableEq, Repr

/-- The per-core types (R19): streams, descriptors, loops and weights. -/
def perCoreTypes : List Nat := [1, 2, 3, 0x0B]

/-- A per-core section names a core of the member that is not retired, and a stream one of four threads (R22, R485). The spec says so for
weights; a stream, descriptor or loop section for a core outside the member's partitions is BAD_PARAM likewise (DESIGN CHOICE,
log 52). -/
def coreSectionOk (parts : BitVec 8) (retired : Nat → Bool) (x : Section) : Bool :=
  decide (x.core < 64) && maskBit parts (x.core / 8) && !retired x.core && (x.type != 1 || decide (x.index < 4))

/-- A section has the length of its layout; one of another length is BAD_PARAM (DESIGN CHOICE, log 52). -/
def Section.lengthOk (x : Section) : Bool :=
  match x.type with
  | 2 => x.length == 8192
  | 3 => x.length == 4096
  | 5 => x.length == 48
  | 6 => x.length == 1232
  | 8 => x.length == 16
  | _ => true

/-- The numbers of a fixed width that a byte string holds one after another. -/
def chunks (n count : Nat) (b : List Byte) : List Nat := (List.range count).map fun i => fieldAt b (n * i) n

/-- No pair of a list's elements at different places fails a test. -/
def allPairs {α : Type} (f : α → α → Bool) : List α → Bool
  | [] => true
  | x :: r => r.all (f x) && allPairs f r

/-- The first port whose plan entry differs from the one in force (R276). -/
def planMismatch (plan : List Byte) (inForce : Nat → BitVec 128) : Option Nat :=
  (List.range 12).find? fun n => BitVec.ofNat 128 (fieldAt plan (16 + 16 * n) 16) != inForce n

/-- The valid routes of a route table: logical port by destination position (R276). -/
def routesOf (plan : List Byte) : Table Nat :=
  (List.range 1024).filterMap fun i =>
    let b := byteAt plan (208 + i)
    if b.getLsbD 7 then some (i, (b &&& 0x0F).toNat) else none

/-- Where an image has several sections of one type for the member, of a type that it needs once, the first of the directory counts
(DESIGN CHOICE, log 52). The checks of IMAGE_LOAD on an image, for the member at a position (R16–R22, R96, R120, R190, R263, R276, R374, R485). -/
def parseImage (img : List Byte) (pos : Nat) (parts : BitVec 8) (retired : Nat → Bool) (inForce : Nat → BitVec 128) :
    LoadResult :=
  let bad : LoadResult := .bad 0x11 []
  if !headerOk img then bad
  else
    let all := sectionsOf img
    let members := fieldAt img 6 2
    let mode := byteAt img 14
    let own := all.filter (Section.isFor pos)
    let ofType (n : Nat) : List Section := own.filter fun x => x.type == n
    let first (n : Nat) : List Byte := match ofType n with
      | x :: _ => x.bytes img
      | [] => []
    let plan := first 6
    let table := (List.range members).map (memberEntryAt (first 9))
    let tree := (List.range members).map (cueEntryAt (first 0x0A))
    let tables := ofType 4
    let gate := if (ofType 8).isEmpty then 0 else fieldAt (first 8) 0 1
    let checks :=
      all.all (Section.ok img) && own.all Section.lengthOk
        && (all.filter fun x => x.type == 9).length == 1 && (all.filter fun x => x.type == 0x0A).length == 1
        && memberTableOk (first 9) members (fieldAt img 12 2) (mode.getLsbD 4) table
        && cueTreeOk (first 0x0A) ((ofType 6).head?.map fun x => x.bytes img) members pos tree
        && (own.filter fun x => perCoreTypes.contains x.type).all (coreSectionOk parts retired)
        && (ofType 1).all (fun x => streamSectionOk mode (x.bytes img))
        && (ofType 0x0B).all (fun x => weightsOk x img)
        && allPairs (fun x y => x.core != y.core) (ofType 0x0B)
        && tables.all (slotTableOk parts img) && allPairs (slotPairOk img) tables
        && (ofType 7).all (fun x => carouselOk parts (fieldAt img 8 4) (x.bytes img))
        && decide (gate ≤ 1)
    if !checks then bad
    else
      match if (ofType 6).isEmpty then none else planMismatch plan inForce with
      | some n => .bad 0x13 [BitVec.ofNat 8 n]
      | none =>
        .ok {
          image := {
            members := members, stepLength := fieldAt img 8 4, stepBatch := fieldAt img 12 2, mode := mode,
            startPace := Fin.ofNat 8 (fieldAt img 15 1), admissionCut := fieldAt img 16 4, table := table,
            cueTree := tree, hops := chunks 4 12 (first 5) |>.map (· % 65536), routes := routesOf plan,
            cycleSteps := fieldAt (first 7) 0 2, carousel := carouselOf (first 7), gate := gate == 1,
            seed := BitVec.ofNat 32 (fieldAt (first 8) 4 4), digestsOk := digestsOk img, sections := own.length },
          streams := (ofType 1).map fun x => (x.core, x.index, streamWords (x.bytes img)),
          handles := (ofType 2).map fun x => (x.core, (chunks 32 256 (x.bytes img)).map (BitVec.ofNat 256)),
          loops := (ofType 3).map fun x => (x.core, (chunks 64 64 (x.bytes img)).map (BitVec.ofNat 512)),
          weights := (ofType 0x0B).map fun x => weightsOf x img,
          slots := tables.map fun x => (x.router, x.output, (List.range 64).map (slotEntryAt (x.bytes img))) }

end Sys2Proof.Machine
end

