-- ==== Sys2Proof/Machine/Links.lean ====
section
/-! DEFINITION. Links.lean: the Synsen ports: flits and credits, training, identities, replay and sleep (R66, R265–R297). -/

namespace Sys2Proof.Machine

open Sys2Proof

/-! ## Flits and credits (R66, R265–R270, R281, R284, R346, R349) -/

/-- A discarded flit: its place is never held, and a scheduled flit's credit returns at once. -/
def discardFlit (port : PortId) (vc : Nat) (s : State) : State :=
  let s := onNoc (fun x => { x with drop := satAdd x.drop 1 }) s
  if vc < 4 then emit (.credit port (Fin.ofNat 4 vc) 1) s else s

/-- The hop allowance of a port's role, if an ON partition uses it (R284). -/
def Ev9.allowance (e : Ev9) (n : Nat) : Option Nat :=
  match e.portOwner n with
  | none => none
  | some p =>
    if (e.part p).state != .on then none
    else match e.memberOf p with
      | none => none
      | some (_, m) => match m.image with
        | none => none
        | some g => match g.hops[(e.port n).logical.toNat]? with
          | some h => if h = 0 then none else some h
          | none => none

/-- The measured hop of a port is above the allowance of its role (R284). -/
def Ev9.hopAbove (e : Ev9) (n : Nat) : Bool :=
  match e.allowance n with
  | some h => decide (h < (e.port n).hop.toNat)
  | none => false

/-- The code that the receiving port puts on a flit that it delays: link replay, while a replay runs or the hop is above its
allowance (R281, R284). -/
def Ev9.portCode (e : Ev9) (n : Nat) : Option Nat :=
  if (e.port n).replayLeft != 0 || e.hopAbove n then some 2 else none

/-- A flit takes a place of its port and VC and waits at the station (R269). -/
def enterPort (port : PortId) (hdr : Dword) (payload : List Byte) (part : Nat) (s : State) : State :=
  let f : Flit := { hdr := hdr, payload := payload, part := part, port := some port, points := bit (headerOf hdr).mark }
  let f := f.retag (s.ev9.portCode port.val)
  let k := bufIndex (16 + port.val) 3 f.vc 0
  if f.vc < 4 then
    pushFlit k { f with place := some (.port port) } (onPort port (Port.arrive f.vc) s)
  else pushFlit k f s

/-- A data flit for the member itself: one for a partition that is not the member's, or is not ON, is discarded (R270, R346). -/
def acceptFlit (port : PortId) (hdr : Dword) (payload : List Byte) (m : Member) (s : State) : State :=
  let h := headerOf hdr
  if maskBit m.mask (partOf h.dcore) && (s.ev9.part (partOf h.dcore)).state == .on then
    enterPort port hdr payload (partOf h.dcore) s
  else discardFlit port h.vc s

/-- A flit for another position goes on to the port of its route; without a route it is discarded (R270). -/
def forwardFlit (port : PortId) (hdr : Dword) (payload : List Byte) (m : Member) (s : State) : State :=
  match s.ev9.route m (headerOf hdr).dpos, s.ev9.portOwner port.val with
  | some _, some p => enterPort port hdr payload p s
  | _, _ => discardFlit port (headerOf hdr).vc s

/-- A control message for this member, by its type in payload byte 0 (R268, R379). The bytes beyond those of R268 that READY and
ADMIT_COUNT carry are those of PACE_REQUEST and a count in bytes 6–7 (DESIGN CHOICE, log 54). -/
def takeMessage (port : PortId) (payload : List Byte) (s : State) : Host.Outcome State Fault Refusal :=
  let troupe := BitVec.ofNat 16 (fieldAt payload 2 2)
  let position := BitVec.ofNat 16 (fieldAt payload 4 2)
  let b := byteAt payload 6
  let pace := toPace b.toNat
  let step := BitVec.ofNat 48 (fieldAt payload 8 6)
  match (byteAt payload 0).toNat with
  | 1 => execReadyReceive port troupe position pace s
  | 2 =>
    if b.getLsbD 4 then execPrepareNoticeReceive port troupe pace step s
    else execPaceRequestReceive port troupe position pace (b.getLsbD 3) step s
  | 3 => execStopForwardReceive port troupe position s
  | 4 => execAdmitCountReceive port troupe position (fieldAt payload 6 2) s
  | _ => execUnknownControlMessage port (byteAt payload 0) s

/-- FLIT_ARRIVAL (R66, R268–R270, R280, R349): a flit arrives on a port. A data flit for this member waits in the port's buffer for
the edge; a cue or a control message for it is taken; what is for another position goes on; what has no way is discarded, and so is
everything on a FENCED port. -/
def execFlitArrival (port : PortId) (hdr : Dword) (payload : Carried) (s : State) :
    Host.Outcome State Fault Refusal :=
  let h := headerOf hdr
  let x := s.ev9.port port
  if !s.ev9.up || !(x.state == .active || x.state == .fenced) then stay s
  else
    let now := s.ev9.noc.edgeBeat
    let s := onPort port (Port.hear payload.corrected now) s
    if x.state == .fenced then .next (discardFlit port h.vc s)
    else
      match s.ev9.portMember port with
      | none => .next (discardFlit port h.vc s)
      | some (_, m) =>
        if h.dpos ≠ m.position.toNat then .next (forwardFlit port hdr payload.bytes m s)
        else match h.kind with
          | 0 => .next (acceptFlit port hdr payload.bytes m s)
          | 1 => execCueArrival port (payload.bytes.take 16) false s
          | 2 => takeMessage port payload.bytes s
          | _ => .next (discardFlit port h.vc s)

/-- CREDIT_RETURN_RECEIVE (R61, R66, R293): places are free again, and a curl for want of them has only its 16 beats left. -/
def execCreditReturnReceive (port : PortId) (vc : Fin 4) (n : Nat) (s : State) : Host.Outcome State Fault Refusal :=
  .next (settleCredits (onPort port (fun x => { x with spent := tmod 0 x.spent vc.val fun k => k - n }) s))

/-! ## Step faults of strict ports (R282) -/

/-- A strict port loses a codeword or retrains: the record, and the step of the receiving partition faults. -/
def strictFault (n : Nat) (s : State) : State :=
  match s.ev9.portOwner n with
  | none => faultRecord { source := 7, part := none, cause := 0x0400, d0 := n } s
  | some p =>
    let step := (s.ev9.part p).clk.step.toNat
    let running := match s.ev9.memberOf p with
      | some (_, m) => m.run == .running
      | none => false
    let s := faultRecord { source := 7, part := some p, stepFault := running, cause := 0x0400, d0 := n, d1 := step % 2 ^ 32,
                           d2 := step / 2 ^ 32 } s
    if running then stepFault p stFaultLink s else s

/-! ## Training (R272–R274, R281, R284) -/

/-- A port retrains from stage 1 if it is in use; in strict mode that faults the step (R282). -/
def retrainPort (n : Nat) (s : State) : State :=
  let x := s.ev9.port n
  if x.state == .disabled || x.state == .fenced || !x.enable || !planUsed x.plan then s
  else
    let busy := x.state.inRole && !s.ev9.hasReplay n
    let s := onPort n (Port.beginTraining s.ev9.chip.trPresent .full) s
    if busy then strictFault n s else s

/-- A port retrains keeping its role: stages after the first, or stage 6 alone (R281, R467). -/
def retrainRole (n : Nat) (six : Bool) (s : State) : State :=
  let busy := !s.ev9.hasReplay n
  let s := onPort n (Port.beginTraining s.ev9.chip.trPresent (if six then .six else .role)) s
  if busy then strictFault n s else s

/-- The offset of SNL_CFG_s. -/
def offSnlCfg (n : Nat) : Nat := 0x1200000 + 0x10000 * n

/-- The RWI fields of SNL_CFG_s. -/
def Port.setCfg (v : Dword) (x : Port) : Port :=
  { x with enable := v.getLsbD 0, genMax := BitVec.ofNat 2 (field v 2 1), autoSleep := v.getLsbD 3, autoLs2 := v.getLsbD 4,
           idle := BitVec.ofNat 32 (field v 63 32) }

/-- A write of SNL_CFG_s: the RWI fields, and retrain (R272, R290). -/
def writeSnlCfg (path : RegPath) (n : Nat) (v : Dword) (s : State) : State :=
  let s := privWrite path .installer (offSnlCfg n) v.toNat (onPort n fun x => (x.setCfg v).settle s.ev9.chip.trPresent) s
  if v.getLsbD 5 then retrainPort n s else s

/-- SNL_CFG_WRITE (R272, R290). -/
def execSnlCfgWrite (path : RegPath) (port : PortId) (value : Dword) (s : State) : Host.Outcome State Fault Refusal :=
  pathWrite path path.isEv9 (writeSnlCfg path port value) s

/-- SNL_CFG_RETRAIN (R273, R290): writing 1 to retrain, which asks for no role. -/
def execSnlCfgRetrain (path : RegPath) (port : PortId) (s : State) : Host.Outcome State Fault Refusal :=
  pathWrite path path.isEv9 (retrainPort port) s

/-- LANE_SIGNAL_CHANGE (R272, R502): every lane of a port loses or regains its signal. -/
def execLaneSignalChange (port : PortId) (sig : LaneSignal) (s : State) : Host.Outcome State Fault Refusal :=
  let x := s.ev9.port port
  if !s.ev9.up then stay s
  else
    match sig with
    | .lost =>
      if x.state == .linked then .next (onPort port (Port.beginTraining s.ev9.chip.trPresent .full) s) else stay s
    | .regained =>
      if x.state == .refused || x.state == .down then
        .next (onPort port (Port.beginTraining s.ev9.chip.trPresent .full) s)
      else stay s

/-- The lanes come in full reversal: Lk is received as L(7 − k) (R273). -/
def lanesReversed (r : TrainResult) : Bool :=
  decide (r.order.length = 8) && (List.range 8).all fun k => (r.order.getD k 0).val == 7 - k

/-- Lane k has a finding of stage 1: an open, a short to a supply or to ground, or a short to another lane, of which both are excluded;
or, unless all lanes are reversed, it is received as another lane (R273). -/
def laneBad (r : TrainResult) (k : Nat) : Bool :=
  let f (i : Nat) : Nat := (r.lane.extractLsb' (8 * i) 8).toNat
  f k % 16 != 0 || ((List.range 8).any fun i => f i / 8 % 2 == 1 && f i / 16 == k)
    || (!lanesReversed r && decide (k < r.order.length) && (r.order.getD k 0).val != k)

/-- The lanes that are good at both ends and that no finding of the first two stages excludes. -/
def goodLanes (r : TrainResult) : BitVec 8 :=
  (List.range 8).foldl (fun m k => if laneBad r k then clrBit m k else m) r.lanesGood

/-- The widest width that good lanes form, with its lanes, lowest group first (R271, R273). -/
def laneGroup (good : BitVec 8) : Option (Nat × Nat) :=
  let has (m : Nat) : Bool := good.toNat &&& m == m
  ([(2, 0xFF), (1, 0x0F), (1, 0xF0), (0, 0x03), (0, 0x0C), (0, 0x30), (0, 0xC0)].find? fun g => has g.2)

/-- The generation: the highest both ends advertise, within gen_max, and SNL-2 at most at protocol level 2 (R273, R289, R290). -/
def Port.chooseGen (g : Nat) (x : Port) : Nat :=
  let m := min g (max 1 x.genMax.toNat)
  if planLevel x.plan = 2 then min m 2 else m

/-- A measured time rounded up to a multiple of 4 beats (R283). -/
def roundUp4 (n : BitVec 16) : BitVec 16 := BitVec.ofNat 16 ((n.toNat + 3) / 4 * 4)

/-- What training leaves in a port's registers. -/
def Port.measured (r : TrainResult) (width lanes : Nat) (x : Port) : Port :=
  { x with lane := r.lane, reversed := lanesReversed r, polarity := r.polarity, gen := BitVec.ofNat 2 (x.chooseGen r.gen.val),
           width := BitVec.ofNat 2 width, lanesGood := BitVec.ofNat 8 lanes, hop := roundUp4 r.hop, replay := roundUp4 r.replay,
           level := BitVec.ofNat 2 (planLevel x.plan) }

/-- A SNL_LANE_DEGRADED record (R274, R284). -/
def degradedRecord (n : Nat) (above : Bool) (s : State) : State :=
  let x := s.ev9.port n
  faultRecord { source := 7, part := s.ev9.portOwner n, cause := 0x0402, d0 := n,
                d1 := x.lane.toNat % 2 ^ 31 + 2 ^ 31 * bit above, d2 := x.width.toNat } s

/-- The offset of SNL_STATUS_s. -/
def offSnlStatus (n : Nat) : Nat := 0x1200008 + 0x10000 * n

/-- A hop above the allowance is flagged and recorded (R284). -/
def checkHop (n : Nat) (s : State) : State :=
  if s.ev9.hopAbove n then
    degradedRecord n true
      (noteSet (offSnlStatus n) 11 (s.ev9.port n).hopOver (onPort n (fun x => { x with hopOver := true }) s))
  else s

/-- A port goes DOWN for a reason. -/
def portDown (n reason : Nat) (s : State) : State :=
  checkPortJoin n (onPort n (fun x =>
    { x with state := .down, reason := BitVec.ofNat 4 reason, retrain := false, stage6 := false }) s)

/-- A trained port of good width: LINKED, or back in its role after a retrain that kept it. -/
def portTrained (n : Nat) (s : State) : State :=
  let x := s.ev9.port n
  if x.retrain then
    checkHop n (onPort n (fun x => { x with state := .active, retrain := false, stage6 := false, attempts := 0 }) s)
  else sendIdentity n (onPort n (fun x => { x with state := .linked, attempts := 0, stage6 := false, remapped := false }) s)

/-- TRAINING_COMPLETE (R273, R274, R281–R284, R288): width, generation, hop and replay time are known; the port is LINKED, or DOWN
with reason 7 or 8. -/
def execTrainingComplete (port : PortId) (r : TrainResult) (s : State) : Host.Outcome State Fault Refusal :=
  if !s.ev9.up || !s.ev9.chip.trPresent || (s.ev9.port port).state != .training then stay s
  else
    match laneGroup (goodLanes r) with
    | none => .next (portDown port 8 (onPort port (fun x => { x with lane := r.lane, lanesGood := 0 }) s))
    | some (w, lanes) =>
      let s := onPort port (Port.measured r w lanes) s
      let s := if w < 2 then degradedRecord port false s else s
      .next (if w < planWidth (s.ev9.port port).plan then portDown port 7 s else portTrained port s)

/-- TRAINING_FAIL (R273, R281, R288): a failed attempt repeats up to 3 times, then the port is DOWN with reason 9; a failed retrain of R281
is DOWN with reason 10. -/
def execTrainingFail (port : PortId) (s : State) : Host.Outcome State Fault Refusal :=
  let x := s.ev9.port port
  if !s.ev9.up || !s.ev9.chip.trPresent || x.state != .training then stay s
  else if x.retrain then .next (portDown port 10 s)
  else if 3 ≤ x.attempts then .next (portDown port 9 (onPort port (fun x => { x with attempts := 0 }) s))
  else .next (onPort port (fun x => { x with attempts := x.attempts + 1 }) s)

/-! ## Identities (R277–R279, R289, R297) -/

/-- The bits of SNL_IDENT_s. -/
def identityBits (i : Identity) : BitVec 35 :=
  BitVec.ofNat 35 (i.troupe.toNat + 2 ^ 16 * i.position.toNat + 2 ^ 28 * i.port.toNat + 2 ^ 32 * bit i.strict
    + 2 ^ 33 * i.level.toNat)

/-- The identity that SNL_IDENT_s holds. -/
def identityOf (x : BitVec 35) : Identity :=
  { troupe := x.extractLsb' 0 16, position := x.extractLsb' 16 10, port := x.extractLsb' 28 4, strict := x.getLsbD 32,
    level := x.extractLsb' 33 2 }

/-- Why an identity does not match a plan entry; none where it matches. -/
def idMismatch (t : Nat) (d : BitVec 128) (i : Identity) : Option Nat :=
  if i.troupe.toNat ≠ t then some 1
  else if i.position.toNat ≠ planPos d then some 2
  else if !planAccepts d i.port.toNat then some 3
  else none

/-- Another port plays the role of logical port `k`. -/
def Ev9.roleTaken (e : Ev9) (n k : Nat) : Bool :=
  (List.range 12).any fun i => i != n && ((e.port i).state.inRole || (e.port i).retrain) && (e.port i).logical.toNat == k

/-- The other entries of a port's group that an identity matches. -/
def Ev9.groupMatches (e : Ev9) (t n : Nat) (i : Identity) : List Nat :=
  let g := planGroup (e.port n).plan
  if g = 0 then []
  else (List.range 12).filter fun k => k != n && planGroup (e.port k).plan == g && planUsed (e.port k).plan
    && e.portOwner k == e.portOwner n && (idMismatch t (e.port k).plan i).isNone

/-- The role that an identity gives a port, or the reason for which it is refused (R277, R278). -/
def Ev9.assignRole (e : Ev9) (t n : Nat) (i : Identity) : Nat ⊕ Nat :=
  match idMismatch t (e.port n).plan i with
  | none => if e.roleTaken n n then .inr 6 else .inl n
  | some r => match e.groupMatches t n i with
    | [] => .inr r
    | [k] => if e.roleTaken n k then .inr 6 else .inl k
    | _ => .inr 6

/-- The checks of STRICT and protocol level; a neighbour planned at level 2 counts as elastic (R278, R289). -/
def Ev9.modeRefusal (e : Ev9) (n : Nat) (i : Identity) : Option Nat :=
  let level := planLevel (e.port n).plan
  let theirs := i.strict && level != 2
  if theirs != e.chip.strict then some 4 else if i.level.toNat ≠ level then some 5 else none

/-- A port is REFUSED (R278). -/
def refusePort (n reason : Nat) (i : Identity) (s : State) : State :=
  let s := onPort n (fun x => { x with state := .refused, reason := BitVec.ofNat 4 reason, sleepPhase := .idle, retrain := false, known := none }) s
  let s := faultRecord { source := 7, part := s.ev9.portOwner n, cause := 0x0403, d0 := n, d1 := reason,
                         d2 := i.troupe.toNat + 2 ^ 16 * i.position.toNat + 2 ^ 28 * i.port.toNat } s
  checkPortJoin n s

/-- A received identity is judged. -/
def judgeIdentity (t n : Nat) (s : State) : State :=
  let i := identityOf (s.ev9.port n).ident
  match s.ev9.assignRole t n i, s.ev9.modeRefusal n i with
  | .inr r, _ => refusePort n r i s
  | .inl _, some r => refusePort n r i s
  | .inl k, none =>
    checkPortJoin n (checkHop n (onPort n (fun x =>
      { x with state := if x.state.asleep then x.state else .active, logical := BitVec.ofNat 4 k, remapped := k != n, reason := 0,
               known := some x.ident }) s))

/-- The reason for which a changed identity refuses a port: that of R278 where the new one has one, else that it matches no role any
more. -/
def Ev9.changeReason (e : Ev9) (t n : Nat) (i : Identity) : Nat :=
  match e.assignRole t n i, e.modeRefusal n i with
  | .inr r, _ => r
  | .inl _, some r => r
  | .inl _, none => 6

/-- IDENTITY_RECEIVE (R277–R279, R297): a LINKED port of a member takes a role or is REFUSED; before the member exists the identity
waits. An identity other than the one with which the port took its role refuses it, whether the port kept its role in the retrain or
comes out of a training from stage 1. -/
def execIdentityReceive (port : PortId) (id : Identity) (s : State) : Host.Outcome State Fault Refusal :=
  let x := s.ev9.port port
  if !s.ev9.up || !(x.state == .linked || x.state == .active) then stay s
  else
    let s := onPort port (fun x => { x with ident := identityBits id, heard := true }) s
    match s.ev9.portMember port with
    | none => .next s
    | some (t, _) =>
      if x.known.any (· != identityBits id) then .next (refusePort port (s.ev9.changeReason t port id) id s)
      else if x.state == .active then .next s
      else .next (judgeIdentity t port s)

/-- TROUPE_JOIN_TIMEOUT (R279): 100 ms after TROUPE_JOIN a planned port is not ACTIVE. -/
def execTroupeJoinTimeout (troupe : BitVec 16) (s : State) : Host.Outcome State Fault Refusal :=
  let t := troupe.toNat
  match s.ev9.member? t with
  | none => stay s
  | some m =>
    if m.joined then stay s
    else
      match (s.ev9.plannedPorts m).find? fun n => !(s.ev9.port n).state.inRole with
      | none => stay s
      | some n =>
        let st := (s.ev9.port n).state
        let reason := if st == .refused || st == .down then (s.ev9.port n).reason.toNat else 9
        .next (failJoin t n reason s)

/-! ## FEC and replay (R280–R282, R288, R292, R295) -/

/-- The first replay of a port in a second is recorded (R281). -/
def noteReplay (n : Nat) (s : State) : State :=
  if (s.ev9.port n).replayThisSecond then s
  else
    faultRecord { source := 7, part := s.ev9.portOwner n, cause := 0x0401, d0 := n }
      (onPort n (fun x => { x with replayThisSecond := true }) s)

/-- A replay is requested from a codeword; it delays what arrives for the measured replay time (R281). -/
def requestReplay (n : Nat) (s : State) : State :=
  let s := onPort n (fun x => { x with replays := satAdd x.replays 1, replayLeft := max 1 x.replay.toNat }) s
  emit (.replayRequest (Fin.ofNat 12 n)) (pulse (73 + n) (noteReplay n (wakePort n s)))

/-- CODEWORD_UNCORRECTABLE (R281, R282): with replay the codeword is requested again, one request for a run of failing codewords,
and after 8 failures of one codeword the port retrains; without it the step faults. -/
def execCodewordUncorrectable (port : PortId) (codeword : Nat) (s : State) : Host.Outcome State Fault Refusal :=
  let x := s.ev9.port port
  if !s.ev9.up || !x.state.inRole then stay s
  else
    let s := onPort port (fun x => { x with cwBad := satAdd x.cwBad 1 }) s
    if !s.ev9.hasReplay port then .next (strictFault port s)
    else
      let set (f : Nat × Nat × Nat) (s : State) : State := onPort port (fun x => { x with failing := some f }) s
      match x.failing with
      | some (a, b, k) =>
        if codeword = a then
          if 8 ≤ k + 1 then .next (retrainRole port false (requestReplay port s))
          else .next (requestReplay port (set (a, a, k + 1) s))
        else if codeword = b + 1 then .next (set (a, codeword, k) s)
        else .next (requestReplay port (set (codeword, codeword, 1) s))
      | none => .next (requestReplay port (set (codeword, codeword, 1) s))

/-- REPLAY_REQUEST_RECEIVE (R281, R286, R292): the transmitter resends from its replay buffer; a sleeping port wakes, and a
handshake in progress is cancelled. -/
def execReplayRequestReceive (port : PortId) (s : State) : Host.Outcome State Fault Refusal :=
  if !s.ev9.up || !(s.ev9.port port).state.inRole || !s.ev9.hasReplay port then stay s
  else .next (emit (.resend port ((s.ev9.port port).sent.map (·.hdr))) (pulse (73 + port.val) (noteReplay port (wakePort port s))))

/-! ## Sleep (R285–R287, R289, R291, R296) -/

/-- The port may sleep: in strict mode only while its partition runs no step, and at protocol level 2 in LS1 only (R286, R289). -/
def Ev9.maySleep (e : Ev9) (n : Nat) (ls : SleepState) : Bool :=
  let idle := match e.portOwner n with
    | none => true
    | some p => (e.part p).state != .on || match e.memberOf p with
      | none => true
      | some (_, m) => m.run == .stopped || m.run == .idle
  (!e.chip.strict || idle) && (planLevel (e.port n).plan != 2 || ls == .ls1)

/-- Both sides have agreed: the port sleeps from edge beat `now`. -/
def Port.enter (now : Nat) (ls : SleepState) (x : Port) : Port :=
  { x with state := match ls with | .ls1 => .ls1 | .ls2 => .ls2
           sleeps := satAdd x.sleeps 1, sleepPhase := .idle, sleptAt := now, waived := false }

/-- A sleep request of this side is sent, or refused (R285, R286). -/
def requestSleep (n : Nat) (ls : SleepState) (s : State) : State :=
  let x := s.ev9.port n
  if x.state ≠ .active ∨ x.sleepPhase ≠ .idle then s
  else if s.ev9.maySleep n ls then
    emit (.sleepReq (Fin.ofNat 12 n) ls) (onPort n (fun x => { x with sleepPhase := .requested ls }) s)
  else setNak n s

/-- The shallower of two states. -/
def shallower (a b : SleepState) : SleepState := if a = .ls1 then a else b

/-- SLEEP_REQ_RECEIVE (R285, R286, R289, R291): a crossing request is acceptance; else the port accepts or refuses. -/
def execSleepReqReceive (port : PortId) (ls : SleepState) (s : State) : Host.Outcome State Fault Refusal :=
  let x := s.ev9.port port
  if !s.ev9.up || x.state != .active then stay s
  else
    match x.sleepPhase with
    | .requested own => .next (onPort port (Port.enter s.ev9.noc.edgeBeat (shallower own ls)) s)
    | _ =>
      if x.autoSleep && x.replayLeft == 0 && !s.ev9.queuedFor port && s.ev9.maySleep port ls then
        .next (emit (.sleepAck port ls) (onPort port (Port.enter s.ev9.noc.edgeBeat ls) s))
      else .next (emit (.sleepNak port) s)

/-- SLEEP_ACK_RECEIVE (R285, R287): the port enters the state that it asked for; after a cancel the answer is ignored. -/
def execSleepAckReceive (port : PortId) (s : State) : Host.Outcome State Fault Refusal :=
  match (s.ev9.port port).sleepPhase with
  | .requested ls => .next (onPort port (Port.enter s.ev9.noc.edgeBeat ls) s)
  | .cancelled => .next (onPort port (fun x => { x with sleepPhase := .idle }) s)
  | _ => stay s

/-- SLEEP_NAK_RECEIVE (R285, R290): the request is refused. -/
def execSleepNakReceive (port : PortId) (s : State) : Host.Outcome State Fault Refusal :=
  match (s.ev9.port port).sleepPhase with
  | .requested _ => .next (setNak port (onPort port (fun x => { x with sleepPhase := .idle }) s))
  | .cancelled => .next (onPort port (fun x => { x with sleepPhase := .idle }) s)
  | _ => stay s

/-- SLEEP_CANCEL_RECEIVE (R287): the neighbour withdraws its request and the port stays, or is again, ACTIVE. -/
def execSleepCancelReceive (port : PortId) (s : State) : Host.Outcome State Fault Refusal :=
  if !s.ev9.up || !(s.ev9.port port).state.inRole then stay s
  else .next (setNak port (onPort port (fun x => { x with state := .active, sleepPhase := .idle }) s))

/-- WAKE_SIGNAL_RECEIVE (R286): the neighbour wakes the port. -/
def execWakeSignalReceive (port : PortId) (s : State) : Host.Outcome State Fault Refusal :=
  if s.ev9.up && (s.ev9.port port).state.asleep then
    .next (onPort port (fun x => { x with sleepPhase := .waking, waived := true }) s)
  else stay s

/-- AUTO_SLEEP_IDLE (R285, R290): the port has carried and queued no flit for idle edge beats. -/
def execAutoSleepIdle (port : PortId) (s : State) : Host.Outcome State Fault Refusal :=
  let x := s.ev9.port port
  if s.ev9.up && x.autoSleep && !s.ev9.queuedFor port && decide (x.lastUse + x.idle.toNat ≤ s.ev9.noc.edgeBeat)
      && s.ev9.maySleep port (if x.autoLs2 then .ls2 else .ls1) then
    .next (requestSleep port (if x.autoLs2 then .ls2 else .ls1) s)
  else stay s

/-- A write of SNL_PM_s: nak is W1C, req asks for LS1, LS2 or a wake (R285, R286, R290). -/
def writeSnlPm (n : Nat) (v : Dword) (s : State) : State :=
  let s := onPort n (fun x => { x with nak := s.w1c (offSnlPm n) v 7 x.nak }) s
  match field v 1 0 with
  | 1 => requestSleep n .ls1 s
  | 2 => requestSleep n .ls2 s
  | 3 => wakePort n s
  | _ => s

/-- SNL_PM_REQ_LS1 (R285): 1 is written to req. -/
def execSnlPmReqLs1 (path : RegPath) (port : PortId) (s : State) : Host.Outcome State Fault Refusal :=
  pathWrite path path.isEv9 (writeSnlPm port 1) s

/-- SNL_PM_REQ_LS2 (R285): 2 is written to req. -/
def execSnlPmReqLs2 (path : RegPath) (port : PortId) (s : State) : Host.Outcome State Fault Refusal :=
  pathWrite path path.isEv9 (writeSnlPm port 2) s

/-- SNL_PM_WAKE (R286, R287): 3 is written to req. -/
def execSnlPmWake (path : RegPath) (port : PortId) (s : State) : Host.Outcome State Fault Refusal :=
  pathWrite path path.isEv9 (writeSnlPm port 3) s

/-- The least residency of a sleep state in edge beats: 10 µs and 200 µs at 1.50 GHz (R45, R285). -/
def PortState.residency : PortState → Nat
  | .ls2 => 300000
  | _ => 15000

/-- WAKE_COMPLETE (R285–R287, R296): the port has slept its least residency, or waives it, and is ACTIVE again; the beats that flits
waited are its wake delay; a command that names another count names no wake of this port (log 11). A lane that failed in sleep makes
it retrain first. -/
def execWakeComplete (port : PortId) (laneFailed : Bool) (waited : Nat) (s : State) : Host.Outcome State Fault Refusal :=
  let x := s.ev9.port port
  if !s.ev9.up || !x.state.asleep || x.sleepPhase != .waking || x.wakeWait != waited
      || !(x.waived || decide (x.sleptAt + x.state.residency ≤ s.ev9.noc.edgeBeat)) then stay s
  else
    let s := onPort port (fun x =>
      { x with state := .active, sleepPhase := .idle, wakeDelay := satAdd x.wakeDelay x.wakeWait, wakeWait := 0 }) s
    .next (if laneFailed then retrainRole port false s else s)

/-! ## TRCLK returns (R50, R288) -/

/-- A training that waited for TRCLK starts. -/
def startWaiting (n : Nat) (s : State) : State :=
  match (s.ev9.port n).wants with
  | some k => onPort n (Port.trainAs k) s
  | none => s

/-- TRCLK_RETURN (R50, R288): the FLLs relock, and trainings that waited start. The frequency error then measured is a free value
(log 4). -/
def execTrclkReturn (s : State) : Host.Outcome State Fault Refusal :=
  if s.ev9.chip.trPresent || !s.ev9.chip.trHoldover then stay s
  else
    let s := drawn (onEv9 (fun e => { e with chip :=
      { e.chip with trPresent := true, trHoldover := false, freqErr := Config.freqErr s.fresh } }) s)
    .next ((List.range 12).foldl (fun s n => startWaiting n s) s)

end Sys2Proof.Machine
end

