-- ==== Sys2Proof/Machine/Partitions.lean ====
section
/-! DEFINITION. Partitions.lean: how partitions are enabled, drained and fenced (R341–R351, R356–R363), and how members join and leave
(R37, R279, R351, R446). -/

namespace Sys2Proof

/-- The partition that byte 8 names. -/
def Packet.part (p : Packet) : PartId := Fin.ofNat 8 (p.byte 8)

/-- The troupe that bytes 8–9 name. -/
def Packet.troupe (p : Packet) : BitVec 16 := BitVec.ofNat 16 (p.field 8 2)

end Sys2Proof

namespace Sys2Proof.Machine

open Sys2Proof

/-! ## Leaving a troupe (R351) -/

/-- The deferred command is a stream command on one of the slots. -/
def Deferred.waitsOn (ns : List Nat) (d : Deferred) : Bool :=
  match d.work with
  | .collectWait k _ => ns.contains k
  | _ => false

/-- The member's slots: those of its troupe whose member has not left. -/
def Ev9.memberSlots (e : Ev9) (t : Nat) : List Nat :=
  (e.hif.slots.filter fun x => x.2.troupe.toNat == t && x.2.state != .free && !x.2.orphan).map (·.1)

/-- Stream commands that wait for a cut or a record complete at once (R351). -/
def endStreamWaits (t : Nat) (s : State) : State :=
  let ns := s.ev9.memberSlots t
  let s := failOpens t s
  let s := finish (Deferred.waitsOn ns) (fun _ => stWrongState) (fun _ => []) s
  (s.ev9.slotsOf t .releasing).foldl (fun s n => releaseSlot n s) s

/-- The member leaves its troupe: its slots stay owned (R351). -/
def leaveTroupe (t : Nat) (s : State) : State :=
  let orphaned (e : Nat × StreamSlot) : Nat × StreamSlot :=
    if e.2.troupe.toNat == t && e.2.state != .free then (e.1, { e.2 with orphan := true }) else e
  dropMember t (onEv9 (Ev9.onHif fun h => { h with slots := h.slots.map orphaned }) s)

/-- The member of a partition leaves its troupe. -/
def leaveOf (p : Nat) (s : State) : State :=
  match s.ev9.memberOf p with
  | none => s
  | some (t, _) => leaveTroupe t s

/-! ## OFF (R346 step 5, R350) -/

/-- A trained port returns to LINKED; one that leaves FENCED untrained trains, or is DISABLED (R272, R346). -/
def Port.toLinked (clock : Bool) (x : Port) : Port :=
  let x := { x with sleepPhase := .idle, retrain := false, stage6 := false, failing := none, replayLeft := 0, known := none,
                    wants := none }
  match x.state with
  | .active | .ls1 | .ls2 | .refused => { x with state := .linked, reason := 0 }
  | .fenced =>
    if !x.enable || !planUsed x.plan then { x with state := .disabled }
    else if x.lanesGood = 0 then { x with state := .disabled }.beginTraining clock .full else { x with state := .linked, reason := 0 }
  | _ => x

/-- The station entries that a partition holds are released (R264). -/
def Noc.releaseStations (p : Nat) (x : Noc) : Noc :=
  { x with slots := x.slots.filter fun e => !(decide (384 * 16 ≤ e.1) && slotOwner e.2 == p) }

/-- A partition that is OFF: no seal, its islands idle. -/
def Part.off (x : Part) : Part :=
  { x with
    state := .off
    fencing := false
    stopped := false
    clk := { x.clk with glide := false, pending := none, fll := 0, braked := false }
    curl := { x.curl with curled := false, held := false, request := false, absent := [], causes := [], causeNow := none,
                          lag := none, inStep := 0, lasted := 0 }
    tier := { x.tier with sealed := false }
    activity := []
    lastActivity := [] }

/-- Carousel windows of the partition's cores end with it, and its scratch accesses that are not yet applied are dropped. -/
def Ev9.endAccesses (p : Nat) (e : Ev9) : Ev9 :=
  let e := { e with scr := e.scr.filter fun x => x.cluster / 2 != p }
  (coresOf p).foldl (fun e c =>
    if (e.core c).window then
      { e.onCore c (fun x => { x with window := false, windowLeft := 0 }) with
        banks := (upFrom (64 * c) 64).foldl (fun t i => tmod {} t i fun b => { b with left := 0 }) e.banks }
    else e) e

/-- Step 5 of R346: the member leaves, the seal and the station entries are released, the ports return to LINKED; the partition is
OFF. A strict step in which it curled has its record (R71), and a curl that lasts till then is one of them. -/
def toOff (p : Nat) (s : State) : State :=
  let s := flushBreach p (cutCurl p s)
  let ports := (List.range 12).filter fun n => maskBit (s.ev9.part p).ports n
  let s := leaveOf p s
  let s := onNoc (Noc.releaseStations p) s
  let s := ports.foldl (fun s n => onPort n (Port.toLinked s.ev9.chip.trPresent) s) s
  settleBrake (settleVdd (onPart p Part.off (onEv9 (Ev9.endAccesses p) s)))

/-! ## Enabling (R344, R358, R359) -/

/-- A core as ENABLING leaves it: halves, descriptors, counters, timers and threads cleared; its retirement takes effect (R344,
R485). -/
def Core.scrubbed (dead : Bool) (x : Core) : Core :=
  if dead then { x with retired := true }
  else { x with
    retired := false
    threads := []
    handles := []
    loops := []
    acorns := []
    timers := []
    halfA := {}
    halfB := {}
    qMatrix := []
    qVector := []
    qMover := []
    bufs := []
    sendq := []
    inbox := []
    sendCarry := none
    rx := []
    snaps := []
    lockBeats := 0
    portBusy := 0 }

/-- The core is retired at the next ENABLING (R485). -/
def Svc.dead (v : Svc) (c : Nat) : Bool := maskBit v.retire c || maskBit v.selftestFail c

/-- The memory of a partition is scrubbed, but for retired cores' (R344, R485). -/
def Ev9.scrub (p : Nat) (e : Ev9) : Ev9 :=
  let e := (coresOf p).foldl (fun e c =>
    if e.svc.dead c then e
    else (e.zeroRange (tierAddr c 0) (tierAddr (c + 1) 0)).zeroRange (obufAddr c 0) (obufAddr (c + 1) 0)) e
  e.zeroRange (scratchAddr (2 * p) 0) (scratchAddr (2 * p + 2) 0)

/-- A partition begins ENABLING: counters zero, at the pace that its request allows (R68, R344, R378). -/
def Part.enabling (x : Part) : Part :=
  { x with
    state := .enabling
    clk := { x.clk.freshLost with step := 0, stepBeat := 0, droopOver := 0, pace := x.request, pending := none, glide := false, braked := false }
    curl := { x.curl.zero with lastTag := none, lag := none, inStep := 0 }
    fasterRuns := 0 }

/-- A partition leaves OFF for ENABLING (R344, R505). -/
def beginEnabling (p : Nat) (s : State) : State :=
  let s := releaseTap s
  let s := onPart p Part.enabling s
  let s := onEv9 (fun e => (coresOf p).foldl (fun e c => e.onCore c (Core.scrubbed (e.svc.dead c))) (e.scrub p)) s
  settleVdd s

/-- The work is on a partition. -/
def Work.isOn (p : Nat) : Work → Bool
  | .enable q | .drain q _ | .fencePart q => q.val == p
  | _ => false

/-- A PARTITION_ENABLE of the partition is pending. -/
def Ev9.enablePending (e : Ev9) (p : Nat) : Bool :=
  e.hif.deferred.any fun d => match d.work with | .enable q => q.val == p | _ => false

/-- A drain of the partition is pending. -/
def Ev9.drainPending (e : Ev9) (p : Nat) : Bool :=
  e.hif.deferred.any fun d => match d.work with | .drain q _ => q.val == p | _ => false

/-- The FLLs that lock: all but those of retired cores (R73). -/
def Ev9.locks (e : Ev9) (p : Nat) : BitVec 10 :=
  (List.range 8).foldl (fun b i => if e.retired (8 * p + i) then b else setBit b i) 0x300

/-! ## Draining (R345–R347, R359) -/

/-- A drain begins: the stream commands of R351 complete, and a pending join ends (R346, R351, R362). -/
def beginDrain (p : Nat) (s : State) : State :=
  let s := onPart p (fun x => { x with state := .draining, drainAt := s.ev9.noc.edgeBeat }) s
  match s.ev9.memberOf p with
  | none => s
  | some (t, m) =>
    if m.joined then endStreamWaits t (onMember t (fun m => { m with draining := true }) s)
    else dropMember t (finish (fun d => d.work == .join (BitVec.ofNat 16 t)) (fun _ => stWrongState) (fun _ => []) s)

/-- An enabling partition is ON: its enable completes OK, and a drain that has waited for it begins (R344, R359). In strict mode a droop
that stands stops its clocks (R51). -/
def nowOn (p : Nat) (s : State) : State :=
  let locks := s.ev9.locks p
  let now := s.ev9.svc.timeMs
  let s := onPart p (fun x => { x with state := .on, onSince := now, clk := { x.clk with beatCount := 0, fll := locks } }) s
  let s := finish (fun d => match d.work with | .enable q => q.val == p | _ => false) (fun _ => stOk) (fun _ => []) s
  let s := if s.ev9.drainPending p then beginDrain p s else s
  strictDroop p s

/-- ENABLE_COMPLETE (R344). -/
def execEnableComplete (p : PartId) (s : State) : Host.Outcome State Fault Refusal :=
  if s.ev9.up && (s.ev9.part p).state == .enabling then .next (nowOn p s) else stay s

/-- A best-effort flit of the partition stands in its routers. -/
def Ev9.bestEffortLeft (e : Ev9) (p : Nat) : Bool :=
  e.noc.bufs.any fun b => bufRouter b.1 / 2 == p && b.2.any fun f => f.part == p && decide (4 ≤ f.vc)

/-- Every command of the partition has its final reply, no engine holds work, and its best-effort flits have left (R346, steps 2
and 3). -/
def Ev9.drained (e : Ev9) (p : Nat) : Bool :=
  (e.hif.deferred.all fun d => !maskBit d.parts p || d.work == .fence)
    && ((coresOf p).all fun c =>
      let x := e.core c
      x.qMatrix.isEmpty && x.qVector.isEmpty && x.qMover.isEmpty && x.bufs.isEmpty && x.sendq.isEmpty && x.halfA.phase == .idle
        && x.halfB.phase == .idle)
    && !e.bestEffortLeft p

/-- The result of a PARTITION_DISABLE: flits discarded and credits restored by its fence (R356). -/
def disableResult (lost credits : Nat) : List Byte := leBytes 4 lost ++ leBytes 4 credits

/-- The partition has reached OFF: its disables complete OK, and a pending enable takes it to ENABLING at once (R358, R359). -/
def reachedOff (p lost credits : Nat) (s : State) : State :=
  let s := toOff p s
  let s := finish (fun d => match d.work with | .drain q _ => q.val == p | .fencePart q => q.val == p | _ => false)
    (fun _ => stOk) (fun _ => disableResult lost credits) s
  if s.ev9.enablePending p then beginEnabling p s else s

/-- DRAIN_COMPLETE (R343, R346). A partition that has become held does not come to OFF by its drain: the drain limit fences it. -/
def execDrainComplete (p : PartId) (s : State) : Host.Outcome State Fault Refusal :=
  let x := s.ev9.part p
  if x.state == .draining && !x.fencing && !x.curl.held && s.ev9.drained p then .next (reachedOff p 0 0 s) else stay s

/-- The edge beats for which a drain may last: PART_DRAIN_LIMIT µs, 0 acting as 1, of 1,500 beats each (R45, R347, R357). -/
def Ev9.drainBeats (e : Ev9) : Nat := 1500 * max 1 e.chip.drainLimit.toNat

/-- The offset of PART_STATUS_p. -/
def offPartStatus (p : Nat) : Nat := 0x1000000 + 0x40 * p

/-- DRAIN_TIMEOUT (R347): the partition has been DRAINING for the limit; it is flagged and fenced. -/
def execDrainTimeout (p : PartId) (s : State) : Host.Outcome State Fault Refusal :=
  let x := s.ev9.part p
  if x.state == .draining && decide (x.drainAt + s.ev9.drainBeats ≤ s.ev9.noc.edgeBeat) then
    .next (onPart p (fun x => { x with drainTimeout := true, fencing := true }) (noteSet (offPartStatus p) 8 x.drainTimeout s))
  else stay s

/-! ## Fences (R348–R350, R360, R361) -/

/-- The places that the edge holds for the partition: its ports' early-arrival buffers by VC. -/
def Ev9.heldPlaces (e : Ev9) (ports : List Nat) : List (Nat × Nat × Nat) :=
  ports.flatMap fun n => (List.range 4).map fun vc => (n, vc, (tget 0 (e.port n).eab vc).toNat)

/-- Flits in the partition's buffers of R265. -/
def Ev9.heldAcross (e : Ev9) (p : Nat) : Nat := (List.range 4).foldl (fun n vc => n + (tget 0 e.noc.xeab (4 * p + vc)).toNat) 0

/-- A flit of the network is lost to a fence of the partition: it stands in one of its routers, or is on its way to one of its cores
(R349). -/
def Ev9.fenced (e : Ev9) (p : Nat) (k : Nat) (f : Flit) : Bool :=
  bufRouter k / 2 == p && decide (bufRouter k < 16)
    || (f.port.isSome || f.place.isSome) && partOf f.h.dcore == p && e.exitPort f == some none

/-- A flit that a peer outside the partition has sent: it came over a link from a router of another partition, or holds a place of
another's buffer. The places of the partition's own buffers are counted by their occupancy. -/
def peerFlit (p : Nat) (ports : List Nat) (k : Nat) (f : Flit) : Bool :=
  match f.place with
  | some (.port n) => !ports.contains n.val
  | some (.part q) => q.val != p
  | none =>
    f.port.isNone && (List.range 6).any fun o =>
      match outputTo (bufRouter k) o with
      | some d => o == bufInput k && d.1 / 2 != p
      | none => false

/-- The flits of peers that a fence discards from the network. -/
def Ev9.peerFlits (e : Ev9) (p : Nat) (ports : List Nat) : Nat :=
  (e.noc.picked fun k f => e.fenced p k f && peerFlit p ports k f).length

/-- The edge stations discard what they hold for the partition, return its credits, and fence its ports; the flits in its routers are
gone (R349). -/
def fenceEdge (p : Nat) (ports : List Nat) (s : State) : State :=
  let s := purgeFlits (s.ev9.fenced p) s
  let s := (s.ev9.heldPlaces ports).foldl (fun s x =>
    if x.2.2 = 0 then s else emit (.credit (Fin.ofNat 12 x.1) (Fin.ofNat 4 x.2.1) x.2.2) s) s
  let s := ports.foldl (fun s n =>
    onPort n (fun x => { x with state := .fenced, eab := [], sleepPhase := .idle, retrain := false, stage6 := false,
                                failing := none, replayLeft := 0, wants := none }) s) s
  onNoc (fun x => { x with xeab := (List.range 4).foldl (fun t vc => tdel t (4 * p + vc)) x.xeab }) s

/-- The host interface completes every command pending on the partition (R349, R351, R362); a pending enable of an ENABLING
partition ends with it (R359). -/
def fenceCommands (p : Nat) (enabling : Bool) (s : State) : State :=
  let s := match s.ev9.memberOf p with
    | none => s
    | some (t, _) => endStreamWaits t s
  let s := stopCopies (fun d => maskBit d.parts p) s
  let s := finish (fun d => maskBit d.parts p && d.work != .fence) (fun _ => stWrongState) (fun _ => []) s
  if enabling then
    finish (fun d => match d.work with | .enable q => q.val == p | _ => false) (fun _ => stWrongState) (fun _ => []) s
  else s

/-- FENCE_TAKES_EFFECT (R348, R349, R351): what the edge holds for the partition and the flits in its routers are discarded, and the
peers' credits restored; `lost` and `spent` are those of the host's and the service island's own traffic (log 29). -/
def execFenceTakesEffect (p : PartId) (lost spent : Nat) (s : State) : Host.Outcome State Fault Refusal :=
  let x := s.ev9.part p
  if !x.fencing || x.state == .off || x.state == .fenced then stay s
  else
    let ports := (List.range 12).filter fun n => maskBit x.ports n
    let n := (s.ev9.heldPlaces ports).foldl (fun n h => n + h.2.2) 0 + s.ev9.heldAcross p + s.ev9.peerFlits p ports
    let s := onPart p (fun x => { x with
      state := .fenced
      fencing := false
      flitsDiscarded := BitVec.ofNat 32 (min (2 ^ 32 - 1) (n + lost))
      creditsRestored := BitVec.ofNat 32 (min (2 ^ 32 - 1) (n + spent)) }) s
    let s := fenceEdge p ports s
    .next (settleVdd (leaveOf p (fenceCommands p (x.state == .enabling) s)))

/-- A core whose islands are reset: queues empty, threads halted (R350). -/
def Core.islandReset (x : Core) : Core :=
  let halt (t : Thread) : Thread := { t with regs := { t.regs with state := .halted }, sync := none, stall := false, gap := 0, pend := [] }
  let x := (((x.onThread 0 halt).onThread 1 halt).onThread 2 halt).onThread 3 halt
  { x with
    qMatrix := []
    qVector := []
    qMover := []
    bufs := []
    sendq := []
    inbox := []
    sendCarry := none
    rx := []
    lockBeats := 0
    portBusy := 0
    vec := { x.vec with usesHalf := [] }
    halfA := { x.halfA with phase := .idle, run := none, held := [], injected := none }
    halfB := { x.halfB with phase := .idle, run := none, held := [], injected := none }
    abft := { x.abft with retrying := false } }

/-- FENCE_RESET_COMPLETE (R350): the islands are reset, the held state and any curl end, and the partition is OFF. -/
def execFenceResetComplete (p : PartId) (s : State) : Host.Outcome State Fault Refusal :=
  let x := s.ev9.part p
  if x.state == .fenced && !x.stuck then
    let s := onEv9 (fun e => (coresOf p).foldl (fun e c => e.onCore c Core.islandReset) e) s
    .next (reachedOff p x.flitsDiscarded.toNat x.creditsRestored.toNat s)
  else stay s

/-- PARTITION_STUCK (R350, R356): an island does not complete its reset; the partition stays FENCED. -/
def execPartitionStuck (p : PartId) (s : State) : Host.Outcome State Fault Refusal :=
  let x := s.ev9.part p
  if x.state == .fenced && !x.stuck then
    .next (finish (fun d => d.work.isOn p.val) (fun _ => stWrongState) (fun _ => [])
      (onPart p (fun x => { x with stuck := true }) s))
  else stay s

/-! ## Commands (R356, R358, R359) -/

/-- What the partition commands demand. -/
def partRule (mine : Bool) (via : Carrier) (pkt : Packet) (n : Nat) (ok : Bool) (role : Role) : PacketRule :=
  { mine := mine, allowed := via.isEv9Mgmt, used := [(8, n)], paramsOk := decide (pkt.byte 8 ≤ 7) && ok, role := role }

/-- PARTITION_ENABLE (R343, R344, R356, R358). A stuck partition cannot be enabled (log 33). -/
def execPartitionEnable (via : Carrier) (pkt : Packet) (s : State) : Host.Outcome State Fault Refusal :=
  servePacket via pkt (partRule (pkt.op == 0x90) via pkt 1 true .installer) (fun s =>
    let p := pkt.part
    let x := s.ev9.part p
    if s.ev9.enablePending p then answer via pkt stPending [] s
    else if x.stuck then answer via pkt stWrongState [] s
    else
      match x.state with
      | .on | .enabling => answer via pkt stWrongState [] s
      | .off => deferEv9 via pkt (.enable p) 0 [] (beginEnabling p) s
      | .draining | .fenced => deferEv9 via pkt (.enable p) 0 [] id s) s

/-- The member of a partition runs its image (R345). -/
def Ev9.runsImage (e : Ev9) (p : Nat) : Bool :=
  match e.memberOf p with
  | none => false
  | some (_, m) => m.isRunning

/-- The role of PARTITION_DISABLE: operator on the management ring, else installer (R356). -/
def disableRole (via : Carrier) : Role := if via = .mgmt then .operator else .installer

/-- PARTITION_DISABLE in drain mode (R345, R346, R356, R359); a mode above 1 is BAD_PARAM. -/
def execPartitionDisableDrain (via : Carrier) (pkt : Packet) (s : State) : Host.Outcome State Fault Refusal :=
  servePacket via pkt (partRule (pkt.op == 0x91 && pkt.byte 9 != 1) via pkt 2 (pkt.byte 9 == 0) (disableRole via)) (fun s =>
    let p := pkt.part
    let x := s.ev9.part p
    match x.state with
    | .off => answer via pkt stWrongState [] s
    | .enabling =>
      if x.fencing || s.ev9.drainPending p then answer via pkt stPending [] s
      else deferEv9 via pkt (.drain p true) 0 [] id s
    | .on =>
      if x.fencing then answer via pkt stPending [] s
      else if x.curl.held || s.ev9.runsImage p then answer via pkt stWrongState [] s
      else deferEv9 via pkt (.drain p false) 0 [] (beginDrain p) s
    | .draining | .fenced => answer via pkt stPending [] s) s

/-- PARTITION_DISABLE in fence mode (R348, R356, R359). -/
def execPartitionDisableFence (via : Carrier) (pkt : Packet) (s : State) : Host.Outcome State Fault Refusal :=
  servePacket via pkt (partRule (pkt.op == 0x91 && pkt.byte 9 == 1) via pkt 2 true (disableRole via)) (fun s =>
    let p := pkt.part
    let x := s.ev9.part p
    match x.state with
    | .off => answer via pkt stWrongState [] s
    | .fenced => answer via pkt stPending [] s
    | .on | .enabling | .draining =>
      if s.ev9.hif.deferred.any fun d => d.work == .fencePart p then answer via pkt stPending [] s
      else deferEv9 via pkt (.fencePart p) 0 [] (onPart p fun x => { x with fencing := true }) s) s

/-- The state as a number (R342). -/
def PartState.code : PartState → Nat
  | .off => 0
  | .enabling => 1
  | .on => 2
  | .draining => 3
  | .fenced => 4

/-- Troupe id and position of the member that a partition belongs to, once it has joined. -/
def Ev9.placeInTroupe (e : Ev9) (p : Nat) : Nat × Nat :=
  match e.memberOf p with
  | some (t, m) => if m.joined then (t, m.position.toNat) else (0, 0)
  | none => (0, 0)

/-- PARTITION_QUERY (R356). -/
def execPartitionQuery (via : Carrier) (pkt : Packet) (s : State) : Host.Outcome State Fault Refusal :=
  servePacket via pkt (partRule (pkt.op == 0x92) via pkt 1 true .operator) (fun s =>
    let p := pkt.part
    let x := s.ev9.part p
    let t := s.ev9.placeInTroupe p
    let flags := bit x.curl.held + 2 * bit x.tier.sealed + 4 * bit (s.ev9.runsImage p) + 8 * bit x.stuck
    answer via pkt stOk ([byteOf x.state.code, byteOf flags] ++ leBytes 2 t.1 ++ leBytes 2 t.2 ++ leBytes 2 x.ports.toNat) s) s

/-! ## Joining and leaving (R11, R37, R277, R279, R446) -/

/-- A planned port of a new member: an identity that has arrived is judged, else its own is sent. -/
def joinPort (t n : Nat) (s : State) : State :=
  let x := s.ev9.port n
  if (s.ev9.member? t).isNone || !(x.state == .linked || x.state == .active) then s
  else
    let s := emit (.identity (Fin.ofNat 12 n) (match s.ev9.member? t with
      | some m => s.ev9.ownIdentity t m n
      | none => ⟨0, 0, 0, false, 0⟩)) s
    if x.heard then judgeIdentity t n s else s

/-- TROUPE_JOIN starts: the member holds its position, and its planned ports exchange identities. -/
def beginJoin (t : Nat) (position : BitVec 16) (mask : BitVec 8) (s : State) : State :=
  let m : Member := { position := position, mask := mask }
  let s := onEv9 (fun e => { e with members := tins e.members t m }) s
  checkJoin t ((s.ev9.plannedPorts m).foldl (fun s n => joinPort t n s) s)

/-- TROUPE_JOIN (R11, R37, R279, R362, R446). -/
def execTroupeJoin (via : Carrier) (pkt : Packet) (s : State) : Host.Outcome State Fault Refusal :=
  let mask : BitVec 8 := BitVec.ofNat 8 (pkt.byte 12)
  servePacket via pkt
    { mine := pkt.op == 0x98, allowed := via == .mgmt, used := [(8, 5)],
      paramsOk := decide (pkt.field 10 2 < 1024) && mask != 0 } (fun s =>
    let ps := maskParts mask
    if ps.all (fun p => (s.ev9.part p).state == .on && (s.ev9.memberOf p).isNone)
        && (s.ev9.member? pkt.troupe.toNat).isNone then
      deferEv9 via pkt (.join pkt.troupe) mask [] (beginJoin pkt.troupe.toNat (BitVec.ofNat 16 (pkt.field 10 2)) mask) s
    else answer via pkt stWrongState [] s) s

/-- The deferred command belongs to the member and not merely to its partitions. -/
def Work.ofMember (t : BitVec 16) : Work → Bool
  | .join u | .imageLoad u | .imageStart u | .imageStop u | .rerun u => u == t
  | _ => false

/-- TROUPE_LEAVE (R346, R446): the partitions stay ON outside any troupe, and planned ports return to LINKED. Commands that wait on the
member complete WRONG_STATE, and its streams as R351 has it (log 33). -/
def execTroupeLeave (via : Carrier) (pkt : Packet) (s : State) : Host.Outcome State Fault Refusal :=
  servePacket via pkt { mine := pkt.op == 0x99, allowed := via == .mgmt, used := [(8, 2)], paramsOk := true } (fun s =>
    let t := pkt.troupe.toNat
    match s.ev9.member? t with
    | none => answer via pkt stWrongState [] s
    | some m =>
      if m.isRunning || m.parts.any (fun p => (s.ev9.part p).state == .draining) then answer via pkt stWrongState [] s
      else
        let ports := s.ev9.plannedPorts m
        let s := endStreamWaits t s
        let s := finish (fun d => d.work.ofMember pkt.troupe) (fun _ => stWrongState) (fun _ => []) s
        let s := leaveTroupe t s
        let s := ports.foldl (fun s n => onPort n (fun x => if x.state = .fenced then x else x.toLinked s.ev9.chip.trPresent) s) s
        answer via pkt stOk [] (applyOwnAll s)) s

end Sys2Proof.Machine
end

