-- ==== Sys2Proof/Machine/Images.lean ====
section
/-! DEFINITION. Images.lean: the runtime packets of a ring and of an image (R23, R24, R30–R32, R41, R44, R315–R318, R468), and reruns
(R487–R490, R497). -/

namespace Sys2Proof.Machine

open Sys2Proof

/-- What a runtime packet demands: it is carried on tenant rings alone (R312). -/
def runtimeRule (mine : Bool) (via : Carrier) (used : List (Nat × Nat)) (ok : Bool) (parts : List Nat) : PacketRule :=
  { mine := mine, allowed := via.isTenant, used := used, paramsOk := ok, parts := parts }

/-- The tenant of a carrier; only tenant rings have one. -/
def carrierTenant (via : Carrier) : Nat :=
  match via with
  | .ring r => tenantOf r.val
  | _ => 0

/-! ## NOP and FENCE (R318) -/

/-- NOP (R318). -/
def execNop (via : Carrier) (pkt : Packet) (s : State) : Host.Outcome State Fault Refusal :=
  servePacket via pkt (runtimeRule (pkt.op == 0x01) via [] true []) (answer via pkt stOk []) s

/-- FENCE (R318): OK if nothing on the ring awaits a final reply, else it waits for every earlier command. -/
def execFence (via : Carrier) (pkt : Packet) (s : State) : Host.Outcome State Fault Refusal :=
  servePacket via pkt (runtimeRule (pkt.op == 0x02) via [] true []) (fun s =>
    if (s.ev9.awaiting via).isEmpty then answer via pkt stOk [] s else deferEv9 via pkt .fence 0 [] id s) s

/-! ## Commands on a troupe -/

/-- The partitions of the member of a troupe on this chip (R353). -/
def Ev9.troupeParts (e : Ev9) (t : BitVec 16) : List Nat :=
  match e.member? t.toNat with
  | none => []
  | some m => m.parts

/-- A packet whose bytes 8–9 name a troupe. -/
def troupeRule (op : Nat) (via : Carrier) (pkt : Packet) (used : List (Nat × Nat)) (ok : Bool) (s : State) : PacketRule :=
  runtimeRule (pkt.op == op) via used ok (s.ev9.troupeParts pkt.troupe)

/-- The chip has a joined member of the troupe, and no partition of it is being shut down (R318, R346). -/
def Ev9.usable (e : Ev9) (t : BitVec 16) : Option Member :=
  match e.member? t.toNat with
  | none => none
  | some m => if m.joined && m.parts.all (fun p => (e.part p).state == .on) then some m else none

/-- The command acts on the member, or is answered WRONG_STATE where there is none. -/
def onTroupe (via : Carrier) (pkt : Packet) (body : Member → State → State) (s : State) : State :=
  match s.ev9.usable pkt.troupe with
  | none => answer via pkt stWrongState [] s
  | some m => body m s

/-- A command of the given kind is pending on the troupe. -/
def Ev9.pendingWork (e : Ev9) (w : Work) : Bool := e.hif.deferred.any fun d => d.work == w

/-- Some partition of the member is held (R67). -/
def Ev9.anyHeld (e : Ev9) (m : Member) : Bool := m.parts.any fun p => (e.part p).curl.held

/-! ## IMAGE_LOAD (R16–R22, R44, R102, R125, R129, R263, R264, R318) -/

/-- IMAGE_LOAD: the image is fetched from host memory. -/
def execImageLoad (via : Carrier) (pkt : Packet) (s : State) : Host.Outcome State Fault Refusal :=
  servePacket via pkt (troupeRule 0x10 via pkt [(8, 2), (16, 16)] (pkt.field 16 8 % 64 == 0) s) (onTroupe via pkt fun m s =>
    if m.parts.any fun p => (s.ev9.part p).tier.sealed then answer via pkt stWrongState [] s
    else if s.ev9.pendingWork (.imageLoad pkt.troupe) then answer via pkt stPending [] s
    else
      deferEv9 via pkt (.imageLoad pkt.troupe) m.mask []
        (emit (.fetchImage (carrierTenant via + 1) (BitVec.ofNat 64 (pkt.field 16 8)) (pkt.field 24 8))) s) s

/-- The first station entry of a load that another partition which is not OFF holds: router and output (R264). -/
def Ev9.stationConflict (e : Ev9) (p : LoadPlan) : Option (Nat × Nat) :=
  (p.slots.find? fun x => decide (16 ≤ x.1) && (List.range 64).any fun i =>
      let new := (x.2.2[i]?).getD 0
      let old := tget 0 e.noc.slots (384 * x.1 + 64 * x.2.1 + i)
      slotValid new && slotValid old && slotOwner old != slotOwner new && (e.part (slotOwner old)).state != .off).map
    fun x => (x.1, x.2.1)

/-- The slot entries of one table: a station's are claimed where valid, a mesh router's are all written (R260, R264). -/
def loadSlots (x : Nat × Nat × List (BitVec 32)) (n : Noc) : Noc :=
  { n with slots := (List.range 64).foldl (fun t i =>
      let v := (x.2.2[i]?).getD 0
      if x.1 < 16 || slotValid v then tput 0 t (384 * x.1 + 64 * x.2.1 + i) v else t) n.slots }

/-- The instruction store of a thread (R119). -/
def Thread.withCode (ws : List Dword) (t : Thread) : Thread :=
  { t with code := (List.range ws.length).foldl (fun u i => tput 0 u i ((ws[i]?).getD 0)) [], codeLen := ws.length }

/-- A core without the streams and the seal of an earlier image. -/
def Core.unload (x : Core) : Core :=
  let bare (t : Thread) : Thread := { t with code := [], codeLen := 0 }
  { ((((x.onThread 0 bare).onThread 1 bare).onThread 2 bare).onThread 3 bare) with
    sealValid := false, sealBase := 0, sealLimit := 0 }

/-- The core's descriptors from its table section (R125). -/
def Core.withHandles (l : List (BitVec 256)) (x : Core) : Core :=
  { x with handles := (List.range 256).foldl (fun t i => tput 0 t i (descReal ((l[i]?).getD 0))) [] }

/-- The core's loop descriptors 1–63 (R129). -/
def Core.withLoops (l : List (BitVec 512)) (x : Core) : Core :=
  { x with loops := (upFrom 1 63).foldl (fun t i => tput 0 t i (loopReal ((l[i]?).getD 0))) [] }

/-- A weights section is written to the core's window, and its range becomes the seal range (R22, R102). -/
def Ev9.loadWeights (w : Weights) (e : Ev9) : Ev9 :=
  (e.store (tierAddr w.core w.offset) w.data false).onCore w.core fun x =>
    { x with sealValid := true, sealBase := BitVec.ofNat 10 w.sealBase, sealLimit := BitVec.ofNat 10 w.sealLimit }

/-- Everything that a load writes. -/
def Ev9.loadPlan (t : Nat) (m : Member) (p : LoadPlan) (e : Ev9) : Ev9 :=
  let e := (m.parts.flatMap coresOf).foldl (fun e c => e.onCore c Core.unload) e
  let e := p.streams.foldl (fun e x => e.onCore x.1 (Core.onThread x.2.1 (Thread.withCode x.2.2))) e
  let e := p.handles.foldl (fun e x => e.onCore x.1 (Core.withHandles x.2)) e
  let e := p.loops.foldl (fun e x => e.onCore x.1 (Core.withLoops x.2)) e
  let e := p.weights.foldl (fun e w => e.loadWeights w) e
  let e := { e with noc := p.slots.foldl (fun n x => loadSlots x n) e.noc }
  e.onMember t fun m => { m with image := some p.image }

/-- The pending IMAGE_LOAD of a troupe completes. -/
def finishLoad (t : BitVec 16) (status : Nat) (result : List Byte) (s : State) : State :=
  finish (fun d => d.work == .imageLoad t) (fun _ => status) (fun _ => result) s

/-- A load that fails leaves the member with no image (R44). -/
def failLoad (t : BitVec 16) (status : Nat) (result : List Byte) (s : State) : State :=
  finishLoad t status result (onMember t.toNat (fun m => { m with image := none }) s)

/-- IMAGE_LOAD_COMPLETE: the image has arrived and is checked. The load of a member that has been started meanwhile fails with
WRONG_STATE (log 34), and like every failed load leaves it with no image loaded (R44). -/
def execImageLoadComplete (troupe : BitVec 16) (img : List Byte) (s : State) : Host.Outcome State Fault Refusal :=
  if !s.ev9.pendingWork (.imageLoad troupe) then stay s
  else
    match s.ev9.member? troupe.toNat with
    | none => .next (finishLoad troupe stWrongState [] s)
    | some m =>
      if m.run != .idle then .next (failLoad troupe stWrongState [] s)
      else
        match parseImage img m.position.toNat m.mask s.ev9.retired (fun n => (s.ev9.port n).plan) with
        | .bad st r => .next (failLoad troupe st r s)
        | .ok p =>
          match s.ev9.stationConflict p with
          | some x => .next (failLoad troupe stWrongState [byteOf x.1, byteOf x.2] s)
          | none => .next (finishLoad troupe stOk (leBytes 2 p.image.sections) (onEv9 (Ev9.loadPlan troupe.toNat m p) s))

/-! ## IMAGE_VERIFY (R23, R24, R468) -/

/-- Check 2: the mode byte supports STRICT, and under STRICT the carousel plan gives every core of the member a window (R468). -/
def Image.modeOk (strict : Bool) (m : Member) (g : Image) : Bool :=
  if strict then g.mode.getLsbD 1 && (m.parts.flatMap coresOf).all fun c => g.carousel.any fun w => w.core == c
  else g.mode.getLsbD 0

/-- Check 3: the member's partitions are those of its position. -/
def Image.placeOk (m : Member) (g : Image) : Bool :=
  match g.table[m.position.toNat]? with
  | none => false
  | some x => x.partitions == m.mask

/-- Check 4: a planned port whose measured hop exceeds the image's allowance. Of several, the result names the lowest physical port
(DESIGN CHOICE, log 52: R23 says only that it names the port). -/
def Ev9.hopFault (e : Ev9) (m : Member) (g : Image) : Option Nat :=
  (e.plannedPorts m).find? fun n => decide ((g.hops[(e.port n).logical.toNat]?).getD 0 < (e.port n).hop.toNat)

/-- The image is flagged as non-reproducible (R24). -/
def Image.nonRepro (g : Image) : Bool := g.mode &&& 0x0C != 0

/-- The status and result of IMAGE_VERIFY. -/
def Ev9.verify (e : Ev9) (m : Member) : Nat × List Byte :=
  match m.image with
  | none => (stWrongState, [])
  | some g =>
    if !g.digestsOk then (stBadParam, [0, 1])
    else if !g.modeOk e.chip.strict m then (stModeConflict, [0, 2])
    else if !g.placeOk m then (stWrongState, [0, 3])
    else match e.hopFault m g with
      | some n => (stFaultLink, [0, 4, byteOf n])
      | none => (stOk, [byteOf (bit g.nonRepro)])

/-- IMAGE_VERIFY (R23, R24, R44, R318). -/
def execImageVerify (via : Carrier) (pkt : Packet) (s : State) : Host.Outcome State Fault Refusal :=
  servePacket via pkt (troupeRule 0x11 via pkt [(8, 2)] true s) (onTroupe via pkt fun m s =>
    answer via pkt (s.ev9.verify m).1 (s.ev9.verify m).2 s) s

/-! ## IMAGE_START (R30, R31, R44, R102, R124, R374, R468) -/

/-- A core at IMAGE_START: threads with a stream at word 0 with their registers zero, counters zero, halves and vector registers
cleared, and the seed captured (R124, R138, R200, R223, R234). With its value a counter loses its overflow bit and its X count, while
armed timers and queue entries of an earlier run are kept (DESIGN CHOICE, log 52: R124 and R138 say neither). -/
def Core.imageStart (x : Core) : Core :=
  let run (t : Thread) : Thread := if t.codeLen = 0 then t else { t with regs := {}, stall := false, sync := none, waitBeats := 0, gap := 0, pend := [] }
  { ((((x.onThread 0 run).onThread 1 run).onThread 2 run).onThread 3 run) with
    acorns := []
    halfA := {}
    halfB := {}
    snaps := []
    vec := { x.vec with regs := [], poison := [], masks := [], vl := 0, seedRun := x.vec.seed, usesHalf := [] } }

/-- The LFSR's seed (R374). -/
def ballastSeed (seed : BitVec 32) (position : BitVec 16) : BitVec 16 :=
  let v := seed.setWidth 16 ^^^ position
  if v = 0 then 0xACE1 else v

/-- A member that has been started and waits for cue 0. -/
def Member.started (g : Image) (m : Member) : Member :=
  { m with
    run := .starting
    step := 0
    inStep := false
    lastBegun := none
    cues := []
    waited := 0
    cancelled := false
    cueCurl := false
    paces := []
    firstPace := g.startPace
    firstCue := true
    stopNext := false
    stopping := none
    notice := none
    noticeAge := 0
    prepared := none
    admits := 0
    rerun := none
    lfsr := ballastSeed g.seed m.position
    cutDone := false
    cutsBefore := 0
    deliveredBefore := 0
    feed := []
    collect := []
    collectPoison := []
    occupancy := [] }

/-- The image starts: seals become active, the cores are set up, and READY goes out. A ringmaster whose READYs are already spoilt
completes with BAD_PARAM (R38, R43). -/
def startImage (t : BitVec 16) (m : Member) (g : Image) (s : State) : State :=
  let s := m.parts.foldl (fun s p => onPart p (fun x => { x with tier := { x.tier with sealed := true } }) s) s
  let s := (m.parts.flatMap coresOf).foldl (fun s c => onCore c Core.imageStart s) s
  let s := sendReady t.toNat (onMember t.toNat (Member.started g) s)
  match m.badStart with
  | some k => finish (fun d => d.work == .imageStart t) (fun _ => stBadParam) (fun _ => leBytes 2 k) s
  | none => s

/-- IMAGE_START (R31, R44, R468). -/
def execImageStart (via : Carrier) (pkt : Packet) (s : State) : Host.Outcome State Fault Refusal :=
  servePacket via pkt (troupeRule 0x12 via pkt [(8, 2)] true s) (onTroupe via pkt fun m s =>
    match m.image with
    | none => answer via pkt stWrongState [] s
    | some g =>
      if s.ev9.pendingWork (.imageStart pkt.troupe) then answer via pkt stPending [] s
      else if m.run != .idle then answer via pkt stWrongState [] s
      else if !g.modeOk s.ev9.chip.strict m then answer via pkt stModeConflict [] s
      else if m.position = 0 then deferEv9 via pkt (.imageStart pkt.troupe) m.mask [] (startImage pkt.troupe m g) s
      else answer via pkt stOk [] (startImage pkt.troupe m g s)) s

/-! ## IMAGE_STOP (R32, R41, R44, R67) -/

/-- A member other than the ringmaster that waits for its first cue: its start is cancelled, and its IMAGE_STOP completes at once
(R41). -/
def cancelStart (t : BitVec 16) (s : State) : State :=
  onMember t.toNat (fun m => { m with run := .stopped, cancelled := true, rerun := none })
    (finish (fun d => d.work == .imageStop t) (fun _ => stOk) (fun _ => []) s)

/-- The stop reaches the ringmaster, here or over VC7 (R32); before the first cue it cancels the start (R41). -/
def requestStop (t : BitVec 16) (m : Member) (s : State) : State :=
  if m.position = 0 then ringStop t.toNat s
  else
    let s := toRingmaster m (.stopForward t m.position) s
    if m.run = .starting then cancelStart t s else s

/-- IMAGE_STOP (R32, R41, R44, R67). -/
def execImageStop (via : Carrier) (pkt : Packet) (s : State) : Host.Outcome State Fault Refusal :=
  servePacket via pkt (troupeRule 0x13 via pkt [(8, 2)] true s) (onTroupe via pkt fun m s =>
    if m.image.isNone || m.run == .idle || s.ev9.anyHeld m then answer via pkt stWrongState [] s
    else if m.run == .stopped then answer via pkt stOk [] s
    else if s.ev9.pendingWork (.imageStop pkt.troupe) then answer via pkt stPending [] s
    else deferEv9 via pkt (.imageStop pkt.troupe) m.mask [] (requestStop pkt.troupe m) s) s

/-! ## STEP_RERUN (R487–R490, R497) -/

/-- The snapshot of step n, if the core holds it. -/
def Core.snapOf (n : Nat) (x : Core) : Option Snap := x.snaps.find? fun k => k.step.toNat == n

/-- A thread with the registers of a snapshot. -/
def Thread.restored (r : ThreadRegs) (t : Thread) : Thread := { t with regs := r, sync := none, stall := false, waitBeats := 0, gap := 0, pend := [] }

/-- A core restored to a snapshot, its engine queues and timers emptied first (R489, steps 1 and 2). -/
def Core.restore (k : Snap) (x : Core) : Core :=
  let set (i : Nat) (y : Core) : Core := y.onThread i (Thread.restored (tget {} k.threads i))
  let x := set 3 (set 2 (set 1 (set 0 x)))
  { x with
    acorns := k.acorns
    timers := k.timers
    handles := k.handles
    loops := k.loops
    qMatrix := []
    qVector := []
    qMover := []
    bufs := []
    sendq := []
    inbox := x.inbox.filter fun f => decide (4 ≤ f.vc)
    sendCarry := none
    rx := []
    lockBeats := 0
    portBusy := 0
    halfA := { x.halfA with phase := .idle, run := none, held := [], injected := none }
    halfB := { x.halfB with phase := .idle, run := none, held := [], injected := none }
    abft := { x.abft with retrying := false }
    vec := { x.vec with vl := k.vl, masks := k.masks, usesHalf := [] } }

/-- A partition at beat 0 of the step that is run again: no curl and no stop (R489). -/
def Part.rerunReset (n : BitVec 48) (x : Part) : Part :=
  { x with
    stopped := false
    clk := { x.clk.freshLost with step := n, stepBeat := 0 }
    curl := { x.curl with curled := false, request := false, absent := [], causes := [], causeNow := none, lastTag := none,
                          lastUntagged := false, clearFor := 0, lasted := 0 } }

/-- A scheduled flit of the member in a buffer or crossing: what its own partitions have sent or wait for (R489). -/
def Ev9.rerunFlit (e : Ev9) (m : Member) (f : Flit) : Bool :=
  decide (f.vc < 4) && maskBit m.mask f.part && (f.port.isNone || e.exitPort f == some none)

/-- The scheduled flits and the cues in a member's early-arrival buffers and crossing FIFOs are discarded, one credit each (R489,
step 1). -/
def discardArrivals (m : Member) (s : State) : State :=
  releaseCues m.cues (purgeFlits (fun _ f => s.ev9.rerunFlit m f) s)

/-- A slot as it stood before the fetches for step n (R487, R489 step 3). -/
def StreamSlot.rewound (t n : Nat) (g : StreamSlot) : StreamSlot :=
  if g.troupe.toNat != t || g.orphan || !(g.state == .bound || g.state == .releasing) then g
  else match g.history.find? fun k => decide (n ≤ k.step.toNat) with
    | none => g
    | some k => { g with head := k.head, position := k.position }

/-- The member waits for cue n again. -/
def Member.rerunning (n : BitVec 48) (pace : Fin 8) (m : Member) : Member :=
  { m with
    run := .starting
    step := n
    inStep := false
    cues := []
    waited := 0
    cancelled := false
    cueCurl := false
    paces := []
    firstPace := pace
    firstCue := true
    stopNext := false
    stopping := none
    notice := none
    noticeAge := 0
    prepared := none
    rerun := some n
    cutDone := false }

/-- The member has an entry chip's lanes. -/
def Member.isEntry (m : Member) : Bool :=
  match m.entryOf with
  | some x => x.entryChip
  | none => false

/-- The effect of an accepted rerun (R489). -/
def beginRerun (t : BitVec 16) (n : BitVec 48) (m : Member) (s : State) : State :=
  let pace := ((m.parts.head?).map fun p => (s.ev9.part p).clk.pace).getD 0
  let s := m.parts.foldl (fun s p => onPart p (Part.rerunReset n) (flushBreach p (cutCurl p s))) s
  let s := (m.parts.flatMap coresOf).foldl (fun s c =>
    match (s.ev9.core c).snapOf n.toNat with
    | some k => onCore c (Core.restore k) s
    | none => s) s
  let s := discardArrivals m s
  let s := onMember t.toNat (Member.rerunning n pace) s
  let s := if m.isEntry then
      fetchAll t.toNat n true (onEv9 (Ev9.onHif fun h =>
        { h with slots := h.slots.map fun e => (e.1, e.2.rewound t.toNat n.toNat) }) s)
    else s
  let s := sendReady t.toNat s
  if m.position = 0 then s
  else onMember t.toNat (fun m => { m with rerun := none }) (finish (fun d => d.work == .rerun t) (fun _ => stOk) (fun _ => []) s)

/-- The member meets the conditions of R489 for step n. -/
def Ev9.mayRerun (e : Ev9) (m : Member) (n : Nat) : Bool :=
  match m.lastBegun with
  | none => false
  | some c =>
    m.image.isSome && m.run != .idle && !e.anyHeld m && decide (n ≤ c.toNat) && decide (c.toNat ≤ n + 2)
      && (m.parts.flatMap coresOf).all fun k => e.retired k || ((e.core k).snapOf n).isSome

/-- STEP_RERUN (R489). -/
def execStepRerun (via : Carrier) (pkt : Packet) (s : State) : Host.Outcome State Fault Refusal :=
  servePacket via pkt (troupeRule 0x14 via pkt [(8, 2), (16, 6)] true s) (onTroupe via pkt fun m s =>
    let n := pkt.field 16 6
    if m.rerun.isSome then answer via pkt stPending [] s
    else if s.ev9.mayRerun m n then
      deferEv9 via pkt (.rerun pkt.troupe) m.mask [] (beginRerun pkt.troupe (BitVec.ofNat 48 n) m) s
    else answer via pkt stWrongState [] s) s

/-! ## QUERY_STATUS (R318) -/

/-- The slots that a tenant holds (R321). -/
def Ev9.slotsHeld (e : Ev9) (t : Nat) : Nat := (e.hif.slots.filter fun x => x.2.state != .free && x.2.tenant.toNat == t).length

/-- The quota of a tenant (R321, R333). -/
def Ev9.quota (e : Ev9) (t : Nat) : Nat := min 4096 (tget 0 e.hif.quotas t).toNat

/-- The status of a member (R318): mask, position, running and the present step. -/
def Ev9.memberStatus (e : Ev9) (m : Member) : List Byte :=
  let step := ((m.parts.head?).map fun p => (e.part p).clk.step.toNat).getD 0
  [m.mask, byteOf m.position.toNat, byteOf (m.position.toNat / 256 % 4 + 128 * bit m.isRunning), 0] ++ leBytes 6 step

/-- QUERY_STATUS (R318). -/
def execQueryStatus (via : Carrier) (pkt : Packet) (s : State) : Host.Outcome State Fault Refusal :=
  let own := pkt.troupe == 0xFFFF
  let parts := if own then [] else s.ev9.troupeParts pkt.troupe
  servePacket via pkt (runtimeRule (pkt.op == 0x50) via [(8, 2)] true parts) (fun s =>
    let t := carrierTenant via
    if own then answer via pkt stOk (leBytes 2 (s.ev9.quota t) ++ leBytes 2 (s.ev9.slotsHeld t)) s
    else onTroupe via pkt (fun m s => answer via pkt stOk (s.ev9.memberStatus m) s) s) s

end Sys2Proof.Machine
end

