-- ==== Sys2Proof/Machine/NwOps.lean ====
section
/-! DEFINITION. NwOps.lean: what the NW8's slots, caps, lamps and replies are to each other (R396–R424, R447–R452). -/

namespace Sys2Proof.Machine

open Sys2Proof

/-! ## Channels (R397, R447) -/

/-- The resolved order is ON (R447). -/
def TrayCh.resolved (x : TrayCh) : Bool := x.hostOn && x.rack != .off

/-- The channel is in INRUSH or ON. -/
def TrayCh.live (x : TrayCh) : Bool := x.state == .inrush || x.state == .on

/-- The number of channels in INRUSH or ON, at least 1 (R407, R449). -/
def Nw8.liveCount (w : Nw8) : Nat := max 1 ((List.range 8).filter fun n => (w.chan n).live).length

/-- A channel changed by `f`. -/
def onChan (n : Nat) (f : TrayCh → TrayCh) (s : State) : State := onNw8 (Nw8.onChan n f) s

/-- The hold domain's registers changed by `f`. -/
def onHold (f : Hold → Hold) (s : State) : State := onNw8 (fun w => { w with hold := f w.hold }) s

/-- The firmware acts: it runs and kept mode is over (R415, R416). -/
def Nw8.acts (w : Nw8) : Bool := w.running && !w.hold.kept

/-- The gate is off and the output discharges; what the module said is forgotten. -/
def TrayCh.gateOff (x : TrayCh) : TrayCh :=
  { x with state := .discharging, offSecs := 0, lowSecs := none, hold := false, opened := false, alertLow := false, identified := false, checked := false,
           written := 0, capAnswered := true, capBrake := false, shedBrake := false }

/-- The channel enters LATCHED with a fault (R401, R403, R405, R409). -/
def TrayCh.latch (f : SlotFault) (x : TrayCh) : TrayCh := { x.gateOff with state := .latched, fault := f }

/-- The resolved order becomes OFF: a live or waiting channel discharges, a latch clears, and the retry interval begins anew (R400,
R403, R420). -/
def TrayCh.orderOff (x : TrayCh) : TrayCh :=
  let x := { x with retryNext := 500, awaitOrder := false }
  match x.state with
  | .inrush | .on | .waitRetry | .latched => { x.gateOff with fault := .none }
  | _ => x

/-! ## Caps and brakes (R449–R451) -/

/-- The rack share in W with `k` channels counted (R449). -/
def Nw8.shareWith (w : Nw8) (k : Nat) : Nat := min ((w.budget.toNat - w.overhead.toNat) / k) 900

/-- The rack share. -/
def Nw8.share (w : Nw8) : Nat := w.shareWith w.liveCount

/-- The effective cap of a channel and its source: 0 rack, 1 host, 2 ceiling, 3 derate; a tie gives the lower code (R449). -/
def effectiveCap (share derate : Nat) (x : TrayCh) : Nat × Nat :=
  let l := [(share, 0), (x.hostCap.toNat, 1), (x.ceiling.toNat, 2), (derate, 3)]
  let m := l.foldl (fun a b => if b.1 < a.1 then b else a) (share, 0)
  (clampCap m.1, m.2)

/-- Every channel's share, effective cap and source. -/
def Nw8.withCaps (w : Nw8) : Nw8 :=
  let k := w.share
  (List.range 8).foldl (fun w n => w.onChan n fun x =>
    let e := effectiveCap k w.cool.derate.toNat x
    { x with share := BitVec.ofNat 10 k, effective := BitVec.ofNat 10 e.1, source := BitVec.ofNat 2 e.2 }) w

/-- The budget leaves the live slots less than 300 W each (R450). -/
def Nw8.starved (w : Nw8) : Bool := ((List.range 8).any fun n => (w.chan n).live) && decide (w.share < 300)

/-- BRAKE_N of each slot: an unanswered cap, a shed, a starved budget, or an emergency (R409, R450, R451). -/
def Nw8.withBrakes (w : Nw8) : Nw8 :=
  (List.range 8).foldl (fun w n => w.onChan n fun x =>
    { x with brakeLow := x.capBrake || x.shedBrake || w.cool.emergency || (x.live && w.starved) }) w

/-- A downstream port whose bus is not stuck. -/
def TwoWire.usable (p : TwoWire) : Bool := !p.stuck && !p.failed && !p.isLocal

/-- The cap of slot n is written to its EV9 if that has answered IDENTIFY, the cap has changed and the bus is free; a rise waits while a
slot that has left ON discharges (R450, R461). -/
def writeCap (n : Nat) (s : State) : State :=
  let x := s.nw8.chan n
  let leaving := (List.range 8).any fun k => (s.nw8.chan k).state == .discharging
  if x.state == .on && x.identified && (s.nw8.downPort n).usable && !x.isolate && x.effective != x.written && (decide (x.effective.toNat < x.written.toNat) || !leaving) then
    emit (.capWrite (Fin.ofNat 8 n) x.effective.toNat)
      (onChan n (fun x => { x with written := x.effective, capAnswered := false }) s)
  else s

/-- Caps and brakes follow orders, budgets, derate and channel states. In kept mode the outputs stand (R415). -/
def settleTray (s : State) : State :=
  if !s.nw8.acts then s
  else onNw8 Nw8.withBrakes ((List.range 8).foldl (fun s n => writeCap n s) (onNw8 Nw8.withCaps s))

/-! ## News and conflicts (R434, R452) -/

/-- A new fault or amber-lamp condition, while the ports are not in reset. -/
def tellNews (s : State) : State := if s.nw8.acts then nwNews s else s

/-- A hardware event in kept mode is recorded for the adoption (R415, R421). -/
def noteEvent (n : Nat) (s : State) : State :=
  if s.nw8.hold.kept then onHold (fun h => { h with events := h.events ++ [(h.timeMs, n)] }) s else s

/-- A conflict entry (R452): the opcode and the slots. -/
def noteConflict (via : Carrier) (op : Nat) (mask : Nat) (s : State) : State :=
  match via.session? with
  | some i => auditBy i { carrier := 0, kind := 6, role := s.role via, what := op, detail := mask } s
  | none => s

/-! ## Deferred commands (R420, R448, R459, R495) -/

/-- A command of the NW8 that completes later. -/
def deferNw8 (via : Carrier) (pkt : Packet) (w : NwWork) (effect : State → State) (s : State) : State :=
  let s := notePrivileged via pkt stDeferred s
  let s := sendReply via { tag := pkt.tag, status := BitVec.ofNat 8 stDeferred, final := false, result := [] } s
  effect (onNw8 (fun x => { x with deferred := x.deferred ++ [⟨via, pkt.tag, w⟩] }) s)

/-- The final reply of a deferred command of the NW8. -/
def nwFinal (d : NwDeferred) (status : Nat) (result : List Byte) (s : State) : State :=
  sendReply d.via { tag := d.tag, status := BitVec.ofNat 8 status, final := true, result := result } s

/-- Every deferred command is changed by `f`, or completes with the status and result that `f` gives. -/
def reviseNw8 (f : NwDeferred → NwWork ⊕ (Nat × List Byte)) (s : State) : State :=
  s.nw8.deferred.foldl (fun s d =>
    match f d with
    | .inl w => onNw8 (fun x => { x with deferred := x.deferred ++ [{ d with work := w }] }) s
    | .inr r => nwFinal d r.1 r.2 s) (onNw8 (fun x => { x with deferred := [] }) s)

/-- A SLOT_POWER that waits for no slot any more completes OK with the slots not waited for and their source (R448). -/
def settleOn (waits overridden src : BitVec 8) : NwWork ⊕ (Nat × List Byte) :=
  if waits = 0 then .inr (stOk, [overridden, src]) else .inl (.slotOn waits overridden src)

/-- A SLOT_POWER OFF likewise. -/
def settleOff (waits overridden src : BitVec 8) : NwWork ⊕ (Nat × List Byte) :=
  if waits = 0 then .inr (stOk, [overridden, src]) else .inl (.slotOff waits overridden src)

/-- Slot n has reached power good. -/
def slotIsOn (n : Nat) (s : State) : State :=
  reviseNw8 (fun d => match d.work with
    | .slotOn waits overridden src => if maskBit waits n then settleOn (clrBit waits n) overridden src else .inl d.work
    | w => .inl w) s

/-- The output of slot n is below 2 V. -/
def slotIsOff (n : Nat) (s : State) : State :=
  reviseNw8 (fun d => match d.work with
    | .slotOff waits overridden src => if maskBit waits n then settleOff (clrBit waits n) overridden src else .inl d.work
    | w => .inl w) s

/-- A swap of slot n ends (R495). -/
def endSwap (n : Nat) (status code : Nat) (s : State) : State :=
  reviseNw8 (fun d => match d.work with
    | .swap k => if k.val = n then .inr (status, [byteOf code]) else .inl d.work
    | w => .inl w) (onChan n (fun x => { x with swap := none }) s)

/-! ## Downstream ports (R436) -/

/-- The port of a slot that is replaced or power-cycled by order may climb its ladder again. -/
def TwoWire.cleared (p : TwoWire) : TwoWire := { p with failed := false, isLocal := false, stuck := false, ladder := 0 }

/-- The downstream port of slot n tries again, its switch closed if the ladder had left it open. -/
def clearPort (n : Nat) (s : State) : State :=
  let p := s.nw8.downPort n
  if p.failed || p.isLocal || p.stuck then onChan n (fun x => { x with isolate := false }) (onNw8 (Nw8.onDown n TwoWire.cleared) s)
  else s

/-! ## Lamps (R411, R412) -/

/-- Some slot is LATCHED or BLOCKED, or a coolant, fan or lamp fault or a reversed feed stands. -/
def Nw8.amber (w : Nw8) : Bool :=
  ((List.range 8).any fun n => (w.chan n).state == .latched || (w.chan n).state == .blocked)
    || w.cool.leak || w.cool.swapped || w.cool.flowReversed || w.cool.pumpFault || w.cool.sensorFault
    || w.fans.any (fun f => f.2.fault) || w.lamps.any (fun l => l.2.opened || l.2.short) || w.feedReversed

/-- The automatic pattern of lamp l, if one holds; the blue lamp of a swap is off in stage 7 (R495). -/
def Nw8.autoLamp (w : Nw8) (l : Nat) : Option Nat :=
  if l < 8 then
    let x := w.chan l
    match x.state with
    | .latched | .blocked => some 1
    | .waitRetry => some 3
    | _ => if x.opened then some 4 else none
  else if l < 16 then
    let x := w.chan (l - 8)
    match x.swap with
    | some k => some (if k = 4 ∨ k = 5 then 1 else if k = 7 then 0 else 3)
    | none => if w.locates.contains (l - 8) then some 2 else none
  else match l with
    | 16 => if w.fw.active || w.fw.committing then some 3 else if w.hold.autonomous then some 4 else if w.running then some 1 else none
    | 17 => if w.cool.emergency then some 3 else if w.amber then some 1 else none
    | 18 => if w.locates.contains 8 then some 2 else none
    | _ => none

/-- Lamp l. -/
def Nw8.lamp (w : Nw8) (l : Nat) : Lamp := tget {} w.lamps l

/-- A pattern code; 5–7 act as 0. -/
def lampCode (b : BitVec 3) : Nat := if b.toNat ≤ 4 then b.toNat else 0

/-- The pattern shown (R412, R424); in kept mode the outputs stand (R415). -/
def Nw8.lampShown (w : Nw8) (l : Nat) : Nat :=
  if w.hold.kept then (w.lamp l).kept.toNat else (w.autoLamp l).getD (lampCode (w.lamp l).requested)

/-- A lamp changed by `f`. -/
def onLamp (l : Nat) (f : Lamp → Lamp) (s : State) : State := onNw8 (fun w => { w with lamps := tmod {} w.lamps l f }) s

/-! ## Restarts (R415, R435, R443) -/

/-- The CPU of the NW8 restarts: its sessions end, replies and deferred commands are lost, and the hold domain enters kept mode. -/
def nwRestart (cause : Nat) (s : State) : State :=
  let s := endSession .nwRack .reset (endSession .nwHost .reset s)
  onNw8 (fun w => { w with
    running := false
    hold := { w.hold with kept := true, cause := BitVec.ofNat 4 cause }
    sessHost := {}
    sessRack := {}
    host := { w.host with replies := [], lastBlock := [], news := false, retry := false }
    rackPort := { w.rackPort with replies := [], lastBlock := [], news := false, retry := false }
    lamps := (List.range 20).foldl (fun t l => tmod {} t l fun x => { x with kept := BitVec.ofNat 3 (w.lampShown l) }) w.lamps
    deferred := []
    fw := {}
    chans := (List.range 8).foldl (fun t n => tmod {} t n fun x => { x with swap := none }) w.chans }) s

end Sys2Proof.Machine
end

