-- ==== Sys2Proof/Machine/NwCool.lean ====
section
/-! DEFINITION. NwCool.lean: the NW8's coolant, pump and fans (R406–R410, R423), and its lamps (R411–R413, R424). -/

namespace Sys2Proof.Machine

open Sys2Proof

/-! ## Coolant (R406–R409) -/

/-- The coolant registers changed by `f`. -/
def onCool (f : Coolant → Coolant) (s : State) : State := onNw8 (fun w => { w with cool := f w.cool }) s

/-- The 55 °C that an open or short NTC counts as, in 0.1 °C (R406). -/
def ntcDefault : Int := 550

/-- D_raw of R407, rounded down: Ts in 0.1 °C, flow in 10 mL/min. -/
def derateRaw (ts flow : Int) (live : Nat) : Int :=
  (995 - ts) * 100 * min (flow.natAbs : Int) (150 * live) / (55 * (150 * live))

/-- D of R407. -/
def derateOf (raw : Int) : Nat := if raw < 300 then 300 else if 900 < raw then 900 else raw.toNat

/-- The power of the live slots in W, from mA and 10 mV units. -/
def Nw8.livePower (w : Nw8) (slots : List SlotReading) : Nat :=
  ((List.range 8).map fun n =>
    if (w.chan n).live then match slots[n]? with
      | some r => r.current.toNat * r.volts.toNat
      | none => 0
    else 0).sum / 100000

/-- The registers after a second's readings; flow that is not reversed clears the findings of R408. -/
def Coolant.sampled (r : CoolantReading) (live watts : Nat) (c : Coolant) : Coolant :=
  let ts := r.ts.getD ntcDefault
  let raw := derateRaw ts r.flow live
  { c with
    ts := ts
    tr := r.tr.getD ntcDefault
    flow := r.flow
    sensorFault := r.ts.isNone || r.tr.isNone
    flowLow := decide (r.flow.natAbs < 150 * live)
    supplyHot := decide (500 < ts)
    swapped := c.swapped && decide (r.flow < 0)
    flowReversed := c.flowReversed && decide (r.flow < 0)
    liveWatts := watts
    tach := r.pumpRpm
    derate := BitVec.ofNat 10 (derateOf raw)
    lowSeconds := if raw < 300 then c.lowSeconds + 1 else 0
    reverseSeconds := if r.flow < -20 then c.reverseSeconds + 1 else 0
    alarmSeconds := if c.emergency then c.alarmSeconds + 1 else 0
    clearSeconds := if c.emergency && !(raw < 300) && !(c.swapped && decide (r.flow < 0)) then c.clearSeconds + 1 else 0 }

/-- Measurements of slot n enter SLOT_MEAS_n (R418). -/
def TrayCh.measured (r : Option SlotReading) (x : TrayCh) : TrayCh :=
  match r with
  | some r => { x with current := r.current, volts := r.volts }
  | none => x

/-- A coolant emergency begins: brakes on every slot (R409); a second condition joins the one that runs (R423). -/
def enterEmergency (s : State) : State :=
  if s.nw8.cool.emergency then s else settleTray (tellNews (onCool (fun c => { c with emergency := true, alarmSeconds := 0, clearSeconds := 0 }) s))

/-- The fans after their tachometers have been read. -/
def fansRead (rpm : List (BitVec 16)) (t : Table Fan) : Table Fan :=
  (List.range 4).foldl (fun t f => match rpm[f]? with
    | some v => tmod {} t f fun x => { x with tach := v }
    | none => t) t

/-- One second passes for a channel. -/
def TrayCh.second (x : TrayCh) : TrayCh :=
  { x with lowSecs := x.lowSecs.map (· + 1), offSecs := x.offSecs + 1, upSecs := x.upSecs + 1, swapSecs := x.swapSecs + 1 }

/-- One second of hold-domain time passes (R414). -/
def Nw8.second (w : Nw8) : Nw8 :=
  { w with
    hold := { w.hold with timeMs := (w.hold.timeMs + 1000) % 2 ^ 32 }
    chans := (List.range 8).foldl (fun t n => tmod {} t n TrayCh.second) w.chans
    cool := { w.cool with leakSeconds := if w.cool.leak then w.cool.leakSeconds + 1 else 0 }
    locTimed := w.locTimed.map fun x => (x.1, x.2 - 1) }

/-- The seconds for which fan f has read too slow, with its duty (R410). -/
def Fan.slowed (duty : Nat) (x : Fan) : Fan :=
  { x with slowSeconds := if 30 ≤ duty ∧ x.tach.toNat < 500 then x.slowSeconds + 1 else 0 }

/-- The duty at which fan f runs: 100 % in an emergency or with a pump fault (R410). -/
def Nw8.fanDuty (w : Nw8) (f : Nat) : Nat :=
  if w.cool.emergency || w.cool.pumpFault then 100 else (tget {} w.fans f).duty.toNat

/-- COOLANT_SAMPLE (R406, R407, R409, R449): one second of hold-domain time passes; outside kept mode the derate is computed anew, and
five seconds of D_raw below 300 W are an emergency. -/
def execCoolantSample (r : CoolantReading) (s : State) : Host.Outcome State Fault Refusal :=
  let s := onNw8 Nw8.second s
  if !s.nw8.acts then .next s
  else
    let faulty := s.nw8.cool.sensorFault
    let s := onNw8 (fun w => { w with
      cool := w.cool.sampled r w.liveCount (w.livePower r.slots)
      chans := (List.range 8).foldl (fun t n => tmod {} t n (TrayCh.measured r.slots[n]?)) w.chans
      fans := fansRead r.fanRpm w.fans }) s
    let s := onNw8 (fun w => { w with fans := (List.range 4).foldl (fun t f => tmod {} t f (Fan.slowed (w.fanDuty f))) w.fans }) s
    let s := if s.nw8.cool.sensorFault && !faulty then tellNews s else s
    let s := settleTray s
    .next (if 5 ≤ s.nw8.cool.lowSeconds then enterEmergency s else s)

/-- FLOW_REVERSAL_FINDING (R408, R409): the flow has been below −0.2 L/min for 5 s while the live slots draw at least 200 W. -/
def execFlowReversalFinding (s : State) : Host.Outcome State Fault Refusal :=
  let c := s.nw8.cool
  if !s.nw8.acts || !decide (5 ≤ c.reverseSeconds) || !decide (200 ≤ c.liveWatts) then stay s
  else if c.ts ≤ c.tr then
    if c.flowReversed then stay s else .next (tellNews (onCool (fun c => { c with flowReversed := true }) s))
  else if c.tr + 10 ≤ c.ts then .next (enterEmergency (onCool (fun c => { c with swapped := true }) s))
  else stay s

/-- LEAK_DETECT (R409, R415, R421, R423): hardware of the hold domain, which brakes every slot in kept mode too. -/
def execLeakDetect (s : State) : Host.Outcome State Fault Refusal :=
  if s.nw8.cool.leak then stay s
  else
    let brake (x : TrayCh) : TrayCh := { x with brakeLow := true }
    let s := noteEvent 8 (onCool (fun c => { c with
      leak := true, leakSeconds := 0, emergency := true, alarmSeconds := if c.emergency then c.alarmSeconds else 0, clearSeconds := 0 }) s)
    .next (settleTray (tellNews ((List.range 8).foldl (fun s n => onChan n brake s) s)))

/-- The switch-off delay of an emergency may be over: 2 s after a leak, 10 s otherwise, the shorter where both hold; in kept mode only
a leak's runs (R409, R416, R423). -/
def Nw8.switchOffDue (w : Nw8) : Bool :=
  w.cool.emergency && ((w.cool.leak && decide (2 ≤ w.cool.leakSeconds)) || (w.acts && decide (10 ≤ w.cool.alarmSeconds)))

/-- COOLANT_LATCH_DELAY (R409, R416, R421, R423): the live channels latch. -/
def execCoolantLatchDelay (s : State) : Host.Outcome State Fault Refusal :=
  if !s.nw8.switchOffDue then stay s
  else .next (settleTray ((List.range 8).foldl (fun s n =>
    if (s.nw8.chan n).live then tellNews (noteEvent n (onChan n (TrayCh.latch .coolant) s)) else s) s))

/-- COOLANT_EMERGENCY_END (R409): the condition has been absent for 60 s; after a leak no channel may be latched by it. -/
def execCoolantEmergencyEnd (s : State) : Host.Outcome State Fault Refusal :=
  let c := s.nw8.cool
  let latched := (List.range 8).any fun n => (s.nw8.chan n).state == .latched && (s.nw8.chan n).fault == .coolant
  if s.nw8.acts && c.emergency && decide (60 ≤ c.clearSeconds) && !(c.leak && latched) then
    .next (settleTray (onCool (fun c => { c with emergency := false, leak := false, leakSeconds := 0 }) s))
  else stay s

/-! ## Pump and fans (R410) -/

/-- The duty at which the pump runs: 100 % in an emergency, at least 30 % while a channel is live. -/
def Nw8.pumpDuty (w : Nw8) : Nat :=
  if w.cool.emergency then 100
  else if (List.range 8).any fun n => (w.chan n).live then max 30 w.cool.duty.toNat
  else w.cool.duty.toNat

/-- Fan f. -/
def Nw8.fan (w : Nw8) (f : Nat) : Fan := tget {} w.fans f


/-- PUMP_FAULT (R410): for 3 s the tachometer has read below half the speed expected from the duty. -/
def execPumpFault (s : State) : Host.Outcome State Fault Refusal :=
  if s.nw8.acts && !s.nw8.cool.pumpFault then .next (tellNews (onCool (fun c => { c with pumpFault := true }) s)) else stay s

/-- FAN_FAULT (R410): for 3 s the fan has read below 500 rpm at a duty of 30 % or more. -/
def execFanFault (f : Fin 4) (s : State) : Host.Outcome State Fault Refusal :=
  let x := s.nw8.fan f
  if s.nw8.acts && decide (3 ≤ x.slowSeconds) then
    .next (tellNews (onNw8 (fun w => { w with fans := tmod {} w.fans f.val fun x => { x with fault := true } })
      (noteSet (offNw8 (0x320 + 4 * f.val)) 24 x.fault s)))
  else stay s

/-! ## Lamps (R411–R413, R424, R446) -/

/-- A lamp check's finding is new. -/
def Lamp.isNew (x : Lamp) : LampFinding → Bool
  | .good => false
  | .opened => !x.opened
  | .short => !x.short

/-- The lamp with a finding's bit set. -/
def Lamp.found (x : Lamp) : LampFinding → Lamp
  | .good => x
  | .opened => { x with opened := true }
  | .short => { x with short := true }

/-- The number of a finding in its audit entry: bit 8 or 9 of LAMP_l (log 35). -/
def LampFinding.code : LampFinding → Nat
  | .good => 0
  | .opened => 0x100
  | .short => 0x200

/-- LAMP_CHECK (R413): a lit lamp is checked; a finding is logged once. -/
def execLampCheck (l : Fin 20) (finding : LampFinding) (s : State) : Host.Outcome State Fault Refusal :=
  if s.nw8.acts && decide (s.nw8.lampShown l ≠ 0) && (s.nw8.lamp l).isNew finding then
    .next (auditNw8 { carrier := 2, kind := 7, what := 0x200 + 4 * l.val, detail := LampFinding.code finding }
      (tellNews (onLamp l (fun x => x.found finding)
        (noteSet (offNw8 (0x200 + 4 * l.val)) (if finding = .short then 9 else 8) false s))))
  else stay s

/-- LAMP_SET (R412, R424, R446). -/
def execLampSet (via : Carrier) (pkt : Packet) (s : State) : Host.Outcome State Fault Refusal :=
  servePacket via pkt
    { mine := pkt.op == 0xD4, allowed := via.isNw8, used := [(8, 2)], paramsOk := pkt.byte 8 < 20 && pkt.byte 9 ≤ 4 }
    (fun s => answer via pkt stOk [] (onLamp (pkt.byte 8) (fun x => { x with requested := BitVec.ofNat 3 (pkt.byte 9) }) s)) s

/-- A locate condition is set, for some seconds or, with 0, until cleared, or cleared (R412, R446). -/
def Nw8.locate (w : Nw8) (which : Nat) (on : Bool) (seconds : Nat) : Nw8 :=
  { w with
    locates := if on then sadd w.locates which else sdel w.locates which
    locTimed := if on && seconds != 0 then tins w.locTimed which seconds else tdel w.locTimed which }

/-- LOCATE (R412, R446). -/
def execLocate (via : Carrier) (pkt : Packet) (s : State) : Host.Outcome State Fault Refusal :=
  servePacket via pkt
    { mine := pkt.op == 0xD5, allowed := via.isNw8, used := [(8, 4)], paramsOk := pkt.byte 8 ≤ 8 && pkt.byte 9 ≤ 1 }
    (fun s => answer via pkt stOk [] (onNw8 (fun w => w.locate (pkt.byte 8) (pkt.byte 9 == 1) (pkt.field 10 2)) s)) s

/-- LOCATE_EXPIRY (R446): the seconds of a timed LOCATE run out. -/
def execLocateExpiry (which : Fin 9) (s : State) : Host.Outcome State Fault Refusal :=
  if s.nw8.acts && tfind s.nw8.locTimed which.val == some 0 then .next (onNw8 (fun w => w.locate which false 0) s) else stay s

/-- COOL_STATUS bits 7:0 (R418). -/
def Coolant.status (c : Coolant) : Nat :=
  bit c.leak + 2 * bit c.swapped + 4 * bit c.flowReversed + 8 * bit c.flowLow + 16 * bit c.supplyHot + 32 * bit c.pumpFault
    + 64 * bit c.emergency + 128 * bit c.sensorFault

/-- A signed number in 16 bits. -/
def signed16 (x : Int) : Nat := (BitVec.ofInt 16 x).toNat

/-- COOLANT_QUERY (R446). -/
def execCoolantQuery (via : Carrier) (pkt : Packet) (s : State) : Host.Outcome State Fault Refusal :=
  servePacket via pkt { mine := pkt.op == 0xD8, allowed := via.isNw8, used := [], paramsOk := true }
    (fun s =>
      let c := s.nw8.cool
      answer via pkt stOk (leBytes 2 (signed16 c.ts) ++ leBytes 2 (signed16 c.tr) ++ leBytes 2 (signed16 c.flow)
        ++ leBytes 2 c.derate.toNat ++ [byteOf c.status, byteOf s.nw8.pumpDuty] ++ leBytes 2 c.tach.toNat) s) s

end Sys2Proof.Machine
end

