-- ==== Sys2Proof/Machine/Manage.lean ====
section
/-! DEFINITION. Manage.lean: the management opcodes of both chips that no other file holds (R275, R369, R440–R446, R454, R463, R467,
R511). -/

namespace Sys2Proof

open Sys2Proof.Machine

/-- The chip of a carrier. -/
def Carrier.chip (via : Carrier) : Chip := if via.isNw8 then .nw8 else .ev9

/-- The bytes of a command that returns reply data: the management ring also gives the IOVA of bytes 56–63 (R433). -/
def Carrier.dataBytes (via : Carrier) (l : List (Nat × Nat)) : List (Nat × Nat) := if via = .mgmt then l ++ [(56, 8)] else l

/-- That IOVA is 64-byte aligned. -/
def Packet.dataOk (p : Packet) (via : Carrier) : Bool := via != .mgmt || p.field 56 8 % 64 == 0

/-- A carrier of management packets that is not a tenant ring (R312). -/
def Carrier.isMgmt (via : Carrier) : Bool := !via.isTenant

/-- The 32 bytes of an audit entry (R453). -/
def Machine.AuditEntry.bytes (x : Machine.AuditEntry) : List Byte :=
  leBytes 8 x.time.toNat ++ leBytes 4 x.seq.toNat ++ [x.carrier, x.kind, x.role, x.status] ++ leBytes 4 x.what.toNat
    ++ leBytes 12 x.detail.toNat

end Sys2Proof

namespace Sys2Proof.Machine

open Sys2Proof

/-! ## Identity, keys and sessions (R440–R446, R462) -/

/-- The 8 bytes of a chip's serial. -/
def serialBytes (c : Chip) : List Byte := leBytes 8 (Config.serial c).toNat

/-- The firmware major version that IDENTIFY reports: 0 in recovery (R446, R480). -/
def State.majorOf (s : State) : Chip → BitVec 8
  | .ev9 => if s.ev9.inRecovery then 0 else s.ev9.svc.major
  | .nw8 => s.nw8.major.getD Config.nw8Major

/-- IDENTIFY's part code and stepping. -/
def partBytes : Chip → List Byte
  | .ev9 => leBytes 2 0x0E90 ++ [0xB0]
  | .nw8 => leBytes 2 0x0A08 ++ [Config.nw8Stepping]

/-- IDENTIFY (R446). -/
def execIdentify (via : Carrier) (pkt : Packet) (s : State) : Host.Outcome State Fault Refusal :=
  servePacket via pkt { mine := pkt.op == 0x80, allowed := via.isMgmt, used := [], paramsOk := true }
    (fun s => answer via pkt stOk (partBytes via.chip ++ [s.majorOf via.chip] ++ serialBytes via.chip) s) s

/-- The session that a management carrier holds. -/
def Carrier.sid (via : Carrier) : SessionId := via.session?.getD .pf

/-- An elevation entry: what was tried, with the role held before (log 31). -/
def noteElevation (i : SessionId) (kind op status detail : Nat) (s : State) : State :=
  auditBy i { carrier := 0, kind := kind, role := (s.session i).role, status := status, what := op, detail := detail } s

/-- ROLE_CHALLENGE (R433, R441, R442): a fresh nonce replaces the carrier's last one. -/
def execRoleChallenge (via : Carrier) (pkt : Packet) (s : State) : Host.Outcome State Fault Refusal :=
  servePacket via pkt
    { mine := pkt.op == 0x83, allowed := via.isMgmt, used := via.dataBytes [], paramsOk := pkt.dataOk via }
    (fun s =>
      let i := Carrier.sid via
      if (s.session i).locked then answer via pkt stNotPermitted [] (noteElevation i 2 0x83 stNotPermitted 0 s)
      else
        let nonce := Config.nonce s.fresh
        answerWithData via pkt stOk [] (leBytes 16 nonce.toNat) (onSession i (fun x => { x with nonce := some nonce, nonceMs := s.now via.chip }) (drawn s))) s

/-- The installer key of a chip: the shipped one until SET_MODE item 2 replaces it (R440). -/
def State.installerKey (s : State) : Chip → List Byte
  | .ev9 => s.ev9.svc.installerKey.getD ((List.range 32).map (Config.shippedKey .ev9))
  | .nw8 => s.nw8.installerKey.getD ((List.range 32).map (Config.shippedKey .nw8))

/-- The fused maker key (R440). -/
def makerKeyOf (c : Chip) : List Byte := (List.range 32).map (Config.makerKey c)

/-- FACTORY_N is low, or the jumper is fitted (R440). -/
def State.factory (s : State) : Chip → Bool
  | .ev9 => s.ev9.dbg.factoryLow
  | .nw8 => s.nw8.factoryLow

/-- The MAC of an elevation (R441). -/
def elevationMac (key : List Byte) (nonce : BitVec 128) (role carrier : Nat) (c : Chip) : List Byte :=
  (hmacSha256 key (leBytes 16 nonce.toNat ++ [byteOf role, byteOf carrier] ++ serialBytes c)).take 16

/-- The attempt is good: a valid nonce, the role's key, and for the maker FACTORY_N (R440, R441). -/
def State.elevates (s : State) (via : Carrier) (pkt : Packet) : Bool :=
  let i := Carrier.sid via
  let c := via.chip
  let key := if pkt.byte 8 = 1 then s.installerKey c else makerKeyOf c
  match (s.session i).nonce with
  | none => false
  | some n => !s.surelySince c (s.session i).nonceMs 60000 && (pkt.byte 8 == 1 || s.factory c) && elevationMac key n (pkt.byte 8) (sessCarrier i) c == slice pkt.bytes 16 16

/-- The role of byte 8. -/
def roleOf (n : Nat) : Role := if n = 1 then .installer else .maker

/-- The session after a failed attempt: the fourth within 10 minutes locks the carrier (R442). -/
def Session.failed (now : Nat) (x : Session) : Session :=
  let l := x.fails.filter (fun t => decide (now < t + 600000)) ++ [now]
  { x with fails := l, locked := x.locked || decide (4 ≤ l.length) }

/-- ROLE_ELEVATE's effect: the nonce is spent in every case; a role above the one held is taken (log 31). -/
def elevate (via : Carrier) (pkt : Packet) (s : State) : State :=
  let i := Carrier.sid via
  let x := s.session i
  let good := s.elevates via pkt
  let s := onSession i (fun x => { x with nonce := none }) s
  if x.locked then answer via pkt stNotPermitted [] (noteElevation i 2 0x81 stNotPermitted (pkt.byte 8) s)
  else if good then
    let r := roleOf (pkt.byte 8)
    let s := noteElevation i 1 0x81 stOk (pkt.byte 8) s
    answer via pkt stOk [] (onSession i (fun x => { x with role := if x.role.atLeast r then r else x.role }) s)
  else
    let s := onSession i (Session.failed (s.now via.chip)) (noteElevation i 2 0x81 stNotPermitted (pkt.byte 8) s)
    let s := if (s.session i).locked then noteElevation i 2 0x81 stNotPermitted 0x100 s else s
    answer via pkt stNotPermitted [] s

/-- ROLE_ELEVATE (R440–R442, R462). -/
def execRoleElevate (via : Carrier) (pkt : Packet) (s : State) : Host.Outcome State Fault Refusal :=
  servePacket via pkt
    { mine := pkt.op == 0x81, allowed := via.isMgmt, used := [(8, 1), (16, 16)], paramsOk := pkt.byte 8 == 1 || pkt.byte 8 == 2 }
    (elevate via pkt) s

/-- ROLE_DROP (R443, R444, R462). -/
def execRoleDrop (via : Carrier) (pkt : Packet) (s : State) : Host.Outcome State Fault Refusal :=
  servePacket via pkt { mine := pkt.op == 0x82, allowed := via.isMgmt, used := [], paramsOk := true }
    (fun s => answer via pkt stOk [] (endSession (Carrier.sid via) .drop s)) s

/-! ## SET_MODE (R440, R446, R463, R467, R472, R473) -/

/-- The port retrains from stage 6, or will as soon as TRCLK is there (R288, R467). With every
partition OFF no port holds a role: its identity goes out again. -/
def Port.stageSix (clock : Bool) (x : Port) : Port :=
  if x.state = .disabled then x
  else { x with heard := false }.beginTraining clock .six

/-- STRICT takes a new value: its copies follow at once and the ports retrain (R467). -/
def setStrict (v : Bool) (s : State) : State :=
  if s.ev9.chip.strict = v then s
  else (List.range 12).foldl (fun s n => onPort n (Port.stageSix s.ev9.chip.trPresent) s) (onEv9 (fun e => { e with chip := { e.chip with strict := v } }) s)

/-- SET_MODE_STRICT (R446, R463, R467, R472, R473); an item other than 1 and 2 is BAD_PARAM. -/
def execSetModeStrict (via : Carrier) (pkt : Packet) (s : State) : Host.Outcome State Fault Refusal :=
  servePacket via pkt
    { mine := pkt.op == 0x88 && pkt.byte 8 != 2, allowed := via.isMgmt, used := [(8, 2)],
      paramsOk := pkt.byte 8 == 1 && pkt.byte 9 ≤ 1 && !via.isNw8, role := .installer }
    (fun s =>
      if (List.range 8).all fun p => (s.ev9.part p).state == .off then answer via pkt stOk [] (setStrict (pkt.byte 9 == 1) s)
      else answer via pkt stWrongState [] s) s

/-- The MAC of a new installer key under the current one (R446). -/
def State.keyMac (s : State) (c : Chip) (key : List Byte) : List Byte :=
  (hmacSha256 (s.installerKey c) (key ++ serialBytes c)).take 16

/-- A chip's installer key is replaced. -/
def setInstallerKey (c : Chip) (key : List Byte) (s : State) : State :=
  match c with
  | .ev9 => onEv9 (Ev9.onSvc fun v => { v with installerKey := some key }) s
  | .nw8 => onNw8 (fun w => { w with installerKey := some key }) s

/-- SET_MODE_INSTALLER_KEY (R440, R446). -/
def execSetModeInstallerKey (via : Carrier) (pkt : Packet) (s : State) : Host.Outcome State Fault Refusal :=
  servePacket via pkt
    { mine := pkt.op == 0x88 && pkt.byte 8 == 2, allowed := via.isMgmt, used := [(8, 1), (16, 48)], paramsOk := true,
      role := .installer }
    (fun s =>
      let key := slice pkt.bytes 16 32
      if s.keyMac via.chip key == slice pkt.bytes 48 16 then answer via pkt stOk [] (setInstallerKey via.chip key s)
      else answer via pkt stBadParam [] s) s

/-! ## Power and temperature (R369, R446) -/

/-- POWER_CAP_SET of the EV9 (R369): the ring sets the host cap, SMB_0 the slot limit; the value is stored in any case. -/
def execPowerCapSet (via : Carrier) (pkt : Packet) (s : State) : Host.Outcome State Fault Refusal :=
  servePacket via pkt { mine := pkt.op == 0xA0 && !via.isNw8, allowed := via.isEv9Mgmt, used := [(8, 2)], paramsOk := true }
    (fun s =>
      let v := clampCap (pkt.field 8 2)
      let s := onPower (fun x => if via = .smb0 then { x with slotLimit := BitVec.ofNat 10 v }
        else { x with hostCap := BitVec.ofNat 10 v }) s
      let c := s.ev9.power.capSource
      answer via pkt (if c.1 = v then stOk else stCapConstrained) (leBytes 2 c.1 ++ [byteOf c.2]) s) s

/-- PWR_STATUS bits 7:0 (R387). -/
def Power.status (x : Power) : Nat :=
  bit x.stale + 2 * bit x.fallback + 4 * bit x.measLost + 8 * bit x.braked + 16 * x.brakeSrc.toNat

/-- The request and the pace in force of partition p; for the chip the slowest of each (R446, log 27). -/
def Ev9.requestPace (e : Ev9) (p : Nat) : Nat × Nat :=
  if p < 8 then ((e.part p).request.val, (e.part p).clk.pace.val)
  else (List.range 8).foldl (fun a k => (max a.1 (e.part k).request.val, max a.2 (e.part k).clk.pace.val)) (0, 0)

/-- POWER_QUERY's result on the EV9. -/
def Ev9.powerResult (e : Ev9) (p : Nat) : List Byte :=
  let c := e.power.capSource
  let k := e.requestPace p
  leBytes 2 c.1 ++ [byteOf c.2, byteOf e.power.status] ++ leBytes 2 (e.power.measured / 1000)
    ++ leBytes 2 (e.power.est.toNat / 1000) ++ [byteOf (k.1 + 16 * k.2)]

/-- The power of a channel in W. -/
def TrayCh.watts (x : TrayCh) : Nat := x.current.toNat * x.volts.toNat / 100000

/-- POWER_QUERY's result on the NW8. -/
def TrayCh.powerResult (x : TrayCh) : List Byte :=
  leBytes 2 x.effective.toNat ++ [byteOf x.source.toNat, byteOf (bit x.brakeLow + 2 * bit x.shedBrake)] ++ leBytes 2 x.watts
    ++ leBytes 2 x.share.toNat ++ leBytes 2 x.hostCap.toNat ++ leBytes 2 x.ceiling.toNat

/-- POWER_QUERY (R446). -/
def execPowerQuery (via : Carrier) (pkt : Packet) (s : State) : Host.Outcome State Fault Refusal :=
  servePacket via pkt
    { mine := pkt.op == 0xA1, allowed := via.isMgmt, used := [(8, 1)],
      paramsOk := pkt.byte 8 < 8 || (pkt.byte 8 == 0xFF && !via.isNw8) }
    (fun s => answer via pkt stOk
      (if via.isNw8 then (s.nw8.chan (pkt.byte 8)).powerResult else s.ev9.powerResult (pkt.byte 8)) s) s

/-- THERMAL_QUERY (R446). -/
def execThermalQuery (via : Carrier) (pkt : Packet) (s : State) : Host.Outcome State Fault Refusal :=
  servePacket via pkt { mine := pkt.op == 0xA8, allowed := via.isEv9Mgmt, used := [], paramsOk := true }
    (fun s =>
      let t := s.ev9.therm
      answer via pkt stOk [t.tj, byteOf t.hottest.toNat, byteOf t.band.toNat, byteOf (bit t.throttling), t.throttle, t.tjMax] s) s

/-! ## Links (R275, R290, R446) -/

/-- Every field of a plan entry is valid, in the entry of an unused port too (R275). -/
def planOk (d : BitVec 128) : Bool :=
  (decide (planPos d < 1024) || planPos d == 0xFFFF) && planField d 28 4 == 0 && planField d 36 4 == 0 && planField d 44 84 == 0
    && planWidth d != 3 && decide (2 ≤ planLevel d)

/-- With the entry on port n, its group's ports belong to one partition (R275). -/
def Ev9.groupOk (e : Ev9) (n : Nat) (d : BitVec 128) : Bool :=
  planGroup d == 0 || (List.range 12).all fun k =>
    k == n || !planUsed (e.port k).plan || planGroup (e.port k).plan != planGroup d || e.portOwner k == e.portOwner n

/-- LINK_CONFIG's effect on a port: plan, enable and gen_max are written and it retrains. -/
def Port.configured (clock enable : Bool) (gen : Nat) (d : BitVec 128) (x : Port) : Port :=
  let x := { x with plan := d, enable := enable, genMax := BitVec.ofNat 2 gen }
  if x.state = .fenced || !enable || !planUsed d then x.settle clock else x.beginTraining clock .full

/-- LINK_CONFIG (R275, R446, R473). -/
def execLinkConfig (via : Carrier) (pkt : Packet) (s : State) : Host.Outcome State Fault Refusal :=
  let d : BitVec 128 := BitVec.ofNat 128 (pkt.field 16 16)
  servePacket via pkt
    { mine := pkt.op == 0xB0, allowed := via == .mgmt, used := [(8, 2), (16, 16)],
      paramsOk := pkt.byte 8 < 12 && pkt.byte 9 < 8 && planOk d, role := .installer }
    (fun s =>
      let n := pkt.byte 8
      if !s.ev9.groupOk n d then answer via pkt stBadParam [] s
      else if (s.ev9.portMember n).isSome then answer via pkt stWrongState [] s
      else answer via pkt stOk [] (onPort n (Port.configured s.ev9.chip.trPresent (pkt.byte 9 % 2 == 1) (pkt.byte 9 / 2) d) s)) s

/-- SNL_STATUS_s bits 39:0 (R290). -/
def Port.statusBits (x : Port) : Nat :=
  x.state.code + 2 ^ 4 * x.reason.toNat + 2 ^ 11 * bit x.hopOver + 2 ^ 12 * x.level.toNat + 2 ^ 14 * x.gen.toNat
    + 2 ^ 16 * x.width.toNat + 2 ^ 18 * x.polarity.toNat + 2 ^ 26 * bit x.reversed + 2 ^ 27 * bit x.remapped
    + 2 ^ 28 * x.logical.toNat + 2 ^ 32 * x.lanesGood.toNat

/-- LINK_QUERY (R446). -/
def execLinkQuery (via : Carrier) (pkt : Packet) (s : State) : Host.Outcome State Fault Refusal :=
  servePacket via pkt { mine := pkt.op == 0xB1, allowed := via.isEv9Mgmt, used := [(8, 1)], paramsOk := pkt.byte 8 < 12 }
    (fun s =>
      let x := s.ev9.port (pkt.byte 8)
      answer via pkt stOk (leBytes 5 x.statusBits ++ leBytes 2 x.hop.toNat ++ leBytes 2 x.replay.toNat) s) s

/-! ## LOG_READ (R446, R454, R464) -/

/-- The entries from a sequence number on, at most n of them. -/
def logFrom (l : List AuditEntry) (first n : Nat) : List AuditEntry :=
  (l.filter fun x => first == 0xFFFFFFFF || decide (first ≤ x.seq.toNat)).take n

/-- LOG_READ's answer: entries as reply data, the first sequence (the next one where there is no entry), the count, and LOST. -/
def logReply (via : Carrier) (pkt : Packet) (l : List AuditEntry) (next lost : Nat) (s : State) : State :=
  let first := match l.head? with
    | some x => x.seq.toNat
    | none => next
  answerWithData via pkt stOk (leBytes 4 first ++ [byteOf l.length, 0, 0, 0] ++ leBytes 4 lost)
    (l.flatMap AuditEntry.bytes) s

/-- The entry that begins a forwarded batch after entries were lost; it is not held (R454, log 31). -/
def Svc.lostEntry (v : Svc) : AuditEntry := mkAudit v.timeMs v.auditSeq { carrier := 2, kind := 8, detail := v.lostToReport.toNat }

/-- A forwarding LOG_READ marks the oldest unforwarded entries forwarded (R454). -/
def forwardLog (via : Carrier) (pkt : Packet) (n : Nat) (s : State) : State :=
  let v := s.ev9.svc
  let head := if v.lostToReport = 0 then [] else [v.lostEntry]
  let own := (v.audit.drop (v.audit.length - v.unforwarded)).take (n - head.length)
  let s := onEv9 (Ev9.onSvc fun v => { v with
    unforwarded := v.unforwarded - own.length
    auditSeq := if head.isEmpty then v.auditSeq else v.auditSeq + 1
    lostToReport := 0 }) s
  logReply via pkt (head ++ own) v.auditSeq.toNat v.lost.toNat s

/-- LOG_READ (R433, R446, R454, R464). -/
def execLogRead (via : Carrier) (pkt : Packet) (s : State) : Host.Outcome State Fault Refusal :=
  let n := pkt.byte 12
  servePacket via pkt
    { mine := pkt.op == 0xC0, allowed := via.isMgmt, used := via.dataBytes [(8, 6)],
      paramsOk := pkt.dataOk via && decide (1 ≤ n) && (via == .mgmt || decide (n ≤ 2))
        && (pkt.byte 13 == 0 || (pkt.byte 13 == 1 && via == .smb0)) }
    (fun s =>
      if pkt.byte 13 = 1 then forwardLog via pkt n s
      else if via.isNw8 then
        logReply via pkt (logFrom s.nw8.audit (pkt.field 8 4) n) s.nw8.auditSeq.toNat 0 s
      else logReply via pkt (logFrom s.ev9.svc.audit (pkt.field 8 4) n) s.ev9.svc.auditSeq.toNat s.ev9.svc.lost.toNat s) s

/-! ## DEBUG_UNLOCK (R446, R511) -/

/-- A set is opened to a session; one that is open stays open. -/
def openSet (i : SessionId) (n : Nat) (s : State) : State :=
  let up (u : BitVec 2) : BitVec 2 := if u.toNat < n then BitVec.ofNat 2 n else u
  match i with
  | .pf => onDbg (fun d => { d with unlockPf := up d.unlockPf }) s
  | .smb0 => onDbg (fun d => { d with unlockSmb := up d.unlockSmb }) s
  | .nwHost => onNw8 (fun w => { w with unlockHost := up w.unlockHost }) s
  | .nwRack => onNw8 (fun w => { w with unlockRack := up w.unlockRack }) s

/-- DEBUG_UNLOCK (R446, R511): the full set needs the maker. -/
def execDebugUnlock (via : Carrier) (pkt : Packet) (s : State) : Host.Outcome State Fault Refusal :=
  servePacket via pkt
    { mine := pkt.op == 0xC8, allowed := via.isMgmt, used := [(8, 1)], paramsOk := pkt.byte 8 == 1 || pkt.byte 8 == 2,
      role := if pkt.byte 8 == 2 then .maker else .installer }
    (fun s => answer via pkt stOk [] (openSet (Carrier.sid via) (pkt.byte 8) s)) s

/-! ## FW_UPDATE (R444, R446) -/

/-- The firmware image being received on a chip. -/
def State.upload (s : State) : Chip → FwUpload
  | .ev9 => s.ev9.svc.fw
  | .nw8 => s.nw8.fw

/-- The upload changed by `f`. -/
def onUpload (c : Chip) (f : FwUpload → FwUpload) (s : State) : State :=
  match c with
  | .ev9 => onEv9 (Ev9.onSvc fun v => { v with fw := f v.fw }) s
  | .nw8 => onNw8 (fun w => { w with fw := f w.fw }) s

/-- The longest image of a chip: 32 MiB or 512 KiB. -/
def fwLimit : Chip → Nat
  | .ev9 => 0x2000000
  | .nw8 => 0x80000

/-- What every phase of FW_UPDATE demands. -/
def fwRule (via : Carrier) (pkt : Packet) (mine : Bool) (used : List (Nat × Nat)) (ok : Bool) : PacketRule :=
  { mine := pkt.op == 0xE0 && mine, allowed := via.isMgmt, used := used, paramsOk := ok, role := .installer }

/-- FW_UPDATE_BEGIN (R446); a phase above 4 is BAD_PARAM. -/
def execFwUpdateBegin (via : Carrier) (pkt : Packet) (s : State) : Host.Outcome State Fault Refusal :=
  servePacket via pkt (fwRule via pkt (pkt.byte 8 == 0 || decide (4 < pkt.byte 8)) [(8, 1), (12, 4)] (pkt.byte 8 == 0))
    (fun s => answer via pkt stOk [] (onUpload via.chip (fun u =>
      { u with active := true, owner := Carrier.sid via, length := pkt.field 12 4, bytes := [] }) s)) s

/-- The 32 bytes of a part, those within the image's length. -/
def FwUpload.store (off : Nat) (l : List Byte) (u : FwUpload) : FwUpload :=
  { u with bytes := memWrites u.bytes off (l.take (u.length - off)) }

/-- FW_UPDATE_DATA (R444, R446): a part of an image that this session has not begun is discarded. -/
def execFwUpdateData (via : Carrier) (pkt : Packet) (s : State) : Host.Outcome State Fault Refusal :=
  servePacket via pkt (fwRule via pkt (pkt.byte 8 == 1) [(8, 1), (12, 4), (32, 32)] true)
    (fun s =>
      let u := s.upload via.chip
      answer via pkt stOk []
        (if u.active && u.owner == Carrier.sid via then onUpload via.chip (FwUpload.store (pkt.field 12 4) (slice pkt.bytes 32 32)) s
        else s)) s

/-- The checking and writing of an image begins; the upload's buffer is free again. -/
def FwUpload.commit (ok : Bool) (u : FwUpload) : FwUpload := { u with committing := true, commitOk := ok }

/-- A commit that completes later. -/
def deferCommit (via : Carrier) (pkt : Packet) (effect : State → State) (s : State) : State :=
  if (s.upload via.chip).committing then answer via pkt stPending [] s
  else if via.isNw8 then deferNw8 via pkt .fwCommit effect s
  else deferEv9 via pkt .fwCommit 0 [] effect s

/-- FW_UPDATE_COMMIT (R446). -/
def execFwUpdateCommit (via : Carrier) (pkt : Packet) (s : State) : Host.Outcome State Fault Refusal :=
  servePacket via pkt (fwRule via pkt (pkt.byte 8 == 2) [(8, 1)] true)
    (fun s =>
      let u := s.upload via.chip
      let mine := u.active && u.owner == Carrier.sid via
      deferCommit via pkt (onUpload via.chip fun u =>
        { u.commit (mine && decide (u.length ≤ fwLimit via.chip)) with active := u.active && !mine }) s) s

/-- FW_UPDATE_ABORT (R446). -/
def execFwUpdateAbort (via : Carrier) (pkt : Packet) (s : State) : Host.Outcome State Fault Refusal :=
  servePacket via pkt (fwRule via pkt (pkt.byte 8 == 3) [(8, 1)] true)
    (fun s => answer via pkt stOk [] (onUpload via.chip (dropUpload (Carrier.sid via)) s)) s

/-- FW_UPDATE_IMAGE (R446): the management ring only; the image is fetched from host memory. -/
def execFwUpdateImage (via : Carrier) (pkt : Packet) (s : State) : Host.Outcome State Fault Refusal :=
  servePacket via pkt (fwRule via pkt (pkt.byte 8 == 4) [(8, 1), (16, 12)] (via == .mgmt))
    (fun s =>
      let n := pkt.field 24 4
      deferCommit via pkt (fun s =>
        emit (.fetchImage 0 (BitVec.ofNat 64 (pkt.field 16 8)) n)
          (onUpload .ev9 (FwUpload.commit (decide (n ≤ fwLimit .ev9))) s)) s) s

/-- The NW8's commands that wait for a commit complete. -/
def finishNwCommit (status : Nat) (s : State) : State :=
  reviseNw8 (fun d => match d.work with
    | .fwCommit => .inr (status, [])
    | w => .inl w) s

/-- FW_UPDATE_COMPLETE (R446, R480): the image is written over the one that does not run, or was bad. The EV9 runs it after the next chip
reset, the NW8 restarts into it through kept mode. -/
def execFwUpdateComplete (chip : Chip) (verdict : FwVerdict) (s : State) : Host.Outcome State Fault Refusal :=
  let u := s.upload chip
  if !u.committing then stay s
  else
    let ok := u.commitOk && verdict.signature && verdict.versionOk
    let status := if ok then stOk else stBadParam
    let s := onUpload chip (fun u => { u with committing := false, commitOk := false }) s
    match chip with
    | .ev9 =>
      let s := finish (fun d => d.work == .fwCommit) (fun _ => status) (fun _ => []) s
      .next (if ok then emit (.flashWrite (1 - s.ev9.svc.image) verdict.major) s else s)
    | .nw8 =>
      let s := finishNwCommit status s
      .next (if ok then nwRestart 2 (onNw8 (fun w => { w with major := some verdict.major }) s) else s)

end Sys2Proof.Machine
end

