-- ==== Sys2Proof/Machine/NwOrders.lean ====
section
/-! DEFINITION. NwOrders.lean: the orders and caps that the NW8's upstream ports give (R420, R447–R452, R458–R460, R495, R501). -/

namespace Sys2Proof

open Sys2Proof.Machine

/-- The slots of a mask that `f` picks, as a mask. -/
def maskOf (f : Nat → Bool) : Nat := (List.range 8).foldl (fun m n => if f n then m + 2 ^ n else m) 0

/-- The slot mask of SLOT_POWER. -/
def Packet.slotMask (p : Packet) : List Nat := (List.range 8).filter fun n => (byteAt p.bytes 8).getLsbD n

/-- The slot mask of POWER_CAP_SET, scopes 0 and 3. -/
def Packet.capMask (p : Packet) : List Nat := (List.range 8).filter fun n => (byteAt p.bytes 11).getLsbD n

end Sys2Proof

namespace Sys2Proof.Machine

open Sys2Proof

/-! ## Orders (R447, R448, R458, R459) -/

/-- An upstream port sets its order of a channel to ON; a channel that waited for a new ON order has one (R403). -/
def TrayCh.orderOn (host : Bool) (x : TrayCh) : TrayCh :=
  if host then { x with hostOn := true, awaitOrder := false } else { x with rack := .on, awaitOrder := false }

/-- An upstream port sets its order of a channel to OFF; a resolved order that becomes OFF acts (R400, R403, R420, R447). -/
def TrayCh.orderedOff (host : Bool) (x : TrayCh) : TrayCh :=
  let y := if host then { x with hostOn := false, retryNext := 500 } else { x with rack := .off, retryNext := 500 }
  if x.resolved then y.orderOff else y

/-- A slot that stage 4 of a swap names is no longer safe to remove: the swap is cancelled (R501). -/
def cancelSwap (n : Nat) (s : State) : State :=
  if (s.nw8.chan n).swap = some 4 then endSwap n stWrongState 1 s else s

/-- An OFF order during a swap: stages 1–3 go on with the channel off; after insertion the swap ends unpowered (R495, R501). -/
def swapAtOff (n : Nat) (s : State) : State :=
  let x := s.nw8.chan n
  match x.swap with
  | some k =>
    if k ≤ 3 then onChan n (fun x => { x with swap := some (if x.state = .off then 4 else 3) }) s
    else if k = 6 then endSwap n stOk 3 s
    else s
  | none => s

/-- The pending ONs of slot n when an OFF order stops it: a host ON that the rack overrides goes on without the slot (R459), any other
ends WRONG_STATE (R420). -/
def stopPendingOn (via : Carrier) (n : Nat) (s : State) : State :=
  reviseNw8 (fun d => match d.work with
    | .slotOn waits overridden src =>
      if !maskBit waits n then .inl d.work
      else if via = .nwRack ∧ d.via = .nwHost then settleOn (clrBit waits n) (setBit overridden n) 0
      else .inr (stWrongState, [overridden, src])
    | w => .inl w) s

/-- A SLOT_POWER ON waits for slot n. -/
def Nw8.onPending (w : Nw8) (n : Nat) : Bool :=
  w.deferred.any fun d => match d.work with
    | .slotOn waits _ _ => maskBit waits n
    | _ => false

/-- The slots among `l` whose ON the budget holds (R450). -/
def Nw8.heldOn (w : Nw8) (l : List Nat) : Nat :=
  let k := ((List.range 8).filter fun n => (w.chan n).live).length
  if w.shareWith (k + 1) < 300 then maskOf fun n => l.contains n && (w.chan n).resolved && !(w.chan n).live else 0

/-- A conflict is recorded if it concerns any slot. -/
def conflictOf (via : Carrier) (op mask : Nat) (s : State) : State := if mask = 0 then s else noteConflict via op mask s

/-- Some named slot is unpopulated. -/
def Nw8.unpopulated (w : Nw8) (l : List Nat) : Bool := l.any fun n => !(w.chan n).populated

/-- The overriding source of a slot that the port's ON does not turn on: 0 rack for the host's order, 1 host for the rack's. -/
def overSource (via : Carrier) (overridden : Nat) : Nat := if overridden = 0 then 0 else if via = .nwRack then 1 else 0

/-- The effect of an ON order and its reply (R448, R450, R452). The host's order waits for every slot that it turns on and that is not ON
yet, the rack's for those whose resolved order it changes. -/
def slotPowerOn (via : Carrier) (pkt : Packet) (s : State) : State :=
  let l := pkt.slotMask
  let host := via = .nwHost
  let w := s.nw8
  if w.unpopulated l then answer via pkt stWrongState [] s
  else if host && l.any w.onPending then answer via pkt stPending [] s
  else
    let s := l.foldl (fun s n => onChan n (TrayCh.orderOn host) (cancelSwap n s)) s
    let v := s.nw8
    let overridden := maskOf fun n => l.contains n && !(v.chan n).resolved
    let waits := maskOf fun n => l.contains n && (v.chan n).resolved && (v.chan n).state != .on && (host || !(w.chan n).resolved)
    let s := conflictOf via 0xD0 (v.heldOn l) (conflictOf via 0xD0 overridden s)
    let src := overSource via overridden
    if waits = 0 then settleTray (answer via pkt stOk [byteOf overridden, byteOf src] s)
    else deferNw8 via pkt (.slotOn (BitVec.ofNat 8 waits) (BitVec.ofNat 8 overridden) (BitVec.ofNat 8 src)) settleTray s

/-- SLOT_POWER_ON (R417, R420, R447, R448, R450, R452, R501). -/
def execSlotPowerOn (via : Carrier) (pkt : Packet) (s : State) : Host.Outcome State Fault Refusal :=
  servePacket via pkt { mine := pkt.op == 0xD0 && pkt.byte 9 == 1, allowed := via.isNw8, used := [(8, 2)], paramsOk := true }
    (slotPowerOn via pkt) s

/-- Slot n after an OFF order. -/
def slotOff (via : Carrier) (n : Nat) (s : State) : State :=
  let was := (s.nw8.chan n).resolved
  let s := onChan n (TrayCh.orderedOff (via = .nwHost)) (cancelSwap n s)
  if was then stopPendingOn via n (clearPort n (swapAtOff n s)) else s

/-- The effect of an OFF order and its reply (R448, R452, R459). -/
def slotPowerOff (via : Carrier) (pkt : Packet) (s : State) : State :=
  let l := pkt.slotMask
  let host := via = .nwHost
  let w := s.nw8
  if w.unpopulated l then answer via pkt stWrongState [] s
  else
    let s := l.foldl (fun s n => slotOff via n s) s
    let beats := maskOf fun n =>
      l.contains n && (w.chan n).resolved && (if host then (w.chan n).rack == .on else (w.chan n).hostOn)
    let waits := maskOf fun n => l.contains n && (s.nw8.chan n).state == .discharging && (host || (w.chan n).resolved)
    let s := conflictOf via 0xD0 beats s
    if waits = 0 then settleTray (answer via pkt stOk [0, 0] s)
    else deferNw8 via pkt (.slotOff (BitVec.ofNat 8 waits) 0 0) settleTray s

/-- SLOT_POWER_OFF (R420, R447, R448, R452, R458, R459, R501); a byte 9 above 2 is a reserved value. -/
def execSlotPowerOff (via : Carrier) (pkt : Packet) (s : State) : Host.Outcome State Fault Refusal :=
  servePacket via pkt
    { mine := pkt.op == 0xD0 && pkt.byte 9 != 1 && pkt.byte 9 != 2, allowed := via.isNw8, used := [(8, 2)],
      paramsOk := pkt.byte 9 == 0 }
    (slotPowerOff via pkt) s

/-- The effect of a withdrawal (R447): the reply is OK at once. -/
def slotWithdraw (via : Carrier) (pkt : Packet) (s : State) : State :=
  let l := pkt.slotMask
  if s.nw8.unpopulated l then answer via pkt stWrongState [] s
  else
    let w := s.nw8
    let s := l.foldl (fun s n => onChan n (fun x => { x with rack := .none }) (cancelSwap n s)) s
    let turned := l.filter fun n => (s.nw8.chan n).resolved && !(w.chan n).resolved
    settleTray (answer via pkt stOk [0, 0] (conflictOf via 0xD0 (s.nw8.heldOn turned) s))

/-- SLOT_POWER_WITHDRAW (R446, R447): the RACK port only; on the HOST port byte 9 = 2 is a reserved value (log 35). -/
def execSlotPowerWithdraw (via : Carrier) (pkt : Packet) (s : State) : Host.Outcome State Fault Refusal :=
  servePacket via pkt
    { mine := pkt.op == 0xD0 && pkt.byte 9 == 2, allowed := via.isNw8, used := [(8, 2)], paramsOk := via == .nwRack }
    (slotWithdraw via pkt) s

/-! ## Swaps (R435, R495, R501) -/

/-- The stage in which a swap begins: stages 1–3 are skipped for an OFF or LATCHED channel; a DISCHARGING one has only stage 3 to end
(log 35). -/
def TrayCh.swapStart (x : TrayCh) : Nat :=
  match x.state with
  | .off | .latched => 4
  | .discharging => 3
  | _ => 1

/-- SLOT_SWAP (R435, R495, R501). -/
def execSlotSwap (via : Carrier) (pkt : Packet) (s : State) : Host.Outcome State Fault Refusal :=
  servePacket via pkt { mine := pkt.op == 0xD1, allowed := via.isNw8, used := [(8, 1)], paramsOk := pkt.byte 8 < 8 }
    (fun s =>
      let n := pkt.byte 8
      if (s.nw8.chan n).swap.isSome then answer via pkt stPending [] s
      else deferNw8 via pkt (.swap (Fin.ofNat 8 n)) (onChan n fun x => { x with swap := some x.swapStart, swapSecs := 0 }) s) s

/-! ## Caps (R449–R452, R460) -/

/-- The reply of a POWER_CAP_SET that has set `value` for the slots `l`: the slots whose effective cap it is not, the source of the lowest
of them, and the rack share. -/
def capReply (via : Carrier) (pkt : Packet) (value : Nat) (l : List Nat) (s : State) : State :=
  let w := s.nw8
  let out := l.filter fun n => (w.chan n).effective.toNat != value
  let src := match out.head? with
    | some n => (w.chan n).source.toNat
    | none => 0
  answer via pkt (if out.isEmpty then stOk else stCapConstrained)
    ([byteOf (maskOf out.contains), byteOf src] ++ leBytes 2 w.share) s

/-- The conflicts that a new cap from source `mine` meets or makes among the slots `l` (R452). -/
def capConflicts (via : Carrier) (mine value : Nat) (l : List Nat) (before : Nw8) (s : State) : State :=
  let w := s.nw8
  let lost := maskOf fun n => l.contains n && (w.chan n).source.toNat != mine && (w.chan n).effective.toNat != value
  let won := maskOf fun n => l.contains n && (before.chan n).source.toNat != mine && (w.chan n).source.toNat == mine
    && (w.chan n).effective != (before.chan n).effective
  conflictOf via 0xA0 won (conflictOf via 0xA0 lost s)

/-- A cap takes its place, with the conflicts, writes and brakes that follow, and the reply. -/
def setCap (via : Carrier) (pkt : Packet) (mine value : Nat) (l : List Nat) (f : State → State) (s : State) : State :=
  let before := s.nw8
  capReply via pkt value l (capConflicts via mine value l before (settleTray (f s)))

/-- POWER_CAP_SET_HOST_CAP (R446, R449, R452): scope 0, HOST port only. Scopes above 3 are reserved values. -/
def execPowerCapSetHostCap (via : Carrier) (pkt : Packet) (s : State) : Host.Outcome State Fault Refusal :=
  servePacket via pkt
    { mine := pkt.op == 0xA0 && via.isNw8 && (pkt.byte 10 == 0 || pkt.byte 10 > 3), allowed := true, used := [(8, 4)],
      paramsOk := pkt.byte 10 == 0 }
    (fun s =>
      let v := clampCap (pkt.field 8 2)
      let l := pkt.capMask
      if via ≠ .nwHost then answer via pkt stNotPermitted [] s
      else setCap via pkt 1 v l (fun s => l.foldl (fun s n => onChan n (fun x => { x with hostCap := BitVec.ofNat 10 v }) s) s) s) s

/-- The live slots. -/
def Nw8.liveSlots (w : Nw8) : List Nat := (List.range 8).filter fun n => (w.chan n).live

/-- The tray budget of the rack (R449). -/
def setBudget (v : Nat) (s : State) : State := onNw8 (fun w => { w with budget := BitVec.ofNat 14 v, budgetReceived := true }) s

/-- POWER_CAP_SET_BUDGET (R449, R450): scope 1, RACK port only. -/
def execPowerCapSetBudget (via : Carrier) (pkt : Packet) (s : State) : Host.Outcome State Fault Refusal :=
  servePacket via pkt
    { mine := pkt.op == 0xA0 && via.isNw8 && pkt.byte 10 == 1, allowed := true, used := [(8, 3)],
      paramsOk := pkt.field 8 2 ≤ 12000 }
    (fun s =>
      if via ≠ .nwRack then answer via pkt stNotPermitted [] s
      else setCap via pkt 0 (pkt.field 8 2) s.nw8.liveSlots (setBudget (pkt.field 8 2)) s) s

/-- BRAKE_N of a SHED on every live slot whose effective cap falls (R451, R460). -/
def shed (v : Nat) (s : State) : State :=
  let before := s.nw8
  let s := onNw8 Nw8.withCaps (setBudget v s)
  before.liveSlots.foldl (fun s n =>
    if (s.nw8.chan n).effective.toNat < (before.chan n).effective.toNat then onChan n (fun x => { x with shedBrake := true }) s
    else s) s

/-- POWER_CAP_SET_SHED (R449, R451, R460, R461): scope 2, RACK port only. -/
def execPowerCapSetShed (via : Carrier) (pkt : Packet) (s : State) : Host.Outcome State Fault Refusal :=
  servePacket via pkt
    { mine := pkt.op == 0xA0 && via.isNw8 && pkt.byte 10 == 2, allowed := true, used := [(8, 3)],
      paramsOk := pkt.field 8 2 ≤ 12000 }
    (fun s =>
      if via ≠ .nwRack then answer via pkt stNotPermitted [] s
      else setCap via pkt 0 (pkt.field 8 2) s.nw8.liveSlots (shed (pkt.field 8 2)) s) s

/-- POWER_CAP_SET_CEILING (R445, R449): scope 3, installer on either port. -/
def execPowerCapSetCeiling (via : Carrier) (pkt : Packet) (s : State) : Host.Outcome State Fault Refusal :=
  servePacket via pkt
    { mine := pkt.op == 0xA0 && via.isNw8 && pkt.byte 10 == 3, allowed := true, used := [(8, 4)], paramsOk := true,
      role := .installer }
    (fun s =>
      let v := clampCap (pkt.field 8 2)
      let l := pkt.capMask
      setCap via pkt 2 v l (fun s => l.foldl (fun s n => onChan n (fun x => { x with ceiling := BitVec.ofNat 10 v }) s) s) s) s

/-! ## SLOT_CTRL (R418) -/

/-- A write of SLOT_CTRL_n: the RWI fields need the installer's role, the isolation switch does not. -/
def writeSlotCtrl (path : RegPath) (n : Nat) (v : Dword) (s : State) : State :=
  let s := privWrite path .installer (0x100 + 0x20 * n) v.toNat
    (onChan n fun x => { x with breaker := BitVec.ofNat 5 (field v 4 0), restoreOn := v.getLsbD 8 }) s
  onChan n (fun x => { x with isolate := v.getLsbD 12 }) s

/-- SLOT_ISOLATE_WRITE (R418). -/
def execSlotIsolateWrite (path : RegPath) (n : TraySlot) (value : Word) (s : State) : Host.Outcome State Fault Refusal :=
  pathWrite path path.isNw8 (writeSlotCtrl path n (value.setWidth 64)) s

end Sys2Proof.Machine
end

