-- ==== Sys2Proof/Machine/NwSlots.lean ====
section
/-! DEFINITION. NwSlots.lean: the slot channels of the NW8 (R396–R405, R419–R422, R425, R484, R495), and the hold domain's restarts
(R414–R417). -/

namespace Sys2Proof.Machine

open Sys2Proof

/-! ## Power-up, restarts, autonomous mode (R414–R417, R447, R520) -/

/-- What a channel keeps through a VAUX power-up: the host order in FRAM, and restore_on, which R417 reads after one (log 35). -/
def TrayCh.poweredUp (x : TrayCh) : TrayCh := { hostOn := x.hostOn, restoreOn := x.restoreOn }

/-- VAUX_POWER_UP (R414, R447, R455, R520): the hold domain is cleared and the straps are sampled; FRAM keeps orders, logs and
key. -/
def execVauxPowerUp (addr : BitVec 2) (vsel : BitVec 10) (s : State) : Host.Outcome State Fault Refusal :=
  .next (onNw8 (fun w =>
    { chans := (List.range 8).foldl (fun t n => tput {} t n (w.chan n).poweredUp) []
      audit := w.audit
      auditSeq := w.auditSeq
      wraps := w.wraps
      logPos := w.logPos
      installerKey := w.installerKey
      major := w.major
      factoryLow := w.factoryLow
      tap := w.tap
      addr := addr
      host := { vsel := vsel.getLsbD 0 }
      rackPort := { vsel := vsel.getLsbD 1 }
      down := (List.range 8).foldl (fun t n =>
        tput TwoWire.downstream t n { TwoWire.downstream with vsel := vsel.getLsbD (2 + n) }) [] }) s)

/-- NW8_FIRMWARE_RUNNING (R417): after a VAUX power-up the firmware runs, autonomous at once. -/
def execNw8FirmwareRunning (s : State) : Host.Outcome State Fault Refusal :=
  if s.nw8.running || s.nw8.hold.kept then stay s
  else .next (settleTray (onNw8 (fun w => { w with running := true, hold := { w.hold with autonomous := w.hold.lastCmd.isNone, lastKick := w.hold.timeMs } }) s))

/-- WATCHDOG_KICK (R415, R418): HOLD_WDT.kick is written. -/
def execWatchdogKick (path : RegPath) (s : State) : Host.Outcome State Fault Refusal :=
  pathWrite path path.isNw8 (fun s => pulse (4096 + 4) (onHold (fun h => { h with lastKick := h.timeMs }) s)) s

/-- HOLD_WDT.timeout in ms: values outside 5–80 act as 20 (R415, R418). -/
def Hold.wdtMs (h : Hold) : Nat := 100 * if h.wdt.toNat < 5 ∨ 80 < h.wdt.toNat then 20 else h.wdt.toNat

/-- HOLD_AUTO.timeout in ms: values outside 5–3,600 act as 30 (R417, R418). -/
def Hold.autoMs (h : Hold) : Nat := 1000 * if h.auto.toNat < 5 ∨ 3600 < h.auto.toNat then 30 else h.auto.toNat

/-- WATCHDOG_EXPIRY (R415): the firmware has not kicked for the timeout. -/
def execWatchdogExpiry (s : State) : Host.Outcome State Fault Refusal :=
  if s.nw8.acts && s.since .nw8 s.nw8.hold.lastKick s.nw8.hold.wdtMs then .next (nwRestart 1 s) else stay s

/-- Kept mode ends: one audit entry for the restart and one for each recorded event (R415, R421); the paused
checks start from fresh samples (R416). -/
def adopt (s : State) : State :=
  let h := s.nw8.hold
  let s := onNw8 (fun w => { w with
    running := true
    hold := { w.hold with kept := false, restarts := satAdd w.hold.restarts 1, events := [], lastKick := w.hold.timeMs }
    cool := { w.cool with lowSeconds := 0, reverseSeconds := 0, clearSeconds := 0 }
    fans := (List.range 4).foldl (fun t f => tmod {} t f fun x => { x with slowSeconds := 0 }) w.fans }) s
  let s := auditNw8 { carrier := 2, kind := 7, detail := h.cause.toNat } s
  let s := h.events.foldl (fun s e => auditNw8 { carrier := 2, kind := 7, what := 0x100 + e.2, detail := e.1 } s) s
  settleTray (if h.events.isEmpty then s else nwNews s)

/-- ADOPT (R415): HOLD_STATUS.adopt is written; the firmware itself does so in kept mode, when no port answers. -/
def execAdopt (path : RegPath) (s : State) : Host.Outcome State Fault Refusal :=
  if path.isNw8 && s.nw8.hold.kept then .next (adopt s) else stay s

/-- AUTONOMOUS_ENTRY (R416, R417): no command has come for the timeout. -/
def execAutonomousEntry (s : State) : Host.Outcome State Fault Refusal :=
  if s.nw8.acts && !s.nw8.hold.autonomous && s.since .nw8 (s.nw8.hold.lastCmd.getD 0) s.nw8.hold.autoMs then .next (onHold (fun h => { h with autonomous := true }) s) else stay s

/-! ## Inrush (R398–R400, R417, R450) -/

/-- A channel may leave OFF (R398, R404, R409, R417, R450, R495); one that rung 4 of the ladder has turned off does so 1 s later
(R436). -/
def Nw8.mayStart (w : Nw8) (n : Nat) : Bool :=
  let x := w.chan n
  x.state == .off && x.resolved && !x.awaitOrder && x.populated && !w.cool.emergency && !w.feedReversed && w.acts
    && (!w.hold.autonomous || x.restoreOn)
    && (match x.swap with | none => true | some k => k == 6)
    && (!((w.downPort n).stuck && (w.downPort n).ladder == 4) || secondsPassed 1000 x.offSecs)
    && decide (300 ≤ w.shareWith (((List.range 8).filter fun k => (w.chan k).live).length + 1))

/-- The ramp starts with the bus voltage sampled (R399, R400). -/
def TrayCh.ramp (mv : Nat) (x : TrayCh) : TrayCh :=
  { x with state := .inrush, present := true, fault := .none, resetLow := true, vs := mv, hold := false }

/-- The bus voltage is read, in 10 mV units (R418). -/
def setBus (mv : Nat) (s : State) : State := onNw8 (fun w => { w with busMv := mv }) s

/-- INRUSH_START (R398–R400, R450): the module has been present for 100 ms; the shares of the live slots fall with the new count. -/
def execInrushStart (n : TraySlot) (busMv : Nat) (s : State) : Host.Outcome State Fault Refusal :=
  if s.nw8.mayStart n then .next (settleTray (onChan n (TrayCh.ramp busMv) (setBus busMv s))) else stay s

/-- POWER_GOOD (R399, R400, R448, R495). -/
def execPowerGood (n : TraySlot) (s : State) : Host.Outcome State Fault Refusal :=
  let x := s.nw8.chan n
  if x.state != .inrush || x.hold then stay s
  else
    let s := onChan n (fun x => { x with
      state := .on, aborts := 0, retryNext := 500, identified := false, checked := false,
      swap := if x.swap = some 6 then some 7 else x.swap }) s
    .next (settleTray (slotIsOn n s))

/-- INRUSH_TIMEOUT (R399). -/
def execInrushTimeout (n : TraySlot) (s : State) : Host.Outcome State Fault Refusal :=
  if (s.nw8.chan n).state == .inrush && !(s.nw8.chan n).hold then
    .next (settleTray (tellNews (noteEvent n (onChan n (TrayCh.latch .inrushTimeout) s))))
  else stay s

/-- SLOT_RESET_RELEASE (R399): RESET_N is released 50 ms after power good. -/
def execSlotResetRelease (n : TraySlot) (s : State) : Host.Outcome State Fault Refusal :=
  let x := s.nw8.chan n
  if x.state == .on && x.resetLow then .next (onChan n (fun x => { x with resetLow := false, upSecs := 0 }) s) else stay s

/-- DISCHARGE_COMPLETE (R398, R400, R420, R450, R495): the output is below 2 V; in WAIT_RETRY the interval begins. -/
def execDischargeComplete (n : TraySlot) (s : State) : Host.Outcome State Fault Refusal :=
  let st := (s.nw8.chan n).state
  if st == .waitRetry then .next (onChan n (fun x => { x with lowSecs := x.lowSecs.or (some 0) }) s)
  else if st != .discharging then stay s
  else
    let s := onChan n (fun x => { x with state := .off, offSecs := 0, swap := if x.swap = some 3 then some 4 else x.swap }) s
    .next (settleTray (slotIsOff n s))

/-- DISCHARGE_FAIL (R398): above 2 V five seconds after it turned off. -/
def execDischargeFail (n : TraySlot) (s : State) : Host.Outcome State Fault Refusal :=
  let x := s.nw8.chan n
  if (x.state == .discharging || (x.state == .waitRetry && x.lowSecs.isNone)) && secondsPassed 5000 x.offSecs then
    .next (settleTray (tellNews (noteEvent n (onChan n (TrayCh.latch .dischargeFail) s))))
  else stay s

/-- The undervoltage threshold, falling, in mV (R400). -/
def undervoltage : Nat := 36000

/-- BUS_SAG (R400): ramps hold below 0.92 × Vs. -/
def execBusSag (busMv : Nat) (s : State) : Host.Outcome State Fault Refusal :=
  let holds (x : TrayCh) : TrayCh :=
    if x.state = .inrush ∧ 100 * busMv < 92 * x.vs ∧ undervoltage ≤ busMv then { x with hold := true } else x
  .next ((List.range 8).foldl (fun s n => onChan n holds s) (setBus busMv s))

/-- BUS_RECOVER (R400): held ramps resume above 0.92 × Vs. -/
def execBusRecover (busMv : Nat) (s : State) : Host.Outcome State Fault Refusal :=
  let resumes (x : TrayCh) : TrayCh := if 92 * x.vs < 100 * busMv then { x with hold := false } else x
  .next ((List.range 8).foldl (fun s n => onChan n resumes s) (setBus busMv s))

/-- An inrushing channel aborts: the retry interval doubles on each later abort, up to 8 s (R400). -/
def TrayCh.abort (x : TrayCh) : TrayCh :=
  { x.gateOff with state := .waitRetry, aborts := satAdd x.aborts 1, retryMs := x.retryNext, retryNext := min 8000 (2 * x.retryNext) }

/-- BUS_UNDERVOLTAGE (R400, R422): every channel in INRUSH aborts; channels in ON stay on. -/
def execBusUndervoltage (busMv : Nat) (s : State) : Host.Outcome State Fault Refusal :=
  if undervoltage ≤ busMv then stay s
  else
    let s := setBus busMv s
    .next (settleTray ((List.range 8).foldl (fun s n =>
      if (s.nw8.chan n).state == .inrush then tellNews (noteEvent n (onChan n TrayCh.abort s)) else s) s))

/-- The interval of slot n, 50 ms × n longer than its base, may be over since the output fell below 2 V (R400). -/
def TrayCh.retryDue (n : Nat) (x : TrayCh) : Bool :=
  match x.lowSecs with
  | some k => secondsPassed (x.retryMs + 50 * n) k
  | none => false

/-- RETRY_TIMER_EXPIRY (R400): the channel retries, if R398 still allows it. -/
def execRetryTimerExpiry (n : TraySlot) (busMv : Nat) (s : State) : Host.Outcome State Fault Refusal :=
  let x := s.nw8.chan n
  if x.state == .waitRetry && x.retryDue n && x.resolved && !s.nw8.cool.emergency && !s.nw8.feedReversed && decide (undervoltage ≤ busMv) then
    .next (settleTray (onChan n (TrayCh.ramp busMv) (setBus busMv s)))
  else stay s

/-! ## Protection (R401–R405, R419) -/

/-- SHORT_TRIP (R401, R402, R419): the peak in 10 mA, the di/dt and the hold-domain time are recorded. -/
def execShortTrip (n : TraySlot) (peak : Nat) (didt : Nat) (s : State) : Host.Outcome State Fault Refusal :=
  if !(s.nw8.chan n).live then stay s
  else
    let now := s.nw8.hold.timeMs
    let s := onChan n (fun x => { x.latch .short with
      tripPeak := BitVec.ofNat 16 (min peak 65535), tripDidt := BitVec.ofNat 12 (min didt 4095), tripTime := BitVec.ofNat 32 now }) s
    .next (settleTray (tellNews (noteEvent n (pulse (4096 + 16 + n.val) s))))

/-- BREAKER_TRIP (R401). -/
def execBreakerTrip (n : TraySlot) (s : State) : Host.Outcome State Fault Refusal :=
  if (s.nw8.chan n).live then .next (settleTray (tellNews (noteEvent n (onChan n (TrayCh.latch .breaker) s)))) else stay s

/-- REVERSED_OUTPUT (R401): the channel is BLOCKED; a LATCHED one keeps its latch (log 35). -/
def execReversedOutput (n : TraySlot) (s : State) : Host.Outcome State Fault Refusal :=
  let st := (s.nw8.chan n).state
  if st == .blocked || st == .latched then stay s
  else .next (settleTray (tellNews (noteEvent n (onChan n (fun x => { x.latch .reversed with state := .blocked }) s))))

/-- REVERSE_CLEARED (R401). -/
def execReverseCleared (n : TraySlot) (s : State) : Host.Outcome State Fault Refusal :=
  if (s.nw8.chan n).state == .blocked then
    .next (settleTray (slotIsOff n (onChan n (fun x =>
      { x with state := .off, fault := .none, swap := if x.swap = some 3 then some 4 else x.swap }) s)))
  else stay s

/-- SURPRISE_REMOVAL (R401, R425, R502): PRSNT_N high for 1 ms while INRUSH or ON. -/
def execSurpriseRemoval (n : TraySlot) (s : State) : Host.Outcome State Fault Refusal :=
  if !(s.nw8.chan n).live then stay s
  else
    let s := onChan n (fun x => { x.gateOff with present := false, retryNext := 500 }) s
    .next (settleTray (clearPort n (noteEvent n s)))

/-- REMOVAL_LATCH_CLEAR (R403): PRSNT_N high for 1 s; the channel discharges and waits for a new ON order. -/
def execRemovalLatchClear (n : TraySlot) (s : State) : Host.Outcome State Fault Refusal :=
  if (s.nw8.chan n).state == .latched then
    .next (settleTray (clearPort n (onChan n (fun x =>
      { x.gateOff with present := false, fault := .none, awaitOrder := true }) s)))
  else stay s

/-- OPEN_DETECT (R401, R416): a firmware check. -/
def execOpenDetect (n : TraySlot) (s : State) : Host.Outcome State Fault Refusal :=
  let x := s.nw8.chan n
  if s.nw8.acts && x.state == .on && x.present && !x.opened then .next (tellNews (onChan n (fun x => { x with opened := true }) s))
  else stay s

/-- OPEN_FLAG_CLEAR (R401, R416). -/
def execOpenFlagClear (n : TraySlot) (s : State) : Host.Outcome State Fault Refusal :=
  if s.nw8.acts && (s.nw8.chan n).opened then .next (onChan n (fun x => { x with opened := false }) s) else stay s

/-- FEED_REVERSED (R404): the condition is reported, and every channel is OFF while it lasts: it has no bus. -/
def execFeedReversed (s : State) : Host.Outcome State Fault Refusal :=
  if s.nw8.feedReversed then stay s
  else
    let off (x : TrayCh) : TrayCh := if x.live || x.state == .waitRetry then x.gateOff else x
    let s := (List.range 8).foldl (fun s n => onChan n off s) (onNw8 (fun w => { w with feedReversed := true }) s)
    .next (settleTray (tellNews s))

/-- FEED_REVERSED_CLEAR (R404). -/
def execFeedReversedClear (s : State) : Host.Outcome State Fault Refusal :=
  if s.nw8.feedReversed then .next (onNw8 (fun w => { w with feedReversed := false }) s) else stay s

/-- The slot's module has tripped on temperature (R405). -/
def slotTripped (n : Nat) (s : State) : State := settleTray (tellNews (onChan n (TrayCh.latch .thermtrip) s))

/-- SLOT_ALERT (R405, R416): ALERT_N goes low and the module is read. -/
def execSlotAlert (n : TraySlot) (report : AlertReport) (s : State) : Host.Outcome State Fault Refusal :=
  if !s.nw8.acts || !(s.nw8.chan n).live then stay s
  else match report with
    | .thermalTrip => .next (slotTripped n s)
    | .other => .next (onChan n (fun x => { x with alertLow := true }) s)

/-- ALERT_REPLY_TIMEOUT (R405, R416): no reply within 100 ms; below 2 A the channel latches. -/
def execAlertReplyTimeout (n : TraySlot) (milliamps : Nat) (s : State) : Host.Outcome State Fault Refusal :=
  if !s.nw8.acts || !(s.nw8.chan n).live then stay s
  else if milliamps < 2000 then .next (slotTripped n s)
  else .next (onChan n (fun x => { x with alertLow := true }) s)

/-! ## Caps in flight (R450, R451) -/

/-- CAP_REPLY_TIMEOUT (R450): the slot has not answered its cap; BRAKE_N is asserted until it does. -/
def execCapReplyTimeout (n : TraySlot) (s : State) : Host.Outcome State Fault Refusal :=
  let x := s.nw8.chan n
  if s.nw8.acts && x.live && (!x.capAnswered || x.effective != x.written) then .next (settleTray (onChan n (fun x => { x with capBrake := true }) s)) else stay s

/-- SHED_BRAKE_RELEASE (R451, R461): 50 ms after the slot has answered its cap, once its power is at or below it. -/
def execShedBrakeRelease (n : TraySlot) (watts : Nat) (s : State) : Host.Outcome State Fault Refusal :=
  let x := s.nw8.chan n
  if s.nw8.acts && x.shedBrake && x.capAnswered && x.effective == x.written && decide (watts ≤ x.effective.toNat) then
    .next (settleTray (onChan n (fun x => { x with shedBrake := false, capBrake := false }) s))
  else stay s

/-! ## Identification and swaps (R484, R495) -/

/-- SLOT_IDENTIFY_POLL (R450, R484, R495): the EV9's answer is followed by its first cap; a good one passes the self-check. -/
def execSlotIdentifyPoll (n : TraySlot) (reply : Option ModuleReply) (s : State) : Host.Outcome State Fault Refusal :=
  let x := s.nw8.chan n
  match reply with
  | none => stay s
  | some r =>
    if !s.nw8.acts || x.state != .on || x.resetLow || x.checked then stay s
    else
      let pass := r.major != 0 && r.powerOk
      let s := settleTray (onChan n (fun x => { x with identified := true, checked := pass }) s)
      .next (if pass && x.swap == some 7 then endSwap n stOk 0 s else s)

/-- SELF_CHECK_TIMEOUT (R484, R495): 30 s after RESET_N rose. A swap ends with code 2; the channel stays as it is. -/
def execSelfCheckTimeout (n : TraySlot) (s : State) : Host.Outcome State Fault Refusal :=
  let x := s.nw8.chan n
  if s.nw8.acts && !x.checked && x.swap == some 7 && !x.resetLow && secondsPassed 30000 x.upSecs then .next (endSwap n stWrongState 2 s) else stay s

/-- A swap in stage 1 turns the channel off once every partition reads OFF (stage 3). -/
def TrayCh.swapOff (x : TrayCh) : TrayCh :=
  match x.state with
  | .inrush | .on | .waitRetry => { x.gateOff with swap := some 3 }
  | .off => { x with swap := some 4 }
  | _ => { x with swap := some 3 }

/-- SWAP_POLL (R495): stage 1 ends when all eight partitions read OFF, stage 4 when the module is gone, stage 5 when one is there
again; a slot whose resolved order is OFF then ends the swap with code 3. -/
def execSwapPoll (n : TraySlot) (present : Bool) (states : List Nat) (s : State) : Host.Outcome State Fault Refusal :=
  let x := s.nw8.chan n
  if !s.nw8.acts then stay s
  else match x.swap with
    | some 1 =>
      if states.length = 8 ∧ states.all (· == 0) = true then .next (settleTray (onChan n TrayCh.swapOff s)) else stay s
    | some 4 =>
      if present then stay s
      else .next (settleTray (clearPort n (onChan n (fun x =>
        let y := if x.state = .latched then { x.gateOff with fault := .none, state := .off } else x
        { y with present := false, swap := some 5 }) s)))
    | some 5 =>
      if !present then stay s
      else if x.resolved then .next (onChan n (fun x => { x with present := true, swap := some 6, awaitOrder := false }) s)
      else .next (endSwap n stOk 3 (onChan n (fun x => { x with present := true }) s))
    | _ => stay s

/-- SWAP_STAGE1_TIMEOUT (R495): stage 1 is not complete within 600 s. -/
def execSwapStage1Timeout (n : TraySlot) (s : State) : Host.Outcome State Fault Refusal :=
  if s.nw8.acts && (s.nw8.chan n).swap == some 1 && secondsPassed 600000 (s.nw8.chan n).swapSecs then .next (endSwap n stWrongState 4 s) else stay s

end Sys2Proof.Machine
end

