-- ==== Sys2Proof/Machine/TwoWires.lean ====
section
/-! DEFINITION. TwoWires.lean: the two-wire ports (R426–R438, R454, R461, R465): reading replies, Host Notify, timeouts, arbitration and
the recovery ladder. -/

namespace Sys2Proof

/-- The session of a target port (R439). -/
def TwPort.session? : TwPort → Option SessionId
  | .smb0 => some .smb0
  | .nwHost => some .nwHost
  | .nwRack => some .nwRack
  | _ => none

end Sys2Proof

namespace Sys2Proof.Machine

open Sys2Proof

/-- A two-wire port. -/
def State.port2 (s : State) : TwPort → TwoWire
  | .smb0 => s.ev9.smb0
  | .smb1 => s.ev9.smb1
  | .nwHost => s.nw8.host
  | .nwRack => s.nw8.rackPort
  | .down n => s.nw8.downPort n

/-- A two-wire port changed by `f`; no call follows. -/
def onPort2 (p : TwPort) (f : TwoWire → TwoWire) (s : State) : State :=
  match p with
  | .smb0 => onEv9 (fun e => { e with smb0 := f e.smb0 }) s
  | .smb1 => onEv9 (fun e => { e with smb1 := f e.smb1 }) s
  | .nwHost => onNw8 (fun w => { w with host := f w.host }) s
  | .nwRack => onNw8 (fun w => { w with rackPort := f w.rackPort }) s
  | .down n => onNw8 (Nw8.onDown n f) s

/-- The port is out of reset: SMB_0 once the service island answers, SMB_1 with the firmware that drives it, the NW8's while its
firmware acts (R415, R479). -/
def State.port2Up (s : State) : TwPort → Bool
  | .smb0 => s.ev9.smbUp
  | .smb1 => s.ev9.svc.boot != .down && s.ev9.svc.boot != .rom
  | _ => s.nw8.acts

/-- The Host Notify word of a port (R434). -/
def State.word2 (s : State) : TwPort → Nat
  | .smb0 => smbWord s.ev9
  | .nwHost => nwWord s.nw8.host
  | .nwRack => nwWord s.nw8.rackPort
  | _ => 0

/-- ALERT_N of SMB_0, HOST_ALERT_N and RACK_ALERT_N are low while the word is not zero (R434). -/
def State.calls2 (s : State) (p : TwPort) : Bool := s.word2 p != 0

/-! ## Replies (R431–R434, R493) -/

/-- The block of a 0xE1 read: the oldest reply with its data, or nothing; the bus carries no phase bit. -/
def replyBlock : List Reply → List Byte
  | [] => []
  | x :: _ => x.bytes false ++ x.data

/-- The port after a 0xE1 read. -/
def TwoWire.fetched (p : TwoWire) : TwoWire :=
  { p with replies := p.replies.drop 1, lastBlock := replyBlock p.replies, news := false, retry := false }

/-- SMBUS_REPLY_FETCH (R431–R434, R465): a 0xE1 read. A notification that the read has pushed aside is sent again, unless the read has
emptied the queue. -/
def execSmbusReplyFetch (port : TwPort) (s : State) : Host.Outcome State Fault Refusal :=
  if port.session?.isNone || !s.port2Up port then stay s
  else
    let p := s.port2 port
    let s := emit (.smbBlock port (replyBlock p.replies)) (onPort2 port TwoWire.fetched s)
    .next (if p.retry && s.word2 port != 0 && p.notify then emit (.hostNotify port (BitVec.ofNat 16 (s.word2 port))) s else s)

/-- SMBUS_REPLY_REREAD (R431, R432): a 0xE4 read removes nothing. -/
def execSmbusReplyReread (port : TwPort) (s : State) : Host.Outcome State Fault Refusal :=
  if port.session?.isNone || !s.port2Up port then stay s
  else .next (emit (.smbBlock port (s.port2 port).lastBlock) s)

/-! ## Host Notify (R434, R454, R465) -/

/-- The entry of 32 bytes that slot n's EV9 forwards, with byte 12 as R453 has it for the NW8's log. -/
def forwardedEntry (n : Nat) (l : List Byte) : AuditEntry where
  time := BitVec.ofNat 64 (fieldAt l 0 8)
  seq := BitVec.ofNat 32 (fieldAt l 8 4)
  carrier := BitVec.ofNat 8 ((byteAt l 12).toNat % 16 + 16 * n + 128)
  kind := byteAt l 13
  role := byteAt l 14
  status := byteAt l 15
  what := BitVec.ofNat 32 (fieldAt l 16 4)
  detail := BitVec.ofNat 96 (fieldAt l 20 12)

/-- The slot's EV9 has answered the cap last written: a brake for want of the answer ends (R450). -/
def TrayCh.capReplied (x : TrayCh) : TrayCh :=
  if x.effective = x.written then { x with capAnswered := true, capBrake := false } else { x with capAnswered := true }

/-- HOST_NOTIFY_RECEIVE (R434, R450, R454): replies are fetched, and audit entries are read and stored, if bits 3:0 and 15 of the word say
that any wait. -/
def execHostNotifyReceive (n : TraySlot) (word : BitVec 16) (entries : List (List Byte)) (s : State) : Host.Outcome State Fault Refusal :=
  if !s.nw8.acts || (s.nw8.chan n).isolate then stay s
  else
    let s := onPort2 (.down n) (fun p => { p with retry := false }) s
    let s := if word.toNat % 16 = 0 then s else onChan n TrayCh.capReplied s
    let s := if word.getLsbD 15 then entries.foldl (fun s l => onNw8 (Nw8.addEntry (forwardedEntry n l)) s) s else s
    .next (settleTray s)

/-- HOST_NOTIFY_REPEAT (R434): 100 ms with a non-zero word and no read. -/
def execHostNotifyRepeat (port : TwPort) (s : State) : Host.Outcome State Fault Refusal :=
  if s.port2Up port && (s.port2 port).notify && s.word2 port != 0 then
    .next (emit (.hostNotify port (BitVec.ofNat 16 (s.word2 port))) (onPort2 port (fun p => { p with retry := false }) s))
  else stay s

/-! ## Timeouts and arbitration (R428–R430, R437) -/

/-- The offset of a port's SMB_STATUS (R456, R457). -/
def offSmbStatus : TwPort → Nat
  | .smb0 => 0x0201008
  | .smb1 => 0x0201018
  | .nwHost => offNw8 0x0404
  | .nwRack => offNw8 0x040C
  | .down n => offNw8 (0x0414 + 8 * n.val)

/-- The block of a target port resets its interface, which ends the session (R428, R443). -/
def resetInterface (port : TwPort) (s : State) : State :=
  match port.session? with
  | some i => endSession i .reset (emit (.smbReset port) s)
  | none => emit (.smbReset port) s

/-- A downstream bus is stuck: the ladder begins (R436). -/
def TwoWire.stick (p : TwoWire) : TwoWire := if p.usable then { p with stuck := true, ladder := 0 } else p

/-- A stuck bus: a target resets; a downstream port climbs its ladder; SMB_1 climbs rung 1 only (R436, R437). -/
def stuckBus (port : TwPort) (s : State) : State :=
  match port with
  | .down _ => onPort2 port TwoWire.stick s
  | .smb1 => emit (.rung .smb1 1) s
  | _ => resetInterface port s

/-- SCL_LOW_TIMEOUT (R428, R436, R437). -/
def execSclLowTimeout (port : TwPort) (s : State) : Host.Outcome State Fault Refusal :=
  if s.port2Up port then .next (stuckBus port (onPort2 port (fun p => { p with sclLow := true })
    (noteSet (offSmbStatus port) 0 (s.port2 port).sclLow s))) else stay s

/-- SDA_LOW_TIMEOUT (R428, R436, R437). -/
def execSdaLowTimeout (port : TwPort) (s : State) : Host.Outcome State Fault Refusal :=
  if s.port2Up port then .next (stuckBus port (onPort2 port (fun p => { p with sdaLow := true })
    (noteSet (offSmbStatus port) 1 (s.port2 port).sdaLow s))) else stay s

/-- STRETCH_TIMEOUT (R429, R436): the controller releases the bus, resets itself and sets its flag; the transaction has failed. -/
def execStretchTimeout (port : TwPort) (s : State) : Host.Outcome State Fault Refusal :=
  if !s.port2Up port then stay s
  else
    let s := onPort2 port (fun p => { p with stretch := true }) (noteSet (offSmbStatus port) 2 (s.port2 port).stretch s)
    .next (match port with
      | .down _ => onPort2 port TwoWire.stick (emit (.smbReset port) s)
      | _ => resetInterface port s)

/-- ARBITRATION_LOSS (R430, R456, R465): the EV9 counts it; the block retries its own transaction when the other one ends. Whether it was
addressed decides only what it does on the bus meanwhile. -/
def execArbitrationLoss (port : TwPort) (_addressed : Bool) (s : State) : Host.Outcome State Fault Refusal :=
  if !s.port2Up port then stay s
  else match port with
    | .smb0 => .next (onPort2 .smb0 (fun p => { p with arbLosses := satAdd p.arbLosses 1, retry := true }) s)
    | .smb1 => .next (onPort2 .smb1 (fun p => { p with arbLosses := satAdd p.arbLosses 1 }) s)
    | _ => .next (onPort2 port (fun p => { p with retry := true }) s)

/-! ## The recovery ladder (R436, R443, R461) -/

/-- A rung is written to the log and told to the host; rung 2 and above end the session of the EV9 in the slot (R443). -/
def noteRung (n k : Nat) (s : State) : State :=
  let s := onPort2 (.down (Fin.ofNat 8 n)) (fun p => { p with rung := BitVec.ofNat 3 k, ladder := k }) s
  let s := emit (.rung (.down (Fin.ofNat 8 n)) k) (auditNw8 { carrier := 2, kind := 10, what := 0x0414 + 8 * n, detail := k } s)
  let s := onHostPort (fun p => { p with news := true }) s
  if 2 ≤ k ∧ n = s.ev9.svc.slotId.toNat then endSession .smb0 .reset s else s

/-- The bus is free again: the switch is closed, the recovery is counted, and a cap that has not been answered is written again
(R461). -/
def busFreed (n : Nat) (s : State) : State :=
  let s := onPort2 (.down (Fin.ofNat 8 n)) (fun p => { p with stuck := false, ladder := 0, recoveries := satAdd p.recoveries 1 }) s
  settleTray (onChan n (fun x => { x with isolate := false, written := if x.capAnswered then x.written else 0 }) s)

/-- The module of slot n has been reset or power-cycled and must answer IDENTIFY again. -/
def TrayCh.restarted (x : TrayCh) : TrayCh := { x with identified := false, checked := false, written := 0, upSecs := 0 }

/-- The ladder ends with the switch open. -/
def ladderEnds (n : Nat) (f : TwoWire → TwoWire) (s : State) : State :=
  onChan n (fun x => { x with isolate := true }) (onPort2 (.down (Fin.ofNat 8 n)) (fun p => { f p with stuck := false }) s)

/-- RECOVERY_RUNG (R436): the next rung of a stuck downstream port and what it finds. Rung 4 is two steps: the power-cycle, and the finding
once the module has started (log 35). -/
def execRecoveryRung (n : TraySlot) (f : RungFinding) (s : State) : Host.Outcome State Fault Refusal :=
  let p := s.nw8.downPort n
  let x := s.nw8.chan n
  if !s.nw8.acts || !p.stuck then stay s
  else match p.ladder with
    | 0 =>
      let s := noteRung n 1 s
      .next (if f = .freed then busFreed n s else s)
    | 1 =>
      let s := noteRung n 2 s
      .next (match f with
        | .freed => busFreed n s
        | .lineLow => s
        | .nwLow => ladderEnds n (fun p => { p with isLocal := true }) s)
    | 2 =>
      if !x.resolved || x.swap.isSome then stay s
      else
        let s := onChan n TrayCh.restarted (noteRung n 3 s)
        .next (if f = .freed then busFreed n s else s)
    | 3 =>
      if !x.resolved || x.swap.isSome then stay s
      else
        let s := noteRung n 4 s
        .next (settleTray (if x.live then onChan n TrayCh.gateOff s else s))
    | _ =>
      if x.state != .on then stay s
      else if f = .freed then .next (busFreed n s)
      else .next (ladderEnds n (fun p => { p with failed := true }) s)

end Sys2Proof.Machine
end

