-- ==== Sys2Proof/Machine/Registers.lean ====
section
/-! DEFINITION. Registers.lean: register writes over the whole of BAR0, of a tenant's BAR0 and of the NW8 (R5–R8, R302–R305, R418). -/

namespace Sys2Proof.Machine

open Sys2Proof

/-- A writable register: the bits that a write may change or act on, their present value where a write of half of the register keeps the
other half, and the write of a whole value. -/
structure RegDesc where
  mask : Nat
  cur : Nat
  write : Dword → State → State

/-! ## Families of registers -/

/-- The index and the offset within its unit of an offset in a family of `count` units of `stride` bytes from `base`. -/
def unitAt (off base stride count : Nat) : Option (Nat × Nat) :=
  if base ≤ off ∧ off < base + stride * count then some ((off - base) / stride, (off - base) % stride) else none

/-- A register of W1C bits. -/
def w1cReg (mask : Nat) (f : Dword → State → State) : RegDesc := ⟨mask, 0, f⟩

/-- A register of RW bits. -/
def rwReg (mask cur : Nat) (f : Dword → State → State) : RegDesc := ⟨mask, cur, f⟩

/-- A register of RWI bits at an offset. -/
def rwiReg (path : RegPath) (off mask cur : Nat) (f : Dword → State → State) : RegDesc :=
  ⟨mask, cur, fun v s => privWrite path .installer off v.toNat (f v) s⟩

/-! ## CLK_, CURL_ (R73) -/

/-- The registers of chip, clocks and curls. -/
def clkReg (path : RegPath) (s : State) (off : Nat) : Option RegDesc :=
  if off = 0x1000 then
    some (w1cReg 2 fun v s => onEv9 (fun e => { e with chip := { e.chip with trLost := s.w1c offTrclk v 1 e.chip.trLost } }) s)
  else if off = 0x2000 then some ⟨0xFFFFFFFF, s.ev9.chip.curlLimit.toNat, writeCurlLimit path⟩
  else match unitAt off 0x2100 0x100 8 with
    | some (p, 0) =>
      some (w1cReg 0xC fun v s => onPart p (onCurl fun c => { c with
        breach := s.w1c (offCurlStatus p) v 2 c.breach, timeout := s.w1c (offCurlStatus p) v 3 c.timeout }) s)
    | some (p, 0x28) => some (w1cReg 1 (writeCurlClear p))
    | _ => none

/-! ## PWR_, THM_ (R387) -/

/-- The power and temperature registers. -/
def powerReg (path : RegPath) (s : State) (off : Nat) : Option RegDesc :=
  let x := s.ev9.power
  if off = 0x100000 then
    some (rwReg 0x3FF x.hostCap.toNat fun v => onPower fun x => { x with hostCap := BitVec.ofNat 10 (clampCap (field v 9 0)) })
  else if off = 0x100008 then
    some (rwiReg path off 0x3FF x.ceiling.toNat fun v => onPower fun x =>
      { x with ceiling := BitVec.ofNat 10 (clampCap (field v 9 0)) })
  else if off = 0x100010 then
    some (w1cReg 0x300 fun v s => onPower (fun x =>
      { x with brakeSeen := s.w1c offPwrStatus v 8 x.brakeSeen, staleSeen := s.w1c offPwrStatus v 9 x.staleSeen }) s)
  else if off = 0x100018 then
    some (rwiReg path off 7 x.brakePace.val fun v => onPower fun x => { x with brakePace := toPace (field v 2 0) })
  else if off = 0x180000 then
    some (w1cReg 0x20000 fun v s => onTherm (fun t => { t with onset := s.w1c offThmStatus v 17 t.onset }) s)
  else if off = 0x180008 then
    some (rwiReg path off 0xFF s.ev9.therm.throttle.toNat fun v => onTherm fun t =>
      { t with throttle := BitVec.ofNat 8 (field v 7 0) })
  else match unitAt off 0x100200 0x20 8 with
    | some (p, 0) =>
      some (rwiReg path off 0xFF (s.ev9.part p).share.toNat fun v => onPart p fun x =>
        { x with share := BitVec.ofNat 8 (field v 7 0) })
    | _ => none

/-! ## SVC_, SMB_ (R456, R496) -/

/-- The W1C bits of the SMB_STATUS at `off` after a write. -/
def TwoWire.w1c (s : State) (off : Nat) (v : Dword) (p : TwoWire) : TwoWire :=
  { p with sclLow := s.w1c off v 0 p.sclLow, sdaLow := s.w1c off v 1 p.sdaLow, stretch := s.w1c off v 2 p.stretch,
           pecError := s.w1c off v 3 p.pecError }

/-- The registers of the service island and of the two-wire ports. -/
def svcReg (path : RegPath) (s : State) (off : Nat) : Option RegDesc :=
  let e := s.ev9
  if off = 0x200010 then
    some (rwiReg path off (2 ^ 64 - 1) e.svc.retire.toNat fun v => onEv9 (Ev9.onSvc fun x => { x with retire := v }))
  else if off = 0x204008 then
    some (rwReg 0xFFFFFFFF e.svc.faultRead.toNat fun v => onEv9 (Ev9.onSvc fun x =>
      { x with faultRead := BitVec.ofNat 32 (field v 31 0) }))
  else if off = 0x201000 then
    some (rwiReg path off 0x13 (e.smb0.speed.toNat + 16 * bit e.smb0.notify) fun v => onEv9 fun e =>
      { e with smb0 := { e.smb0 with speed := BitVec.ofNat 2 (field v 1 0), notify := v.getLsbD 4 } })
  else if off = 0x201010 then
    some (rwiReg path off 3 e.smb1.speed.toNat fun v => onEv9 fun e =>
      { e with smb1 := { e.smb1 with speed := BitVec.ofNat 2 (field v 1 0) } })
  else if off = 0x201008 then some (w1cReg 0xF fun v s => onEv9 (fun e => { e with smb0 := e.smb0.w1c s (offSmbStatus .smb0) v }) s)
  else if off = 0x201018 then some (w1cReg 0xF fun v s => onEv9 (fun e => { e with smb1 := e.smb1.w1c s (offSmbStatus .smb1) v }) s)
  else none

/-! ## Rings and quotas (R306, R307, R333) -/

/-- A write of RING_SQ_TAIL that makes no new packet known: those that do are DOORBELL's. -/
def plainTail (r : Nat) (v : Dword) (s : State) : State :=
  let g := s.ev9.ring r
  let t := field v 14 0
  if g.enable && decide (t < ringSize g.sqOrder) && g.distance t != 0 then s else writeTail r t [] s

/-- RING_CFG as it stands. -/
def Ring.cfg (g : Ring) : Nat := bit g.enable + 16 * g.sqOrder.toNat + 256 * g.cqOrder.toNat

/-- The registers of ring r as its owner writes them; the bases only while it is disabled. -/
def ringReg (s : State) (r sub : Nat) : Option RegDesc :=
  let g := s.ev9.ring r
  match sub with
  | 0x00 => some (rwReg (2 ^ 64 - 4096) (4096 * g.sqBase.toNat) fun v => onEv9 (Ev9.onRing r fun g =>
      if g.enable then g else { g with sqBase := BitVec.ofNat 52 (field v 63 12) }))
  | 0x08 => some (rwReg (2 ^ 64 - 4096) (4096 * g.cqBase.toNat) fun v => onEv9 (Ev9.onRing r fun g =>
      if g.enable then g else { g with cqBase := BitVec.ofNat 52 (field v 63 12) }))
  | 0x10 => some (rwReg 0xFF1 g.cfg (writeRingCfg r))
  | 0x18 => some (rwReg 0x7FFF g.sqTail.toNat (plainTail r))
  | 0x28 => some (rwReg 0x7FFF g.cqHead.toNat (writeCqHead r))
  | 0x38 => some (w1cReg 3 fun v s => onEv9 (Ev9.onRing r fun g =>
      { g with badDoorbell := s.w1c (offRingStatus r) v 0 g.badDoorbell, dmaError := s.w1c (offRingStatus r) v 1 g.dmaError }) s)
  | _ => none

/-- The management ring, the quotas, and of a tenant ring the one write that is the physical function's (R305). -/
def hifReg (path : RegPath) (s : State) (off : Nat) : Option RegDesc :=
  match unitAt off 0x400100 0x40 1, unitAt off 0x480000 8 1024, unitAt off 0x800000 0x40 65536 with
  | some (_, sub), _, _ => ringReg s 65536 sub
  | _, some (t, _), _ =>
    some (rwiReg path off 0x1FFF (tget 0 s.ev9.hif.quotas t).toNat fun v => onEv9 (Ev9.onHif fun h =>
      { h with quotas := tput 0 h.quotas t (BitVec.ofNat 13 (field v 12 0)) }))
  | _, _, some (r, 0x10) =>
    some (rwReg 1 (bit (s.ev9.ring r).enable) fun v s => if v.getLsbD 0 then s else onEv9 (Ev9.onRing r Ring.stopped) s)
  | _, _, _ => none

/-! ## PART_ (R357) -/

/-- The ports that partitions other than p hold. -/
def Ev9.portsOfOthers (e : Ev9) (p : Nat) : BitVec 12 :=
  (List.range 8).foldl (fun m q => if q = p then m else m ||| (e.part q).ports) 0

/-- PART_PORTS_p takes a value while the partition is OFF; ports that another partition holds are left out. -/
def setPorts (p : Nat) (v : Dword) (s : State) : State :=
  onPart p (fun x => if x.state = .off then
    { x with ports := BitVec.ofNat 12 (field v 11 0) &&& ~~~ s.ev9.portsOfOthers p } else x) s

/-- The partition registers. -/
def partReg (path : RegPath) (s : State) (off : Nat) : Option RegDesc :=
  match unitAt off 0x1000000 0x40 8, unitAt off 0x1002000 8 1024 with
  | some (p, 0), _ => some (w1cReg 0x100 fun v s => onPart p (fun x => { x with drainTimeout := s.w1c (offPartStatus p) v 8 x.drainTimeout }) s)
  | some (p, 0x10), _ => some (rwiReg path off 0xFFF (s.ev9.part p).ports.toNat (setPorts p))
  | _, some (t, _) =>
    some (rwiReg path off 0xFF (tget 0 s.ev9.hif.binds t).toNat fun v => onEv9 (Ev9.onHif fun h =>
      { h with binds := tput 0 h.binds t (BitVec.ofNat 8 (field v 7 0)) }))
  | _, _ =>
    if off = 0x1001000 then
      some (rwiReg path off 0xFFFFFFFF s.ev9.chip.drainLimit.toNat fun v => onEv9 fun e =>
        { e with chip := { e.chip with drainLimit := BitVec.ofNat 32 (field v 31 0) } })
    else none

/-! ## SNL_ (R290) -/

/-- The RWI fields of SNL_CFG_s as they stand. -/
def Port.cfg (x : Port) : Nat :=
  bit x.enable + 2 * x.genMax.toNat + 8 * bit x.autoSleep + 16 * bit x.autoLs2 + 2 ^ 32 * x.idle.toNat

/-- The link registers. -/
def snlReg (path : RegPath) (s : State) (off : Nat) : Option RegDesc :=
  match unitAt off 0x1200000 0x10000 12 with
  | some (n, 0x00) => some ⟨0xFFFFFFFF0000003F, (s.ev9.port n).cfg, writeSnlCfg path n⟩
  | some (n, 0x08) => some (w1cReg 0x800 fun v s => onPort n (fun x => { x with hopOver := s.w1c (offSnlStatus n) v 11 x.hopOver }) s)
  | some (n, 0x28) => some (w1cReg 0x83 (writeSnlPm n))
  | _ => none

/-! ## CORE_, CORE_VEC_ (R150, R250) -/

/-- The vector registers of core c that host software writes, changed by `f`. -/
def onVecRegs (c : Nat) (f : Vec → Vec) (s : State) : State := onCore c (fun x => { x with vec := f x.vec }) s

/-- The W1C bits of CORE_STATUS_c after a write. -/
def Core.statusW1c (s : State) (c : Nat) (v : Dword) (x : Core) : Core :=
  let f := s.w1c (offCoreStatus c) v
  { x with waitlock := f 1 x.waitlock, waitstall := f 2 x.waitstall, bounds := f 3 x.bounds, acornOverflow := f 4 x.acornOverflow }

/-- The sticky flags of CORE_VEC_FLAGS_c after a write. -/
def flagsW1c (s : State) (c : Nat) (v : Dword) (f : BitVec 5) : BitVec 5 :=
  BitVec.ofNat 5 ((List.range 5).foldl (fun n i => n + 2 ^ i * bit (s.w1c (offCoreStatus c + 0x4008) v i (f.getLsbD i))) 0)

/-- The core registers. -/
def coreReg (path : RegPath) (s : State) (off : Nat) : Option RegDesc :=
  match unitAt off 0x2000000 0x10000 64 with
  | none => none
  | some (c, sub) =>
    let x := s.ev9.core c
    if sub = 0x0000 then some (w1cReg 0x1E fun v s => onCore c (Core.statusW1c s c v) s)
    else if sub = 0x0008 then
      some (rwiReg path off 0xFFFFFFFF x.waitLimit.toNat fun v => onCore c fun x =>
        { x with waitLimit := BitVec.ofNat 32 (field v 31 0) })
    else if sub = 0x4000 then
      some (rwReg 0xF x.vec.ctrl.toNat fun v => onVecRegs c fun y => { y with ctrl := BitVec.ofNat 4 (field v 3 0) })
    else if sub = 0x4008 then
      some (w1cReg 0x1F fun v s => onVecRegs c (fun y => { y with flags := flagsW1c s c v y.flags }) s)
    else if sub = 0x4010 then
      some (rwReg 0xFFFFFFFF x.vec.seed.toNat fun v => onVecRegs c fun y => { y with seed := BitVec.ofNat 32 (field v 31 0) })
    else match unitAt sub 0x100 8 32 with
      | some (i, _) =>
        some (w1cReg 0x20000 fun v s => onCore c (fun x =>
          { x with acorns := tmod {} x.acorns i fun a => { a with overflow := s.w1c (offAcorn c i) v 17 a.overflow } }) s)
      | none => none

/-! ## TIER_, SCR_ (R111) -/

/-- The W1C bits of TIER_STATUS_p after a write. -/
def TierPart.w1c (s : State) (p : Nat) (v : Dword) (t : TierPart) : TierPart :=
  let f := s.w1c (offTierStatus p) v
  { t with ue := f 0 t.ue, ce := f 1 t.ce, sealViolation := f 2 t.sealViolation, intrusion := f 3 t.intrusion, overdue := f 4 t.overdue }

/-- The tier and scratch registers. -/
def tierReg (path : RegPath) (s : State) (off : Nat) : Option RegDesc :=
  if off = offTierBand then some ⟨0x300, 256 * s.ev9.therm.bandFloor.toNat, writeTierBand path⟩
  else match unitAt off 0x2800100 0x40 8, unitAt off 0x2840000 0x40 16 with
    | some (p, 0), _ => some (w1cReg 0x1F fun v s => onPart p (fun x => { x with tier := x.tier.w1c s p v }) s)
    | _, some (k, 0) =>
      some (w1cReg 3 fun v s => onEv9 (Ev9.onCluster k fun x =>
        { x with ue := s.w1c (offScrStatus k) v 0 x.ue, ce := s.w1c (offScrStatus k) v 1 x.ce }) s)
    | _, _ => none

/-! ## DBG_, ABFT_ (R180, R527) -/

/-- ABFT_INJECT_c takes a value. -/
def Abft.setInject (v : Dword) (a : Abft) : Abft :=
  { a with injArm := v.getLsbD 0, injRow := BitVec.ofNat 9 (field v 16 8), injColumn := BitVec.ofNat 9 (field v 25 17),
           injBit := BitVec.ofNat 5 (field v 30 26) }

/-- ABFT_INJECT_c as it stands. -/
def Abft.inject (a : Abft) : Nat :=
  bit a.injArm + 2 ^ 8 * a.injRow.toNat + 2 ^ 17 * a.injColumn.toNat + 2 ^ 26 * a.injBit.toNat

/-- The offset of ABFT_INJECT_c. -/
def offInject (c : Nat) : Nat := 0x3080040 + 0x100 * c

/-- A write of ABFT_INJECT_c. -/
def writeInject (path : RegPath) (c : Nat) (v : Dword) (s : State) : State :=
  privWrite path .installer (offInject c) v.toNat (onAbft c (Abft.setInject v)) s

/-- ABFT_INJECT_ARM (R180, R185): the next drain of the core inverts the named bit of the named cell. -/
def execAbftInjectArm (path : RegPath) (c : CoreId) (value : Dword) (s : State) : Host.Outcome State Fault Refusal :=
  pathWrite path path.isEv9 (writeInject path c value) s

/-- A peek selection as it stands. -/
def PeekSel.bits (x : PeekSel) : Nat := x.index.toNat + 2 ^ 15 * bit x.enable

/-- The debug and checksum registers. -/
def dbgReg (path : RegPath) (s : State) (off : Nat) : Option RegDesc :=
  if off = 0x3000048 then some (w1cReg 1 fun v s => onDbg (fun d => { d with jtagRefused := s.w1c offDbgStatus v 0 d.jtagRefused }) s)
  else match unitAt off 0x3000000 8 8, unitAt off 0x3088000 8 8, unitAt off 0x3080000 0x100 64 with
    | some (n, _), _, _ => some ⟨0x8FFF, (s.ev9.dbg.peek n).bits, writeObsSel path n⟩
    | _, some (p, _), _ =>
      some (rwReg 0xFFFF (s.ev9.part p).abftTol.toNat fun v => onPart p fun x => { x with abftTol := BitVec.ofNat 16 (field v 15 0) })
    | _, _, some (c, 0) =>
      some (w1cReg 7 fun v s => onAbft c (fun a => { a with
        mismatch := s.w1c (offAbft c) v 0 a.mismatch, retriedOk := s.w1c (offAbft c) v 1 a.retriedOk
        faulted := s.w1c (offAbft c) v 2 a.faulted }) s)
    | _, _, some (c, 0x40) => some ⟨0x7FFFFF01, (s.ev9.core c).abft.inject, writeInject path c⟩
    | _, _, _ => none

/-! ## Writes (R5, R6, R302) -/

/-- The register of the physical function's BAR0 at an 8-byte offset, if a write there can do anything. -/
def ev9Reg (path : RegPath) (s : State) (off : Nat) : Option RegDesc :=
  if off < 0x100000 then clkReg path s off
  else if off < 0x200000 then powerReg path s off
  else if off < 0x400000 then svcReg path s off
  else if off < 0x1000000 then hifReg path s off
  else if off < 0x1100000 then partReg path s off
  else if off < 0x2000000 then snlReg path s off
  else if off < 0x2800000 then coreReg path s off
  else if off < 0x3000000 then tierReg path s off
  else dbgReg path s off

/-- The register of a tenant's BAR0 (R303): its own rings. -/
def vfReg (t : Nat) (s : State) (off : Nat) : Option RegDesc :=
  match unitAt off 0 0x40 64 with
  | some (j, sub) => ringReg s (64 * t + j) sub
  | none => none

/-- The bytes that a write of 4 or 8 bytes reaches, as a mask of the register's bits. -/
def lanes (off : Nat) (wide : Bool) : Nat :=
  if wide then 2 ^ 64 - 1 else if off % 8 = 4 then 2 ^ 64 - 2 ^ 32 else 2 ^ 32 - 1

/-- The value moved to the bytes that the write reaches. -/
def laned (off : Nat) (wide : Bool) (v : Dword) : Nat :=
  if wide then v.toNat else (v.toNat % 2 ^ 32) * (if off % 8 = 4 then 2 ^ 32 else 1)

/-- An access of 4 or 8 bytes at a multiple of its size. -/
def alignedAccess (off : Nat) (wide : Bool) : Bool := off % (if wide then 8 else 4) == 0

/-- A write to a register: bits outside the write keep their value, and reserved and read-only bits are ignored (R5, R6). -/
def writeReg (d : RegDesc) (off : Nat) (wide : Bool) (v : Dword) (s : State) : State :=
  let l := lanes off wide
  if l &&& d.mask = 0 then s
  else d.write (BitVec.ofNat 64 ((d.cur &&& (2 ^ 64 - 1 - l)) ||| laned off wide v)) s

/-- A write of 4 or 8 bytes at an offset of BAR0. -/
def writeEv9 (reg : State → Nat → Option RegDesc) (off : Nat) (wide : Bool) (v : Dword) (s : State) : State :=
  match reg s (off - off % 8) with
  | some d => if alignedAccess off wide then writeReg d off wide v s else s
  | none => s

/-! ## The NW8's registers (R418, R424, R457, R515, R528) -/

/-- An RWI write of the NW8 that changes the tray's caps. -/
def trayRwi (path : RegPath) (off : Nat) (v : Dword) (f : State → State) (s : State) : State :=
  settleTray (privWrite path .installer off v.toNat f s)

/-- HOLD_STATUS and the watchdog, autonomous and budget registers, and the peek selections. -/
def writeHold (path : RegPath) (off : Nat) (v : Dword) (s : State) : State :=
  match off with
  | 0x00 => onHold (fun h => { h with jtagRefused := s.w1c (offNw8 0) v 2 h.jtagRefused }) s
  | 0x04 =>
    privWrite path .installer off v.toNat (onHold fun h => { h with wdt := BitVec.ofNat 8 (field v 15 8) })
      (if v.getLsbD 0 then pulse (4096 + 4) (onHold (fun h => { h with lastKick := h.timeMs }) s) else s)
  | 0x08 => privWrite path .installer off v.toNat (onHold fun h => { h with auto := BitVec.ofNat 12 (field v 11 0) }) s
  | 0x14 => trayRwi path off v (onNw8 fun w => { w with overhead := BitVec.ofNat 8 (field v 23 16) }) s
  | 0x20 => writeHoldPeek path 0 v s
  | 0x24 => writeHoldPeek path 1 v s
  | _ => s

/-- The registers of slot n. -/
def writeSlot (path : RegPath) (n sub off : Nat) (v : Dword) (s : State) : State :=
  match sub with
  | 0x00 => writeSlotCtrl path n v s
  | 0x14 => trayRwi path off v (onChan n fun x => { x with ceiling := BitVec.ofNat 10 (clampCap (field v 25 16)) }) s
  | 0x1C => trayRwi path off v (onChan n fun x => { x with populated := v.getLsbD 8 }) s
  | _ => s

/-- A two-wire port of the NW8 by its register index: 0 HOST, 1 RACK, 2–9 downstream. -/
def onPortIndex (k : Nat) (f : TwoWire → TwoWire) (s : State) : State :=
  match k with
  | 0 => onNw8 (fun w => { w with host := f w.host }) s
  | 1 => onNw8 (fun w => { w with rackPort := f w.rackPort }) s
  | n + 2 => onNw8 (Nw8.onDown n f) s

/-- The pump, the coolant configuration, the fans and the ports. -/
def writeTray (path : RegPath) (off : Nat) (v : Dword) (s : State) : State :=
  if off = 0x30C then onCool (fun c => { c with duty := BitVec.ofNat 8 (field v 7 0) }) s
  else if off = 0x314 then
    privWrite path .installer off v.toNat (onCool fun c => { c with kfactor := BitVec.ofNat 16 (field v 15 0) }) s
  else match unitAt off 0x320 4 4, unitAt off 0x400 8 10 with
    | some (f, 0), _ => onNw8 (fun w => { w with fans := tmod {} w.fans f fun x =>
        { x with duty := BitVec.ofNat 8 (field v 7 0), fault := s.w1c (offNw8 off) v 24 x.fault } }) s
    | _, some (k, 0) =>
      privWrite path .installer off v.toNat (onPortIndex k fun p => { p with speed := BitVec.ofNat 2 (field v 1 0) }) s
    | _, some (k, 4) => onPortIndex k (TwoWire.w1c s (offNw8 off) v) s
    | _, _ => s

/-- A write of the NW8's 32-bit register at an address. -/
def writeNw8 (path : RegPath) (off : Nat) (v : Dword) (s : State) : State :=
  match unitAt off 0 0x100 1, unitAt off 0x100 0x20 8, unitAt off 0x200 4 20 with
  | some _, _, _ => writeHold path off v s
  | _, some (n, sub), _ => writeSlot path n sub off v s
  | _, _, some (l, 0) => onLamp l (fun x =>
      { x with requested := BitVec.ofNat 3 (field v 2 0), opened := s.w1c (offNw8 off) v 8 x.opened
               short := s.w1c (offNw8 off) v 9 x.short }) s
  | _, _, _ => writeTray path off v s

/-- REGISTER_WRITE (R5–R8, R302–R305, R418): a write by the register's access code; what no register maps ignores it. -/
def execRegisterWrite (path : RegPath) (offset : BitVec 26) (wide : Bool) (value : Dword) (s : State) :
    Host.Outcome State Fault Refusal :=
  match path with
  | .pf | .smb0 => pathWrite path true (writeEv9 (ev9Reg path) offset.toNat wide value) s
  | .vf t => pathWrite path (decide (offset.toNat < 0x10000)) (writeEv9 (vfReg t.val) offset.toNat wide value) s
  | .nwHost | .nwRack =>
    pathWrite path (!wide && decide (offset.toNat < 0x10000)) (writeNw8 path offset.toNat value) s

end Sys2Proof.Machine
end

