-- ==== Sys2Proof/Machine/RegRead.lean ====
section
/-! DEFINITION. RegRead.lean: what a read of a register returns (R5, R6, R10, R73, R74, R111, R150, R180, R250, R290, R302–R305, R333,
R357, R387, R418, R456, R457, R471, R496, R527, R528). -/

namespace Sys2Proof.Machine

open Sys2Proof

/-- What a register of 8 bytes reads as. Reserved bits and write-only fields are 0 (R5, R6). -/
structure RegValue where
  /-- the register holds a counter, so that R74's latch serves its halves -/
  counter : Bool
  value : Nat
  deriving DecidableEq, Repr

/-- A register that holds no counter. -/
def plain (v : Nat) : Option RegValue := some ⟨false, v⟩

/-- A register that holds a counter. -/
def ctr (v : Nat) : Option RegValue := some ⟨true, v⟩

/-- Two 32-bit fields in one register. -/
def pair (lo hi : BitVec 32) : Nat := lo.toNat + 2 ^ 32 * hi.toNat

/-- The n bits of 64 from bit 64 × w of a wide value. -/
def dwordOf (v w : Nat) : Nat := v / 2 ^ (64 * w) % 2 ^ 64

/-- W1C bit i of the register at `off`, which holds `b`, at its place in the register (R10). -/
def State.w1cBit (s : State) (off i : Nat) (b : Bool) : Nat := 2 ^ i * bit (s.w1cRead off i b)

/-! ## CHIP_, CLK_, CURL_ (R73, R471) -/

/-- The partitions whose member's image `f` picks, as a mask. -/
def Ev9.imageMask (e : Ev9) (f : Image → Bool) : Nat :=
  maskOf fun p => match e.memberOf p with
    | some (_, m) => m.image.any f
    | none => false

/-- Some port retrains under R467. -/
def Ev9.retraining (e : Ev9) : Bool := (List.range 12).any fun n => (e.port n).stage6 || (e.port n).wants == some .six

/-- The pace that a cue has named for partition p and that is not yet applied (R73, R78). -/
def Ev9.pendingPace (e : Ev9) (p : Nat) : Option Nat :=
  match (e.part p).clk.pending, e.memberOf p with
  | some k, _ => some k.val
  | none, some (_, m) => ((m.paces.filter fun x => m.lastBegun.all fun n => decide (n.toNat < x.1)).head?).map (·.2)
  | none, none => none

/-- CLK_PACE_p. -/
def Ev9.paceBits (e : Ev9) (p : Nat) : Nat :=
  let k := e.pendingPace p
  (e.part p).clk.pace.val + 16 * (k.getD 0) + 128 * bit k.isSome + 256 * bit (e.part p).clk.glide + 512 * bit (!e.chip.strict)

/-- A cause tag as four bits: valid, and the code. -/
def tagBits : Tag → Nat
  | some k => 8 + k.val
  | none => 0

/-- CURL_STATUS_p. -/
def State.curlStatus (s : State) (p : Nat) : Nat :=
  let c := (s.ev9.part p).curl
  bit c.curled + 2 * bit c.held + s.w1cBit (offCurlStatus p) 2 c.breach + s.w1cBit (offCurlStatus p) 3 c.timeout
    + 16 * tagBits (if c.curled then c.causeNow else none)

/-- The registers of chip mode, clocks and curls. -/
def clkRead (s : State) (off : Nat) : Option RegValue :=
  let h := s.ev9.chip
  if off = 0x10 then
    plain (bit h.strict + 2 * bit s.ev9.retraining + 2 ^ 8 * s.ev9.imageMask Image.nonRepro
      + 2 ^ 16 * s.ev9.imageMask fun g => g.mode.getLsbD 4)
  else if off = 0x1000 then
    plain (bit h.trPresent + s.w1cBit offTrclk 1 h.trLost + 4 * bit h.trHoldover + 2 ^ 16 * h.freqErr.toNat)
  else if off = 0x2000 then plain h.curlLimit.toNat
  else match unitAt off 0x1100 0x100 8, unitAt off 0x2100 0x100 8 with
    | some (p, sub), _ =>
      let k := (s.ev9.part p).clk
      match sub with
      | 0x00 => plain (s.ev9.paceBits p)
      | 0x08 => ctr k.beatCount.toNat
      | 0x10 => ctr k.step.toNat
      | 0x18 => ctr k.stepBeat.toNat
      | 0x20 => plain k.fll.toNat
      | 0x28 => ctr k.droopCount.toNat
      | _ => none
    | _, some (p, sub) =>
      let c := (s.ev9.part p).curl
      match sub with
      | 0x00 => plain (s.curlStatus p)
      | 0x08 => ctr c.count.toNat
      | 0x10 => ctr c.beats.toNat
      | 0x18 => ctr c.untagged.toNat
      | 0x20 => ctr c.nearMiss.toNat
      | _ => match unitAt sub 0x40 0x10 8 with
        | some (k, 0) => ctr (tget 0 c.histCount k).toNat
        | some (k, 8) => ctr (tget 0 c.histBeats k).toNat
        | _ => none
    | _, _ => none

/-! ## PWR_, THM_ (R387) -/

/-- The power and temperature registers. -/
def powerRead (s : State) (off : Nat) : Option RegValue :=
  let x := s.ev9.power
  let t := s.ev9.therm
  if off = 0x100000 then
    plain (x.hostCap.toNat + 2 ^ 16 * x.slotLimit.toNat + 2 ^ 32 * x.capSource.1 + 2 ^ 48 * x.capSource.2)
  else if off = 0x100008 then plain x.ceiling.toNat
  else if off = 0x100010 then
    ctr (x.status + s.w1cBit offPwrStatus 8 x.brakeSeen + s.w1cBit offPwrStatus 9 x.staleSeen + 2 ^ 16 * x.flat.toNat)
  else if off = 0x100018 then plain x.brakePace.val
  else if off = 0x100020 then plain (pair x.est x.residual)
  else if off = 0x180000 then
    plain (t.tj.toNat + 2 ^ 8 * t.hottest.toNat + 2 ^ 16 * bit t.throttling + s.w1cBit offThmStatus 17 t.onset)
  else if off = 0x180008 then plain t.throttle.toNat
  else match unitAt off 0x100100 8 6, unitAt off 0x100200 0x20 8, unitAt off 0x100400 8 18, unitAt off 0x180100 8 82 with
    | some (r, 0), _, _, _ => plain ((tget 0 x.measPower r).toNat + 2 ^ 32 * (tget 0 x.measVolts r).toNat)
    | _, some (p, 0), _, _ =>
      let y := s.ev9.part p
      plain (y.share.toNat + 2 ^ 16 * y.request.val + 2 ^ 20 * y.limited.toNat + 2 ^ 32 * y.budget.toNat)
    | _, _, some (j, 0), _ => plain (x.coefWord j).toNat
    | _, _, _, some (i, 0) => plain (tget 0 t.sensors i).toNat
    | _, _, _, _ => none

/-! ## SVC_, SMB_, AUTH_ (R456, R496) -/

/-- The 32 bytes of a fault record as a number, byte 0 lowest (R492). -/
def FaultRec.bits (r : FaultRec) : Nat :=
  r.stamp.toNat + 2 ^ 48 * r.step.toNat + 2 ^ 80 * r.source.toNat + 2 ^ 88 * r.part.toNat + 2 ^ 96 * r.core.toNat
    + 2 ^ 104 * r.flags.toNat + 2 ^ 112 * r.cause.toNat + 2 ^ 128 * r.d0.toNat + 2 ^ 160 * r.d1.toNat + 2 ^ 192 * r.d2.toNat
    + 2 ^ 224 * r.d3.toNat

/-- SVC_BOOT. -/
def Svc.bootBits (v : Svc) : Nat :=
  bit (v.boot == .complete) + 2 * bit v.fallback + 4 * bit (v.boot == .recovery) + 8 * bit (v.boot == .railFail)
    + 2 ^ 8 * v.major.toNat + 2 ^ 16 * v.rails.toNat

/-- SVC_STEPFAULT_p. -/
def Ev9.stepFaultBits (e : Ev9) (p : Nat) : Nat :=
  let pending := match e.memberOf p with
    | some (_, m) => m.rerun.isSome
    | none => false
  (e.part p).faultStep.toNat + 2 ^ 62 * bit pending + 2 ^ 63 * bit (e.part p).stopped

/-- The W1C bits 3:0 of SMB_STATUS. -/
def State.smbFlags (s : State) (p : TwPort) : Nat :=
  let x := s.port2 p
  let f := s.w1cBit (offSmbStatus p)
  f 0 x.sclLow + f 1 x.sdaLow + f 2 x.stretch + f 3 x.pecError

/-- SMB_STATUS_i of the EV9. -/
def State.smbStatus (s : State) (p : TwPort) : Nat :=
  let x := s.port2 p
  s.smbFlags p + 2 ^ 8 * min x.replies.length 8 + 2 ^ 16 * x.arbLosses.toNat + 2 ^ 32 * x.pecErrors.toNat

/-- The failed attempts of a session's current window of 10 minutes (R442). -/
def State.failedNow (s : State) (i : SessionId) : Nat :=
  ((s.session i).fails.filter fun t => !s.surelySince (sessChip i) t 600000).length

/-- The seconds for which a session has been idle (R443). -/
def State.idleSeconds (s : State) (i : SessionId) : Nat :=
  match sessChip i with
  | .ev9 => (s.now .ev9 - (s.session i).lastMs) / 1000
  | .nw8 => (s.now .nw8 + 2 ^ 32 - (s.session i).lastMs) % 2 ^ 32 / 1000

/-- Bits 16:0 of AUTH_SESSION. -/
def State.authBits (s : State) (i : SessionId) : Nat :=
  Role.num (s.session i).role + 2 ^ 8 * s.failedNow i + 2 ^ 16 * bit (s.session i).locked

/-- AUTH_SESSION_k of the EV9. -/
def State.authEv9 (s : State) (i : SessionId) : Nat := s.authBits i + 2 ^ 32 * min (s.idleSeconds i) 0xFFFF

/-- The registers of the service island, of the two-wire ports and of the sessions. -/
def svcRead (s : State) (off : Nat) : Option RegValue :=
  let v := s.ev9.svc
  match off with
  | 0x200000 => plain v.bootBits
  | 0x200008 => ctr (v.resetCause.toNat + 2 ^ 32 * v.resets.toNat)
  | 0x200010 => plain v.retire.toNat
  | 0x200018 => plain v.selftestFail.toNat
  | 0x201000 => plain (s.ev9.smb0.speed.toNat + 16 * bit s.ev9.smb0.notify + 2 ^ 16 * v.slotId.toNat)
  | 0x201010 => plain (s.ev9.smb1.speed.toNat + 2 ^ 16 * v.slotId.toNat)
  | 0x201008 => ctr (s.smbStatus .smb0)
  | 0x201018 => ctr (s.smbStatus .smb1)
  | 0x202000 => plain (s.authEv9 .pf)
  | 0x202008 => plain (s.authEv9 .smb0)
  | 0x203000 => ctr (v.auditSeq.toNat + 2 ^ 32 * v.unforwarded + 2 ^ 48 * v.lost.toNat)
  | 0x204000 => ctr v.faultSeq.toNat
  | 0x204008 => plain v.faultRead.toNat
  | 0x204010 => ctr v.faultLost.toNat
  | _ => match unitAt off 0x200100 8 8, unitAt off 0x205000 8 1024, unitAt off 0x207000 8 64 with
    | some (p, 0), _, _ => plain (s.ev9.stepFaultBits p)
    | _, some (i, 0), _ => plain (dwordOf (tget FaultRec.blank v.faults (i / 4)).bits (i % 4))
    | _, _, some (c, 0) => plain (tget 0 v.repair c).toNat
    | _, _, _ => none

/-! ## HIF_, STRM_, RING_ (R303, R305, R333) -/

/-- RING_STATUS_r: fetching is stopped while 64 replies are held (R309). -/
def State.ringStatus (s : State) (r : Nat) : Nat :=
  let g := s.ev9.ring r
  s.w1cBit (offRingStatus r) 0 g.badDoorbell + s.w1cBit (offRingStatus r) 1 g.dmaError + 4 * bit (decide (64 ≤ g.heldReplies.length))
    + 2 ^ 16 * g.inflight.toNat

/-- The registers of ring r. -/
def ringRead (s : State) (r sub : Nat) : Option RegValue :=
  let g := s.ev9.ring r
  match sub with
  | 0x00 => plain (4096 * g.sqBase.toNat)
  | 0x08 => plain (4096 * g.cqBase.toNat)
  | 0x10 => plain g.cfg
  | 0x18 => plain g.sqTail.toNat
  | 0x20 => plain g.sqHead.toNat
  | 0x28 => plain g.cqHead.toNat
  | 0x30 => plain (g.cqTail.toNat + 2 ^ 16 * bit g.phase)
  | 0x38 => plain (s.ringStatus r)
  | _ => none

/-- The slot states of R319 as numbers. -/
def SlotState.code : SlotState → Nat
  | .free => 0
  | .pending => 1
  | .bound => 2
  | .releasing => 3
  | .collect => 4

/-- The registers of slot n. -/
def slotRead (g : StreamSlot) (sub : Nat) : Option RegValue :=
  match sub with
  | 0x00 => plain (g.state.code + 2 ^ 16 * g.tenant.toNat + 2 ^ 32 * g.lane.toNat + 2 ^ 48 * g.troupe.toNat)
  | 0x08 => plain g.identity.toNat
  | 0x10 => ctr g.position.toNat
  | 0x18 => ctr (g.head.toNat + 2 ^ 16 * g.tail.toNat + 2 ^ 32 * g.count.toNat)
  | _ => none

/-- STRM_QUOTA_t and STRM_TENANT: the quota and the slots in use. -/
def Ev9.quotaBits (e : Ev9) (t : Nat) : Nat := (tget 0 e.hif.quotas t).toNat + 2 ^ 16 * e.slotsHeld t

/-- The registers of the host interface, the streams and the rings. -/
def hifRead (s : State) (off : Nat) : Option RegValue :=
  let h := s.ev9.hif
  if off = 0x400000 then plain (h.rate.toNat + 2 ^ 3 * h.width.toNat + 2 ^ 8 * bit h.flit + 2 ^ 9 * bit h.reversed + 2 ^ 10 * bit h.up)
  else if off = 0x400008 then ctr (pair h.errCorr h.errUncorr)
  else if off = 0x400010 then plain (h.numVfs.toNat + 2 ^ 16 * bit h.vfEnable)
  else if off = 0x490000 then
    plain (4096 - (h.slots.filter fun x => x.2.state != .free).length + 2 ^ 32 * h.generation.toNat)
  else if off = 0x490008 then ctr h.unmatched.toNat
  else match unitAt off 0x400100 0x40 1, unitAt off 0x480000 8 1024, unitAt off 0x4A0000 0x20 4096, unitAt off 0x800000 0x40 65536 with
    | some (_, sub), _, _, _ => ringRead s 65536 sub
    | _, some (t, 0), _, _ => plain (s.ev9.quotaBits t)
    | _, _, some (n, sub), _ => slotRead (s.ev9.slot n) sub
    | _, _, _, some (r, sub) => ringRead s r sub
    | _, _, _, _ => none

/-! ## PART_ (R357) -/

/-- PART_STATUS_p. -/
def State.partStatus (s : State) (p : Nat) : Nat :=
  let x := s.ev9.part p
  x.state.code + 2 ^ 4 * bit x.curl.held + 2 ^ 5 * bit x.tier.sealed + 2 ^ 6 * bit (s.ev9.runsImage p)
    + 2 ^ 7 * bit (s.ev9.enablePending p) + s.w1cBit (offPartStatus p) 8 x.drainTimeout + 2 ^ 9 * bit x.stuck

/-- PART_TROUPE_p. -/
def Ev9.partTroupe (e : Ev9) (p : Nat) : Nat :=
  match e.memberOf p with
  | some (t, m) => if m.joined then t + 2 ^ 16 * m.position.toNat + 2 ^ 31 + 2 ^ 32 * m.mask.toNat else 0
  | none => 0

/-- The partition registers. -/
def partRead (s : State) (off : Nat) : Option RegValue :=
  if off = 0x1001000 then plain s.ev9.chip.drainLimit.toNat
  else match unitAt off 0x1000000 0x40 8, unitAt off 0x1002000 8 1024 with
    | some (p, sub), _ =>
      match sub with
      | 0x00 => plain (s.partStatus p)
      | 0x08 => plain (s.ev9.partTroupe p)
      | 0x10 => plain (s.ev9.part p).ports.toNat
      | 0x18 => ctr (pair (s.ev9.part p).flitsDiscarded (s.ev9.part p).creditsRestored)
      | _ => none
    | _, some (t, 0) => plain (tget 0 s.ev9.hif.binds t).toNat
    | _, _ => none

/-! ## NOC_, SNL_ (R290) -/

/-- The router registers. -/
def nocRead (e : Ev9) (off : Nat) : Option RegValue :=
  let x := e.noc
  let slot (k : Nat) : Nat := (tget 0 x.slots k).toNat
  if off = 0x1112000 then ctr x.drop.toNat
  else match unitAt off 0x1100000 0x800 30, unitAt off 0x1110000 0x40 30, unitAt off 0x1111000 0x40 8 with
    | some (r, sub), _, _ =>
      match unitAt sub 0 0x100 6 with
      | some (o, k) =>
        let i := 384 * r + 64 * o + 2 * (k / 8)
        plain (slot i + 2 ^ 32 * slot (i + 1))
      | none => none
    | _, some (r, sub), _ => if sub < 48 then ctr (pair (tget 0 x.flitsSched (8 * r + sub / 8)) (tget 0 x.flitsBest (8 * r + sub / 8))) else none
    | _, _, some (p, sub) =>
      if sub < 32 then plain ((tget 0 x.xeab (4 * p + sub / 8)).toNat + 2 ^ 16 * (tget 0 x.xeabHigh (4 * p + sub / 8)).toNat) else none
    | _, _, _ => none

/-- The registers of port n. -/
def portRead (s : State) (n sub : Nat) : Option RegValue :=
  let x := s.ev9.port n
  match sub with
  | 0x00 => plain x.cfg
  | 0x08 => plain ({ x with hopOver := s.w1cRead (offSnlStatus n) 11 x.hopOver } : Port).statusBits
  | 0x10 => plain x.lane.toNat
  | 0x18 => plain x.ident.toNat
  | 0x20 => plain (x.hop.toNat + 2 ^ 16 * x.replay.toNat)
  | 0x28 => ctr (s.w1cBit (offSnlPm n) 7 x.nak + 2 ^ 32 * x.sleeps.toNat)
  | 0x30 => ctr x.cwOk.toNat
  | 0x38 => ctr x.cwBad.toNat
  | 0x40 => ctr x.replays.toNat
  | 0x48 => ctr (pair x.errCue x.errSeq)
  | 0x50 => ctr x.wakeDelay.toNat
  | 0x60 => plain (dwordOf x.plan.toNat 0)
  | 0x68 => plain (dwordOf x.plan.toNat 1)
  | _ => match unitAt sub 0x100 8 4 with
    | some (v, 0) => plain ((tget 0 x.eab v).toNat + 2 ^ 16 * (tget 0 x.eabHigh v).toNat)
    | _ => none

/-- The router and link registers. -/
def linkRead (s : State) (off : Nat) : Option RegValue :=
  match unitAt off 0x1200000 0x10000 12 with
  | some (n, sub) => portRead s n sub
  | none => nocRead s.ev9 off

/-! ## CORE_, CORE_VEC_ (R150, R250) -/

/-- The thread states of R123 as numbers. -/
def ThreadState.code : ThreadState → Nat
  | .halted => 0
  | .running => 1
  | .waiting => 2
  | .faulted => 3

/-- The two words of CORE_THREAD_c_t. -/
def Thread.word0 (h : Thread) : Nat := h.waitBeats.toNat + 2 ^ 40 * h.regs.waitAc.toNat + 2 ^ 48 * h.regs.waitN.toNat
def Thread.word1 (h : Thread) : Nat := h.regs.pc.toNat + 2 ^ 16 * h.regs.state.code + 2 ^ 18 * bit h.stall

/-- CORE_ACORN_c_i. -/
def State.acornBits (s : State) (c i : Nat) : Nat :=
  let x := s.ev9.core c
  let a := x.acorn i
  a.value.toNat + s.w1cBit (offAcorn c i) 17 a.overflow + 2 ^ 18 * bit (s.ev9.declared c i) + 2 ^ 20 * x.engines i
    + 2 ^ 32 * a.expected.toNat

/-- CORE_STATUS_c. -/
def State.coreStatus (s : State) (c : Nat) : Nat :=
  let x := s.ev9.core c
  let f := s.w1cBit (offCoreStatus c)
  bit (s.ev9.lockCond c) + f 1 x.waitlock + f 2 x.waitstall + f 3 x.bounds + f 4 x.acornOverflow

/-- An instruction of the vector engine runs. -/
def Core.vectorRuns (x : Core) : Bool := x.qVector.any fun q => q.active && !q.finished

/-- CORE_VEC_FLAGS_c. -/
def State.vecFlags (s : State) (c : Nat) : Nat :=
  let f := (s.ev9.core c).vec.flags
  (List.range 5).foldl (fun n i => n + s.w1cBit (offCoreStatus c + 0x4008) i (f.getLsbD i)) 0

/-- Mask m as a number: m0 is all ones (R223). -/
def maskWord (v : Vec) (m : Nat) : Nat := if m = 0 then 2 ^ 2048 - 1 else (tget 0 v.masks m).toNat

/-- The registers of core c. -/
def coreRead (s : State) (c sub : Nat) : Option RegValue :=
  let x := s.ev9.core c
  match sub with
  | 0x0000 => plain (s.coreStatus c)
  | 0x0008 => plain x.waitLimit.toNat
  | 0x0010 => plain (x.qMatrix.length + 2 ^ 8 * x.qVector.length + 2 ^ 16 * x.qMover.length)
  | 0x4000 => plain x.vec.ctrl.toNat
  | 0x4008 => plain (s.vecFlags c)
  | 0x4010 => plain x.vec.seed.toNat
  | 0x4018 => plain (x.vec.vl.toNat + 2 ^ 16 * bit x.vec.wide16 + 2 ^ 17 * bit x.vectorRuns)
  | 0x4020 => ctr x.vec.passes.toNat
  | _ =>
    if sub < 0x1000 then
      match unitAt sub 0x20 8 4, unitAt sub 0x40 8 4, unitAt sub 0x100 8 32, unitAt sub 0x200 8 8 with
      | some (t, 0), _, _, _ => ctr (x.thread t).word0
      | _, some (t, 0), _, _ => plain (x.thread t).word1
      | _, _, some (i, 0), _ => ctr (s.acornBits c i)
      | _, _, _, some (i, 0) =>
        let k := tget {} x.timers i
        plain (k.beats.toNat + 2 ^ 32 * k.ac.toNat + 2 ^ 40 * bit k.armed)
      | _, _, _, _ => none
    else match unitAt sub 0x1000 8 1024, unitAt sub 0x3000 8 512, unitAt sub 0x4100 0x100 8 with
      | some (i, 0), _, _ => plain (dwordOf (tget 0 x.handles (i / 4)).toNat (i % 4))
      | _, some (i, 0), _ => plain (dwordOf (tget 0 x.loops (i / 8)).toNat (i % 8))
      | _, _, some (m, k) => plain (dwordOf (maskWord x.vec m) (k / 8))
      | _, _, _ => none

/-! ## TIER_, SCR_ (R111) -/

/-- TIER_STATUS_p. -/
def State.tierStatus (s : State) (p : Nat) : Nat :=
  let t := (s.ev9.part p).tier
  let f := s.w1cBit (offTierStatus p)
  f 0 t.ue + f 1 t.ce + f 2 t.sealViolation + f 3 t.intrusion + f 4 t.overdue + 2 ^ 5 * bit t.sealed

/-- The tier and scratch registers. -/
def tierRead (s : State) (off : Nat) : Option RegValue :=
  let strict := bit s.ev9.chip.strict
  if off = offTierBand then
    let t := s.ev9.therm
    plain (t.band.toNat + 4 * strict + 2 ^ 8 * t.bandFloor.toNat + 2 ^ 16 * t.tjMax.toNat)
  else match unitAt off 0x2800100 0x40 8, unitAt off 0x2800400 8 64, unitAt off 0x2800800 8 64, unitAt off 0x2840000 0x40 16 with
    | some (p, sub), _, _, _ =>
      let t := (s.ev9.part p).tier
      match sub with
      | 0x00 => plain (s.tierStatus p)
      | 0x08 => ctr t.ceCount.toNat
      | 0x10 => ctr t.ueCount.toNat
      | 0x18 => plain (2 ^ 4 * t.ueAddr.toNat + 2 ^ 60 * t.ueSource.toNat)
      | 0x20 => ctr t.forced.toNat
      | 0x28 => ctr t.windows.toNat
      | _ => none
    | _, some (c, 0), _, _ =>
      let x := s.ev9.core c
      plain (x.sealBase.toNat + 2 ^ 16 * x.sealLimit.toNat + 2 ^ 31 * bit x.sealValid)
    | _, _, some (c, 0), _ => ctr (s.ev9.core c).refreshWait.toNat
    | _, _, _, some (k, sub) =>
      let x := s.ev9.cluster k
      match sub with
      | 0x00 => plain (s.w1cBit (offScrStatus k) 0 x.ue + s.w1cBit (offScrStatus k) 1 x.ce + 4 * strict)
      | 0x08 => ctr x.atomics.toNat
      | 0x10 => ctr x.conflicts.toNat
      | 0x18 => ctr x.ceCount.toNat
      | 0x20 => plain (2 ^ 4 * x.ueAddr.toNat)
      | _ => none
    | _, _, _, _ => none

/-! ## DBG_, ABFT_ (R180, R527) -/

/-- ABFT_STATUS_c. -/
def State.abftStatus (s : State) (c : Nat) : Nat :=
  let a := (s.ev9.core c).abft
  let f := s.w1cBit (offAbft c)
  f 0 a.mismatch + f 1 a.retriedOk + f 2 a.faulted + 2 ^ 3 * bit a.retrying

/-- The checksum registers of core c. -/
def abftRead (s : State) (c sub : Nat) : Option RegValue :=
  let a := (s.ev9.core c).abft
  match sub with
  | 0x00 => plain (s.abftStatus c)
  | 0x08 => plain a.last.toNat
  | 0x10 => plain a.delta.toNat
  | 0x18 => ctr a.tiles.toNat
  | 0x20 => ctr a.mismatches.toNat
  | 0x28 => ctr (pair a.retries a.retriesPassed)
  | 0x30 => ctr a.skipped.toNat
  | 0x40 => plain a.inject
  | _ => none

/-- The debug and checksum registers. -/
def dbgRead (s : State) (off : Nat) : Option RegValue :=
  let d := s.ev9.dbg
  match off with
  | 0x3000040 => plain (d.unlockPf.toNat + 4 * d.unlockSmb.toNat)
  | 0x3000048 => plain (s.w1cBit offDbgStatus 0 d.jtagRefused + 2 * bit d.tap.gated + 4 * bit d.factoryLow)
  | 0x3000050 => ctr d.changes.toNat
  | _ => match unitAt off 0x3000000 8 8, unitAt off 0x3080000 0x100 64, unitAt off 0x3088000 8 8 with
    | some (n, 0), _, _ => plain ((d.peek n).bits + 2 ^ 16 * (d.peek n).carrier.toNat)
    | _, some (c, sub), _ => abftRead s c sub
    | _, _, some (p, 0) => plain (s.ev9.part p).abftTol.toNat
    | _, _, _ => none

/-! ## Reads of BAR0 (R74, R302–R305) -/

/-- The register of the physical function's BAR0 at an 8-byte offset; none where no register is mapped. -/
def ev9Read (s : State) (off : Nat) : Option RegValue :=
  if off < 0x100000 then clkRead s off
  else if off < 0x200000 then powerRead s off
  else if off < 0x400000 then svcRead s off
  else if off < 0x1000000 then hifRead s off
  else if off < 0x1100000 then partRead s off
  else if off < 0x2000000 then linkRead s off
  else if off < 0x2800000 then
    match unitAt off 0x2000000 0x10000 64 with
    | some (c, sub) => coreRead s c sub
    | none => none
  else if off < 0x3000000 then tierRead s off
  else dbgRead s off

/-- The register of tenant t's BAR0: its own rings, and STRM_TENANT (R303). -/
def vfRead (s : State) (t off : Nat) : Option RegValue :=
  if off = 0x2000 then plain (s.ev9.quotaBits t)
  else match unitAt off 0 0x40 64 with
    | some (j, sub) => ringRead s (64 * t + j) sub
    | none => none

/-- An 8-byte read at an offset: the whole register at one moment, so that a counter is read coherently; zero where no register is
mapped (R74, R302). -/
def State.read8 (s : State) (off : Nat) : Dword := BitVec.ofNat 64 (((ev9Read s off).map (·.value)).getD 0)

/-- A tenant's 8-byte read. -/
def State.vfRead8 (s : State) (t off : Nat) : Dword := BitVec.ofNat 64 (((vfRead s t off).map (·.value)).getD 0)

/-- The read latch of a carrier. -/
def State.latch (s : State) (path : RegPath) : Option ReadLatch :=
  if path = .smb0 then s.ev9.chip.latchSmb else s.ev9.chip.latchPf

/-- The latch takes a value; the other carrier's is not touched. -/
def setLatch (path : RegPath) (l : Option ReadLatch) (s : State) : State :=
  onEv9 (fun e => { e with chip := if path = .smb0 then { e.chip with latchSmb := l } else { e.chip with latchPf := l } }) s

/-- A 4-byte read of a counter's half (R74). -/
def readHalf (path : RegPath) (off v : Nat) (s : State) : State :=
  let high := BitVec.ofNat 32 (v / 2 ^ 32)
  if off % 8 = 0 then
    emit (.registerRead (BitVec.ofNat 32 v)) (setLatch path (some ⟨BitVec.ofNat 26 off, high⟩) s)
  else match s.latch path with
    | some l =>
      if l.addr.toNat + 4 = off then emit (.registerRead l.high) (setLatch path none s) else emit (.registerRead high) s
    | none => emit (.registerRead high) s

/-- A 4-byte read of half of a register that holds no counter. -/
def readPlain (off v : Nat) (s : State) : State :=
  emit (.registerRead (BitVec.ofNat 32 (if off % 8 = 0 then v else v / 2 ^ 32))) s

/-- A 4-byte read of BAR0 on a path: a counter through the path's latch, any other register as it is, zero where none is mapped. -/
def readEv9 (path : RegPath) (off : Nat) (r : Option RegValue) (s : State) : State :=
  match r with
  | some x => if x.counter then readHalf path off x.value s else readPlain off x.value s
  | none => readPlain off 0 s

/-! ## The NW8's registers (R418, R457, R528) -/

/-- The channel states of R397 as numbers. -/
def ChanState.code : ChanState → Nat
  | .off => 0
  | .discharging => 1
  | .inrush => 2
  | .on => 3
  | .waitRetry => 4
  | .latched => 5
  | .blocked => 6

/-- The slot fault codes. -/
def SlotFault.code : SlotFault → Nat
  | .none => 0
  | .short => 1
  | .breaker => 2
  | .reversed => 3
  | .inrushTimeout => 4
  | .dischargeFail => 5
  | .thermtrip => 6
  | .coolant => 7

/-- The rack orders as numbers. -/
def RackOrder.code : RackOrder → Nat
  | .none => 0
  | .on => 1
  | .off => 2

/-- SLOT_CTRL_n, SLOT_STATUS_n and the registers after them. -/
def slotRegRead (s : State) (n sub : Nat) : Nat :=
  let x := s.nw8.chan n
  match sub with
  | 0x00 => x.breaker.toNat + 2 ^ 8 * bit x.restoreOn + 2 ^ 12 * bit x.isolate
  | 0x04 =>
    x.state.code + 2 ^ 4 * x.fault.code + 2 ^ 8 * bit x.present + 2 ^ 9 * bit x.opened + 2 ^ 10 * bit x.resetLow
      + 2 ^ 11 * bit x.brakeLow + 2 ^ 12 * bit x.alertLow + 2 ^ 16 * x.aborts.toNat
  | 0x08 => x.current.toNat + 2 ^ 16 * x.volts.toNat
  | 0x0C => x.tripPeak.toNat + 2 ^ 16 * x.tripDidt.toNat
  | 0x10 => x.tripTime.toNat
  | 0x14 => x.hostCap.toNat + 2 ^ 16 * x.ceiling.toNat
  | 0x18 =>
    x.effective.toNat + 2 ^ 10 * x.source.toNat + 2 ^ 16 * x.share.toNat
      + 2 ^ 28 * bit (x.capBrake || x.shedBrake || (x.live && s.nw8.starved))
  | 0x1C => bit x.hostOn + 2 * x.rack.code + 2 ^ 3 * bit x.resolved + 2 ^ 8 * bit x.populated
  | _ => 0

/-- LAMP_l. -/
def State.lampBits (s : State) (l : Nat) : Nat :=
  let x := s.nw8.lamp l
  let f := s.w1cBit (offNw8 (0x200 + 4 * l))
  x.requested.toNat + 2 ^ 4 * s.nw8.lampShown l + f 8 x.opened + f 9 x.short

/-- The two-wire port of a register index: 0 HOST, 1 RACK, 2–9 downstream. -/
def portOfIndex (k : Nat) : TwPort :=
  match k with
  | 0 => .nwHost
  | 1 => .nwRack
  | n + 2 => .down (Fin.ofNat 8 n)

/-- SMB_CFG_k and SMB_STATUS_k. -/
def smbRegRead (s : State) (k sub : Nat) : Nat :=
  let p := portOfIndex k
  let x := s.port2 p
  match sub with
  | 0 => x.speed.toNat + 2 ^ 8 * bit x.vsel
  | 4 => s.smbFlags p + 2 ^ 4 * bit x.failed + 2 ^ 5 * bit x.isLocal + 2 ^ 8 * x.rung.toNat + 2 ^ 16 * x.recoveries.toNat
  | _ => 0

/-- AUTH_SESSION_k of the NW8. -/
def State.authNw8 (s : State) (i : SessionId) : Nat := s.authBits i + 2 ^ 20 * min (s.idleSeconds i) 0xFFF

/-- The hold domain's and the tray's single registers. -/
def trayRead (s : State) (off : Nat) : Nat :=
  let w := s.nw8
  let h := w.hold
  let c := w.cool
  match off with
  | 0x000 => 2 * bit h.kept + s.w1cBit (offNw8 0) 2 h.jtagRefused + 2 ^ 4 * h.cause.toNat + 2 ^ 16 * h.restarts.toNat
  | 0x004 => 2 ^ 8 * h.wdt.toNat
  | 0x008 => h.auto.toNat + 2 ^ 16 * bit h.autonomous
  | 0x00C => h.timeMs
  | 0x010 => w.busMv / 10 % 2 ^ 16 + 2 ^ 16 * bit w.feedReversed
  | 0x014 =>
    w.budget.toNat + 2 ^ 16 * w.overhead.toNat + 2 ^ 30 * bit ((List.range 8).any fun n => (w.chan n).shedBrake)
      + 2 ^ 31 * bit w.budgetReceived
  | 0x020 => h.peek0.toNat
  | 0x024 => h.peek1.toNat
  | 0x300 => c.status
  | 0x304 => signed16 c.ts + 2 ^ 16 * signed16 c.tr
  | 0x308 => signed16 c.flow
  | 0x30C => c.duty.toNat + 2 ^ 16 * c.tach.toNat
  | 0x310 => c.derate.toNat
  | 0x314 => c.kfactor.toNat
  | 0x480 => s.authNw8 .nwHost
  | 0x484 => s.authNw8 .nwRack
  | 0x500 => min w.audit.length 0x1FFF + 2 ^ 16 * w.wraps.toNat
  | 0x504 => w.auditSeq.toNat
  | _ => 0

/-- A read of the NW8's 32-bit register at an address; zero where none is mapped. -/
def State.readNw8 (s : State) (off : Nat) : Word :=
  BitVec.ofNat 32 (match unitAt off 0x100 0x20 8, unitAt off 0x200 4 20, unitAt off 0x320 4 4, unitAt off 0x400 8 10 with
    | some (n, sub), _, _, _ => slotRegRead s n sub
    | _, some (l, 0), _, _ => s.lampBits l
    | _, _, some (f, 0), _ =>
      let x := s.nw8.fan f
      x.duty.toNat + 2 ^ 8 * x.tach.toNat + s.w1cBit (offNw8 off) 24 x.fault
    | _, _, _, some (k, sub) => smbRegRead s k sub
    | _, _, _, _ => trayRead s off)

/-- COUNTER_HALF_READ (R74): a 4-byte read at an offset by the host or for SMB_0; the row's command also reads half of a register that
holds no counter, a tenant's register and a register of the NW8 (log 60). -/
def execCounterHalfRead (path : RegPath) (offset : BitVec 26) (s : State) : Host.Outcome State Fault Refusal :=
  let off := offset.toNat
  let base := off - off % 8
  match path with
  | .pf | .smb0 => pathWrite path (off % 4 == 0) (readEv9 path off (ev9Read s base)) s
  | .vf t => pathWrite path (off % 4 == 0 && decide (off < 0x10000)) (readEv9 path off (vfRead s t.val base)) s
  | .nwHost | .nwRack =>
    pathWrite path (off % 4 == 0 && decide (off < 0x10000)) (fun s => emit (.registerRead (s.readNw8 off)) s) s

end Sys2Proof.Machine
end

