-- ==== Sys2Proof/Machine/Streams.lean ====
section
/-! DEFINITION. Streams.lean: the stream commands (R318–R328, R334, R351–R354) and copies (R318, R329–R332, R336, R349). -/

namespace Sys2Proof.Machine

open Sys2Proof

/-! ## Slots (R318, R319, R321) -/

/-- The FREE slots, rising. -/
def Ev9.freeSlots (e : Ev9) : List Nat := (List.range 4096).filter fun n => (e.slot n).state == .free

/-- The slot that a new stream takes: any FREE one, which the spec does not name (log 4). -/
def Ev9.pickSlot (e : Ev9) (draw : Nat) : Option Nat :=
  let l := e.freeSlots
  l[(Config.unstated draw).toNat % l.length]?

/-- The tenant may hold one more slot. -/
def Ev9.underQuota (e : Ev9) (t : Nat) : Bool := decide (e.slotsHeld t < e.quota t)

/-- The slot that bytes 8–9 name. -/
def slotOf (pkt : Packet) : Nat := pkt.field 8 2

/-- The slot's member is shutting down or has left (R351). -/
def Ev9.slotClosing (e : Ev9) (n : Nat) : Bool :=
  let g := e.slot n
  g.orphan || match e.member? g.troupe.toNat with
    | none => true
    | some m => m.draining

/-- The partitions of a slot's member (R353). -/
def Ev9.slotMask (e : Ev9) (n : Nat) : BitVec 8 :=
  if (e.slot n).orphan then 0
  else match e.member? (e.slot n).troupe.toNat with
    | none => 0
    | some m => m.mask

/-- A command on a slot: NOT_PERMITTED unless the tenant owns it (R318). -/
def onOwnSlot (via : Carrier) (pkt : Packet) (body : Nat → State → State) (s : State) : State :=
  let n := slotOf pkt
  let g := s.ev9.slot n
  if g.state == .free || g.tenant.toNat != carrierTenant via then answer via pkt stNotPermitted [] s else body n s

/-! ## STREAM_OPEN and STREAM_FEED -/

/-- A slot that has been opened. -/
def openedSlot (via : Carrier) (pkt : Packet) (at_ : Nat × Nat) : StreamSlot :=
  { state := .pending, tenant := BitVec.ofNat 10 (carrierTenant via), troupe := pkt.troupe, order := pkt.byte 10,
    base := BitVec.ofNat 64 (pkt.field 16 8), order311 := at_.1, rungAt := at_.2 }

/-- The doorbell of the packet just taken: its place in the order of R311, and its edge beat. -/
def Ev9.doorbell (e : Ev9) (via : Carrier) : Nat × Nat := (e.ring ((via.ring?).getD 0)).takenAt

/-- The parameters of a ring of 64-byte records: order 4–12 and a base aligned to 4 KiB. -/
def ringParams (order base : Nat) : Bool := decide (4 ≤ order) && decide (order ≤ 12) && base % 4096 == 0

/-- STREAM_OPEN (R318, R321, R351). One whose doorbell stands at or before the cut of the present step is a candidate of that cut even
where the cut came first (R33, R39, R311). -/
def execStreamOpen (via : Carrier) (pkt : Packet) (s : State) : Host.Outcome State Fault Refusal :=
  servePacket via pkt (troupeRule 0x20 via pkt [(8, 3), (16, 8)] (ringParams (pkt.byte 10) (pkt.field 16 8)) s)
    (onTroupe via pkt fun m s =>
      if !m.isEntry || m.run == .stopped then answer via pkt stWrongState [] s
      else if !s.ev9.underQuota (carrierTenant via) then answer via pkt stBusy [] s
      else
        match s.ev9.pickSlot s.fresh with
        | none => answer via pkt stBusy [] s
        | some n =>
          deferEv9 via pkt (.streamOpen n) m.mask (leBytes 2 n)
            (fun s => lateBind pkt.troupe.toNat n (onEv9 (Ev9.onSlot n fun _ => openedSlot via pkt (s.ev9.doorbell via)) s))
            (drawn s)) s

/-- The new tail does not pass the head of a ring of 2^order records. -/
def tailOk (order head old new : Nat) : Bool :=
  let size := 2 ^ order
  decide (new < size) && decide ((old + size - head) % size ≤ (new + size - head) % size)

/-- STREAM_FEED (R318, R323, R351). One whose doorbell stands at or before the cut of the present step counts for that cut (R334). -/
def execStreamFeed (via : Carrier) (pkt : Packet) (s : State) : Host.Outcome State Fault Refusal :=
  servePacket via pkt (runtimeRule (pkt.op == 0x21) via [(8, 4)] true []) (onOwnSlot via pkt fun n s =>
    let g := s.ev9.slot n
    if s.ev9.slotClosing n || !(g.state == .pending || g.state == .bound) then answer via pkt stWrongState [] s
    else if !tailOk g.order g.head.toNat g.tail.toNat (pkt.field 10 2) then answer via pkt stBadParam [] s
    else lateFeed g.troupe.toNat n (s.ev9.doorbell via).2 (answer via pkt stOk (leBytes 2 g.head.toNat)
      (onEv9 (Ev9.onSlot n fun g => { g with tail := BitVec.ofNat 16 (pkt.field 10 2) }) s))) s

/-! ## STREAM_COLLECT (R326) -/

/-- The member has an exit chip's place. -/
def Member.isExit (m : Member) : Bool :=
  match m.entryOf with
  | some x => x.exitChip
  | none => false

/-- The troupe of a bind form stands in bytes 10–11. -/
def collectTroupe (pkt : Packet) : BitVec 16 := BitVec.ofNat 16 (pkt.field 10 2)

/-- A COLLECT slot. -/
def collectSlot (via : Carrier) (pkt : Packet) : StreamSlot :=
  { state := .collect, tenant := BitVec.ofNat 10 (carrierTenant via), troupe := collectTroupe pkt,
    lane := BitVec.ofNat 9 (pkt.field 12 2), order := pkt.byte 14, base := BitVec.ofNat 64 (pkt.field 16 8),
    identity := BitVec.ofNat 64 (pkt.field 24 8) }

/-- STREAM_COLLECT, bind form (R321, R326). -/
def execStreamCollectBind (via : Carrier) (pkt : Packet) (s : State) : Host.Outcome State Fault Refusal :=
  let ok := decide (pkt.field 12 2 < 512) && ringParams (pkt.byte 14) (pkt.field 16 8) && pkt.field 28 4 != 0
  servePacket via pkt
    (runtimeRule (pkt.op == 0x22 && slotOf pkt == 0xFFFF) via [(8, 7), (16, 16)] ok (s.ev9.troupeParts (collectTroupe pkt)))
    (fun s =>
      match s.ev9.usable (collectTroupe pkt) with
      | none => answer via pkt stWrongState [] s
      | some m =>
        if !m.isExit then answer via pkt stWrongState [] s
        else if !s.ev9.underQuota (carrierTenant via) then answer via pkt stBusy [] s
        else
          match s.ev9.pickSlot s.fresh with
          | none => answer via pkt stBusy [] s
          | some n => answer via pkt stOk (leBytes 2 n) (onEv9 (Ev9.onSlot n fun _ => collectSlot via pkt) (drawn s))) s

/-- A wait is pending on the slot. -/
def Ev9.waitPending (e : Ev9) (n : Nat) : Bool := e.hif.deferred.any (Deferred.waitsOn [n])

/-- STREAM_COLLECT, wait form (R326, R351, R354). -/
def execStreamCollectWait (via : Carrier) (pkt : Packet) (s : State) : Host.Outcome State Fault Refusal :=
  let count := pkt.field 10 2
  servePacket via pkt
    (runtimeRule (pkt.op == 0x22 && slotOf pkt != 0xFFFF) via [(8, 6)] (decide (1 ≤ count) && decide (count ≤ 4095)) [])
    (onOwnSlot via pkt fun n s =>
      let g := s.ev9.slot n
      if s.ev9.slotClosing n || g.state != .collect then answer via pkt stWrongState [] s
      else if s.ev9.waitPending n then answer via pkt stPending [] s
      else if 2 ^ g.order ≤ pkt.field 12 2 then answer via pkt stBadParam [] s
      else
        deferEv9 via pkt (.collectWait n count) (s.ev9.slotMask n) []
          (onEv9 (Ev9.onSlot n fun g => { g with tail := BitVec.ofNat 16 (pkt.field 12 2) })) s) s

/-! ## STREAM_CLOSE (R328, R351, R354) -/

/-- A slot is freed, its waits end with WRONG_STATE, and its close answers OK with the position counter. -/
def closeNow (via : Carrier) (pkt : Packet) (n : Nat) (s : State) : State :=
  let r := closeResult (s.ev9.slot n)
  let s := finish (fun d => d.work == .streamOpen n || Deferred.waitsOn [n] d) (fun _ => stWrongState) (fun _ => []) s
  answer via pkt stOk r (freeSlot n s)

/-- STREAM_CLOSE. -/
def execStreamClose (via : Carrier) (pkt : Packet) (s : State) : Host.Outcome State Fault Refusal :=
  servePacket via pkt (runtimeRule (pkt.op == 0x23) via [(8, 2)] true []) (onOwnSlot via pkt fun n s =>
    let g := s.ev9.slot n
    if s.ev9.slotClosing n then closeNow via pkt n s
    else match g.state with
      | .bound =>
        deferEv9 via pkt (.streamClose n) (s.ev9.slotMask n) [] (onEv9 (Ev9.onSlot n fun g => { g with state := .releasing })) s
      | .releasing => answer via pkt stPending [] s
      | _ => closeNow via pkt n s) s

/-! ## Copies (R318, R329–R332) -/

/-- The partition of a copy's range, if the range lies in the scratch of one partition or in the tier window of one of its cores
that is not retired (R330, R485). -/
def Ev9.copyPart (e : Ev9) (a len : Nat) : Option Nat :=
  if 2 ^ 40 ≤ a + len - 1 then none
  else match placeOf a, placeOf (a + len - 1) with
    | .tier c o, .tier k q => if c = k ∧ tierHas o = true ∧ tierHas q = true ∧ e.retired c = false then some (c / 8) else none
    | .scratch c _, .scratch k _ => if c / 2 = k / 2 then some (c / 2) else none
    | _, _ => none

/-- The range overlaps an active seal range (R332). -/
def Ev9.overlapsSeal (e : Ev9) (a len : Nat) : Bool :=
  (upFrom (a / 65536) ((a + len - 1) / 65536 + 1 - a / 65536)).any fun u => e.sealed (65536 * u)

/-- The parameters of a copy. -/
def copyParams (pkt : Packet) : Bool :=
  let n := pkt.field 24 8
  pkt.field 8 8 % 64 == 0 && pkt.field 16 8 % 64 == 0 && n % 64 == 0 && decide (64 ≤ n) && decide (n ≤ 0x10000000)

/-- A copy starts, unless its partition is being shut down or a seal forbids it. A COPY_IN reads host memory as the function that owns
the ring (R300). -/
def startCopy (via : Carrier) (pkt : Packet) (inward : Bool) (s : State) : State :=
  let a := pkt.field 8 8
  let n := pkt.field 24 8
  let p := (s.ev9.copyPart a n).getD 0
  let st := (s.ev9.part p).state
  if st == .draining || st == .fenced then answer via pkt stWrongState [] s
  else if inward && s.ev9.overlapsSeal a n then answer via pkt stNotPermitted [] s
  else
    let iova : Dword := BitVec.ofNat 64 (pkt.field 16 8)
    let w : Work := if inward then .copyIn (BitVec.ofNat 40 a) iova n else .copyOut (BitVec.ofNat 40 a) iova n
    deferEv9 via pkt w (BitVec.ofNat 8 (2 ^ p)) []
      (fun s => if inward then emit (.fetchCopy (carrierTenant via + 1) iova n) s else s) s

/-- What a copy packet demands: a range that breaks R330, be it of a partition to which the tenant is not bound, is BAD_PARAM. -/
def copyRule (op : Nat) (via : Carrier) (pkt : Packet) (s : State) : PacketRule :=
  let p := s.ev9.copyPart (pkt.field 8 8) (pkt.field 24 8)
  runtimeRule (pkt.op == op) via [(8, 24)] (copyParams pkt && p.isSome && s.boundTo via p.toList) p.toList

/-- COPY_IN (R318, R330, R332). -/
def execCopyIn (via : Carrier) (pkt : Packet) (s : State) : Host.Outcome State Fault Refusal :=
  servePacket via pkt (copyRule 0x30 via pkt s) (startCopy via pkt true) s

/-- COPY_OUT (R318, R330). -/
def execCopyOut (via : Carrier) (pkt : Packet) (s : State) : Host.Outcome State Fault Refusal :=
  servePacket via pkt (copyRule 0x31 via pkt s) (startCopy via pkt false) s

/-- COPY_COMPLETE (R318, R329): the transfers of a copy have been made, and it completes. -/
def execCopyComplete (via : Carrier) (tag : BitVec 16) (data : List Byte) (poisoned : List Nat) (s : State) :
    Host.Outcome State Fault Refusal :=
  let mine : Deferred → Bool := fun d => d.via == via && d.tag == tag && match d.work with
    | .copyIn _ _ _ | .copyOut _ _ _ => true
    | _ => false
  match s.ev9.hif.deferred.find? mine with
  | none => stay s
  | some d =>
    let sel : Deferred → Bool := fun x => x == d
    match d.work with
    | .copyIn a _ n =>
      let bad := (List.range (n / 16)).filter fun i => poisoned.contains i
      .next (finish sel (fun _ => if bad.isEmpty then stOk else stFaultMemory) (fun _ => [])
        (countPoisonedTlps bad.length (copyInData a.toNat n (padTo n data) poisoned.contains s)))
    | .copyOut a iova n =>
      let bad := (List.range (n / 16)).any fun i => s.ev9.poisoned (wordOf (a.toNat + 16 * i))
      .next (finish sel (fun _ => if bad then stFaultMemory else stOk) (fun _ => [])
        (copyOutData (carrierTenant via + 1) a.toNat iova.toNat n s))
    | _ => stay s

end Sys2Proof.Machine
end

