-- ==== Sys2Proof/Machine/Dispatch.lean ====
section
/-! DEFINITION. Dispatch.lean: one arm per command, each a call of its meaning. -/

namespace Sys2Proof.Machine

open Sys2Proof

/-- A command's effect on everything but the queue. -/
def exec (i : Instr) (s : State) : Host.Outcome State Fault Refusal :=
  match i with
  | .nop via pkt => Sys2Proof.Machine.execNop via pkt s
  | .fence via pkt => Sys2Proof.Machine.execFence via pkt s
  | .imageLoad via pkt => Sys2Proof.Machine.execImageLoad via pkt s
  | .imageLoadComplete troupe img => Sys2Proof.Machine.execImageLoadComplete troupe img s
  | .imageVerify via pkt => Sys2Proof.Machine.execImageVerify via pkt s
  | .imageStart via pkt => Sys2Proof.Machine.execImageStart via pkt s
  | .imageStop via pkt => Sys2Proof.Machine.execImageStop via pkt s
  | .stepRerun via pkt => Sys2Proof.Machine.execStepRerun via pkt s
  | .streamOpen via pkt => Sys2Proof.Machine.execStreamOpen via pkt s
  | .streamFeed via pkt => Sys2Proof.Machine.execStreamFeed via pkt s
  | .streamCollectBind via pkt => Sys2Proof.Machine.execStreamCollectBind via pkt s
  | .streamCollectWait via pkt => Sys2Proof.Machine.execStreamCollectWait via pkt s
  | .streamClose via pkt => Sys2Proof.Machine.execStreamClose via pkt s
  | .copyIn via pkt => Sys2Proof.Machine.execCopyIn via pkt s
  | .copyOut via pkt => Sys2Proof.Machine.execCopyOut via pkt s
  | .copyComplete via tag data poisoned => Sys2Proof.Machine.execCopyComplete via tag data poisoned s
  | .queryStatus via pkt => Sys2Proof.Machine.execQueryStatus via pkt s
  | .identify via pkt => Sys2Proof.Machine.execIdentify via pkt s
  | .roleChallenge via pkt => Sys2Proof.Machine.execRoleChallenge via pkt s
  | .roleElevate via pkt => Sys2Proof.Machine.execRoleElevate via pkt s
  | .roleDrop via pkt => Sys2Proof.Machine.execRoleDrop via pkt s
  | .setModeStrict via pkt => Sys2Proof.Machine.execSetModeStrict via pkt s
  | .setModeInstallerKey via pkt => Sys2Proof.Machine.execSetModeInstallerKey via pkt s
  | .partitionEnable via pkt => Sys2Proof.Machine.execPartitionEnable via pkt s
  | .partitionDisableDrain via pkt => Sys2Proof.Machine.execPartitionDisableDrain via pkt s
  | .partitionDisableFence via pkt => Sys2Proof.Machine.execPartitionDisableFence via pkt s
  | .partitionQuery via pkt => Sys2Proof.Machine.execPartitionQuery via pkt s
  | .troupeJoin via pkt => Sys2Proof.Machine.execTroupeJoin via pkt s
  | .troupeLeave via pkt => Sys2Proof.Machine.execTroupeLeave via pkt s
  | .linkConfig via pkt => Sys2Proof.Machine.execLinkConfig via pkt s
  | .linkQuery via pkt => Sys2Proof.Machine.execLinkQuery via pkt s
  | .powerCapSet via pkt => Sys2Proof.Machine.execPowerCapSet via pkt s
  | .powerCapSetHostCap via pkt => Sys2Proof.Machine.execPowerCapSetHostCap via pkt s
  | .powerCapSetBudget via pkt => Sys2Proof.Machine.execPowerCapSetBudget via pkt s
  | .powerCapSetShed via pkt => Sys2Proof.Machine.execPowerCapSetShed via pkt s
  | .powerCapSetCeiling via pkt => Sys2Proof.Machine.execPowerCapSetCeiling via pkt s
  | .powerQuery via pkt => Sys2Proof.Machine.execPowerQuery via pkt s
  | .thermalQuery via pkt => Sys2Proof.Machine.execThermalQuery via pkt s
  | .logRead via pkt => Sys2Proof.Machine.execLogRead via pkt s
  | .debugUnlock via pkt => Sys2Proof.Machine.execDebugUnlock via pkt s
  | .fwUpdateBegin via pkt => Sys2Proof.Machine.execFwUpdateBegin via pkt s
  | .fwUpdateData via pkt => Sys2Proof.Machine.execFwUpdateData via pkt s
  | .fwUpdateCommit via pkt => Sys2Proof.Machine.execFwUpdateCommit via pkt s
  | .fwUpdateAbort via pkt => Sys2Proof.Machine.execFwUpdateAbort via pkt s
  | .fwUpdateImage via pkt => Sys2Proof.Machine.execFwUpdateImage via pkt s
  | .fwUpdateComplete chip verdict => Sys2Proof.Machine.execFwUpdateComplete chip verdict s
  | .slotPowerOn via pkt => Sys2Proof.Machine.execSlotPowerOn via pkt s
  | .slotPowerOff via pkt => Sys2Proof.Machine.execSlotPowerOff via pkt s
  | .slotPowerWithdraw via pkt => Sys2Proof.Machine.execSlotPowerWithdraw via pkt s
  | .slotSwap via pkt => Sys2Proof.Machine.execSlotSwap via pkt s
  | .lampSet via pkt => Sys2Proof.Machine.execLampSet via pkt s
  | .locate via pkt => Sys2Proof.Machine.execLocate via pkt s
  | .locateExpiry which => Sys2Proof.Machine.execLocateExpiry which s
  | .coolantQuery via pkt => Sys2Proof.Machine.execCoolantQuery via pkt s
  | .controlNop c t w => Sys2Proof.Machine.execControlNop c t w s
  | .halt c t w => Sys2Proof.Machine.execHalt c t w s
  | .add c t w => Sys2Proof.Machine.execAdd c t w s
  | .sub c t w => Sys2Proof.Machine.execSub c t w s
  | .mul c t w => Sys2Proof.Machine.execMul c t w s
  | .and c t w => Sys2Proof.Machine.execAnd c t w s
  | .or c t w => Sys2Proof.Machine.execOr c t w s
  | .xor c t w => Sys2Proof.Machine.execXor c t w s
  | .shl c t w => Sys2Proof.Machine.execShl c t w s
  | .shr c t w => Sys2Proof.Machine.execShr c t w s
  | .sra c t w => Sys2Proof.Machine.execSra c t w s
  | .min c t w => Sys2Proof.Machine.execMin c t w s
  | .max c t w => Sys2Proof.Machine.execMax c t w s
  | .movhi c t w => Sys2Proof.Machine.execMovhi c t w s
  | .cmp c t w => Sys2Proof.Machine.execCmp c t w s
  | .plog c t w => Sys2Proof.Machine.execPlog c t w s
  | .sel c t w => Sys2Proof.Machine.execSel c t w s
  | .mova c t w => Sys2Proof.Machine.execMova c t w s
  | .adda c t w => Sys2Proof.Machine.execAdda c t w s
  | .rda c t w => Sys2Proof.Machine.execRda c t w s
  | .ld c t w => Sys2Proof.Machine.execLd c t w s
  | .st c t w => Sys2Proof.Machine.execSt c t w s
  | .satom c t w => Sys2Proof.Machine.execSatom c t w s
  | .br c t w => Sys2Proof.Machine.execBr c t w s
  | .loop c t w => Sys2Proof.Machine.execLoop c t w s
  | .signal c t w => Sys2Proof.Machine.execSignal c t w s
  | .wait c t w => Sys2Proof.Machine.execWait c t w s
  | .expect c t w => Sys2Proof.Machine.execExpect c t w s
  | .timer c t w => Sys2Proof.Machine.execTimer c t w s
  | .rdac c t w => Sys2Proof.Machine.execRdac c t w s
  | .dset c t w => Sys2Proof.Machine.execDset c t w s
  | .lset c t w => Sys2Proof.Machine.execLset c t w s
  | .dget c t w => Sys2Proof.Machine.execDget c t w s
  | .setvl c t w => Sys2Proof.Machine.execSetvl c t w s
  | .rdsys c t w => Sys2Proof.Machine.execRdsys c t w s
  | .mm c t w => Sys2Proof.Machine.execMm c t w s
  | .mdrain c t w => Sys2Proof.Machine.execMdrain c t w s
  | .mclear c t w => Sys2Proof.Machine.execMclear c t w s
  | .mvCopy c t w => Sys2Proof.Machine.execMvCopy c t w s
  | .mvRed c t w => Sys2Proof.Machine.execMvRed c t w s
  | .mvSend c t w => Sys2Proof.Machine.execMvSend c t w s
  | .mvFill c t w => Sys2Proof.Machine.execMvFill c t w s
  | .ballast c t w => Sys2Proof.Machine.execBallast c t w s
  | .engineFence c t w => Sys2Proof.Machine.execEngineFence c t w s
  | .sync c t w => Sys2Proof.Machine.execSync c t w s
  | .vld c t w => Sys2Proof.Machine.execVld c t w s
  | .vst c t w => Sys2Proof.Machine.execVst c t w s
  | .vred c t w => Sys2Proof.Machine.execVred c t w s
  | .vrdacc c t w => Sys2Proof.Machine.execVrdacc c t w s
  | .vwracc c t w => Sys2Proof.Machine.execVwracc c t w s
  | .vadd c t w => Sys2Proof.Machine.execVadd c t w s
  | .vsub c t w => Sys2Proof.Machine.execVsub c t w s
  | .vmul c t w => Sys2Proof.Machine.execVmul c t w s
  | .vfma c t w => Sys2Proof.Machine.execVfma c t w s
  | .vmax c t w => Sys2Proof.Machine.execVmax c t w s
  | .vmin c t w => Sys2Proof.Machine.execVmin c t w s
  | .vlog c t w => Sys2Proof.Machine.execVlog c t w s
  | .vfn c t w => Sys2Proof.Machine.execVfn c t w s
  | .vcvt c t w => Sys2Proof.Machine.execVcvt c t w s
  | .vmov c t w => Sys2Proof.Machine.execVmov c t w s
  | .vidx c t w => Sys2Proof.Machine.execVidx c t w s
  | .vreduce c t w => Sys2Proof.Machine.execVreduce c t w s
  | .vcmp c t w => Sys2Proof.Machine.execVcmp c t w s
  | .vmlog c t w => Sys2Proof.Machine.execVmlog c t w s
  | .matrixTileStart c => Sys2Proof.Machine.execMatrixTileStart c s
  | .matrixTileEnd c => Sys2Proof.Machine.execMatrixTileEnd c s
  | .drainStart c h => Sys2Proof.Machine.execDrainStart c h s
  | .drainCompare c h => Sys2Proof.Machine.execDrainCompare c h s
  | .retryCurlFreeze c => Sys2Proof.Machine.execRetryCurlFreeze c s
  | .abftRetryReplay c => Sys2Proof.Machine.execAbftRetryReplay c s
  | .abftInjectArm path c value => Sys2Proof.Machine.execAbftInjectArm path c value s
  | .moverIterationStart c => Sys2Proof.Machine.execMoverIterationStart c s
  | .moverIterationComplete c => Sys2Proof.Machine.execMoverIterationComplete c s
  | .flitArrivalWrite c port hdr payload => Sys2Proof.Machine.execFlitArrivalWrite c port hdr payload s
  | .vectorInsnStart c => Sys2Proof.Machine.execVectorInsnStart c s
  | .vectorPass c => Sys2Proof.Machine.execVectorPass c s
  | .vectorInsnComplete c => Sys2Proof.Machine.execVectorInsnComplete c s
  | .fenceComplete c => Sys2Proof.Machine.execFenceComplete c s
  | .asuLineAccess c e r line kind ecc => Sys2Proof.Machine.execAsuLineAccess c e r line kind ecc s
  | .timerExpiry c k => Sys2Proof.Machine.execTimerExpiry c k s
  | .waitlock c => Sys2Proof.Machine.execWaitlock c s
  | .waitstall c t => Sys2Proof.Machine.execWaitstall c t s
  | .dueCheck p item present => Sys2Proof.Machine.execDueCheck p item present s
  | .curlFreeze p => Sys2Proof.Machine.execCurlFreeze p s
  | .itemArrival p item due tag => Sys2Proof.Machine.execItemArrival p item due tag s
  | .curlResume p beats => Sys2Proof.Machine.execCurlResume p beats s
  | .curlTimeout p => Sys2Proof.Machine.execCurlTimeout p s
  | .creditCurl p of vc => Sys2Proof.Machine.execCreditCurl p of vc s
  | .cueWaitCurl troupe => Sys2Proof.Machine.execCueWaitCurl troupe s
  | .droopChange isl mv => Sys2Proof.Machine.execDroopChange isl mv s
  | .droopStopEnd p => Sys2Proof.Machine.execDroopStopEnd p s
  | .trclkLoss => Sys2Proof.Machine.execTrclkLoss s
  | .trclkReturn => Sys2Proof.Machine.execTrclkReturn s
  | .glideComplete p => Sys2Proof.Machine.execGlideComplete p s
  | .curlClear path p value => Sys2Proof.Machine.execCurlClear path p value s
  | .curlLimitWrite path value => Sys2Proof.Machine.execCurlLimitWrite path value s
  | .counterHalfRead path offset => Sys2Proof.Machine.execCounterHalfRead path offset s
  | .stepEnd troupe => Sys2Proof.Machine.execStepEnd troupe s
  | .cueArrival port cue corrected => Sys2Proof.Machine.execCueArrival port cue corrected s
  | .readyReceive port troupe position pace => Sys2Proof.Machine.execReadyReceive port troupe position pace s
  | .paceRequestReceive port troupe position pace brake stepNo => Sys2Proof.Machine.execPaceRequestReceive port troupe position pace brake stepNo s
  | .prepareNoticeReceive port troupe pace stepNo => Sys2Proof.Machine.execPrepareNoticeReceive port troupe pace stepNo s
  | .prepareExpiry troupe => Sys2Proof.Machine.execPrepareExpiry troupe s
  | .stopForwardReceive port troupe position => Sys2Proof.Machine.execStopForwardReceive port troupe position s
  | .admitCountReceive port troupe position count => Sys2Proof.Machine.execAdmitCountReceive port troupe position count s
  | .unknownControlMessage port type => Sys2Proof.Machine.execUnknownControlMessage port type s
  | .admissionCut troupe => Sys2Proof.Machine.execAdmissionCut troupe s
  | .feedFetchComplete troupe lane record => Sys2Proof.Machine.execFeedFetchComplete troupe lane record s
  | .refreshStart c ch bank => Sys2Proof.Machine.execRefreshStart c ch bank s
  | .forcedRefresh c ch bank => Sys2Proof.Machine.execForcedRefresh c ch bank s
  | .refreshComplete c ch bank ecc => Sys2Proof.Machine.execRefreshComplete c ch bank ecc s
  | .carouselWindowStart c => Sys2Proof.Machine.execCarouselWindowStart c s
  | .bandFall => Sys2Proof.Machine.execBandFall s
  | .bandFloorWrite path value => Sys2Proof.Machine.execBandFloorWrite path value s
  | .bar2Read offset len ecc => Sys2Proof.Machine.execBar2Read offset len ecc s
  | .bar2Write offset data => Sys2Proof.Machine.execBar2Write offset data s
  | .flitArrival port hdr payload => Sys2Proof.Machine.execFlitArrival port hdr payload s
  | .creditReturnReceive port vc n => Sys2Proof.Machine.execCreditReturnReceive port vc n s
  | .snlCfgWrite path port value => Sys2Proof.Machine.execSnlCfgWrite path port value s
  | .snlCfgRetrain path port => Sys2Proof.Machine.execSnlCfgRetrain path port s
  | .laneSignalChange port sig => Sys2Proof.Machine.execLaneSignalChange port sig s
  | .trainingComplete port r => Sys2Proof.Machine.execTrainingComplete port r s
  | .trainingFail port => Sys2Proof.Machine.execTrainingFail port s
  | .identityReceive port id => Sys2Proof.Machine.execIdentityReceive port id s
  | .troupeJoinTimeout troupe => Sys2Proof.Machine.execTroupeJoinTimeout troupe s
  | .codewordUncorrectable port codeword => Sys2Proof.Machine.execCodewordUncorrectable port codeword s
  | .replayRequestReceive port => Sys2Proof.Machine.execReplayRequestReceive port s
  | .sleepReqReceive port ls => Sys2Proof.Machine.execSleepReqReceive port ls s
  | .sleepAckReceive port => Sys2Proof.Machine.execSleepAckReceive port s
  | .sleepNakReceive port => Sys2Proof.Machine.execSleepNakReceive port s
  | .sleepCancelReceive port => Sys2Proof.Machine.execSleepCancelReceive port s
  | .wakeSignalReceive port => Sys2Proof.Machine.execWakeSignalReceive port s
  | .autoSleepIdle port => Sys2Proof.Machine.execAutoSleepIdle port s
  | .snlPmReqLs1 path port => Sys2Proof.Machine.execSnlPmReqLs1 path port s
  | .snlPmReqLs2 path port => Sys2Proof.Machine.execSnlPmReqLs2 path port s
  | .snlPmWake path port => Sys2Proof.Machine.execSnlPmWake path port s
  | .wakeComplete port laneFailed waited => Sys2Proof.Machine.execWakeComplete port laneFailed waited s
  | .doorbell path ring tail entries => Sys2Proof.Machine.execDoorbell path ring tail entries s
  | .cqHeadWrite path ring value => Sys2Proof.Machine.execCqHeadWrite path ring value s
  | .ringEnable path ring value => Sys2Proof.Machine.execRingEnable path ring value s
  | .ringDisable path ring value => Sys2Proof.Machine.execRingDisable path ring value s
  | .functionLevelReset f => Sys2Proof.Machine.execFunctionLevelReset f s
  | .hostReset => Sys2Proof.Machine.execHostReset s
  | .perstNRelease => Sys2Proof.Machine.execPerstNRelease s
  | .vfEnable num => Sys2Proof.Machine.execVfEnable num s
  | .vfDisable => Sys2Proof.Machine.execVfDisable s
  | .enableComplete p => Sys2Proof.Machine.execEnableComplete p s
  | .drainComplete p => Sys2Proof.Machine.execDrainComplete p s
  | .drainTimeout p => Sys2Proof.Machine.execDrainTimeout p s
  | .fenceTakesEffect p lost spent => Sys2Proof.Machine.execFenceTakesEffect p lost spent s
  | .fenceResetComplete p => Sys2Proof.Machine.execFenceResetComplete p s
  | .partitionStuck p => Sys2Proof.Machine.execPartitionStuck p s
  | .railPoll rails => Sys2Proof.Machine.execRailPoll rails s
  | .governorEvaluation => Sys2Proof.Machine.execGovernorEvaluation s
  | .flatWindowEnd => Sys2Proof.Machine.execFlatWindowEnd s
  | .brakePin => Sys2Proof.Machine.execBrakePin s
  | .brakePinRelease => Sys2Proof.Machine.execBrakePinRelease s
  | .thermalBrakeRelease => Sys2Proof.Machine.execThermalBrakeRelease s
  | .thermalSample readings => Sys2Proof.Machine.execThermalSample readings s
  | .vddCoreRiseReached => Sys2Proof.Machine.execVddCoreRiseReached s
  | .vauxPowerUp addr vsel => Sys2Proof.Machine.execVauxPowerUp addr vsel s
  | .inrushStart n busMv => Sys2Proof.Machine.execInrushStart n busMv s
  | .powerGood n => Sys2Proof.Machine.execPowerGood n s
  | .inrushTimeout n => Sys2Proof.Machine.execInrushTimeout n s
  | .slotResetRelease n => Sys2Proof.Machine.execSlotResetRelease n s
  | .dischargeComplete n => Sys2Proof.Machine.execDischargeComplete n s
  | .dischargeFail n => Sys2Proof.Machine.execDischargeFail n s
  | .busSag busMv => Sys2Proof.Machine.execBusSag busMv s
  | .busRecover busMv => Sys2Proof.Machine.execBusRecover busMv s
  | .busUndervoltage busMv => Sys2Proof.Machine.execBusUndervoltage busMv s
  | .retryTimerExpiry n busMv => Sys2Proof.Machine.execRetryTimerExpiry n busMv s
  | .shortTrip n peak didt => Sys2Proof.Machine.execShortTrip n peak didt s
  | .breakerTrip n => Sys2Proof.Machine.execBreakerTrip n s
  | .reversedOutput n => Sys2Proof.Machine.execReversedOutput n s
  | .reverseCleared n => Sys2Proof.Machine.execReverseCleared n s
  | .surpriseRemoval n => Sys2Proof.Machine.execSurpriseRemoval n s
  | .removalLatchClear n => Sys2Proof.Machine.execRemovalLatchClear n s
  | .openDetect n => Sys2Proof.Machine.execOpenDetect n s
  | .feedReversed => Sys2Proof.Machine.execFeedReversed s
  | .slotAlert n report => Sys2Proof.Machine.execSlotAlert n report s
  | .alertReplyTimeout n milliamps => Sys2Proof.Machine.execAlertReplyTimeout n milliamps s
  | .coolantSample r => Sys2Proof.Machine.execCoolantSample r s
  | .flowReversalFinding => Sys2Proof.Machine.execFlowReversalFinding s
  | .leakDetect => Sys2Proof.Machine.execLeakDetect s
  | .coolantLatchDelay => Sys2Proof.Machine.execCoolantLatchDelay s
  | .coolantEmergencyEnd => Sys2Proof.Machine.execCoolantEmergencyEnd s
  | .pumpFault => Sys2Proof.Machine.execPumpFault s
  | .fanFault f => Sys2Proof.Machine.execFanFault f s
  | .lampCheck l finding => Sys2Proof.Machine.execLampCheck l finding s
  | .watchdogKick path => Sys2Proof.Machine.execWatchdogKick path s
  | .watchdogExpiry => Sys2Proof.Machine.execWatchdogExpiry s
  | .adopt path => Sys2Proof.Machine.execAdopt path s
  | .autonomousEntry => Sys2Proof.Machine.execAutonomousEntry s
  | .slotIsolateWrite path n value => Sys2Proof.Machine.execSlotIsolateWrite path n value s
  | .capReplyTimeout n => Sys2Proof.Machine.execCapReplyTimeout n s
  | .shedBrakeRelease n watts => Sys2Proof.Machine.execShedBrakeRelease n watts s
  | .swapPoll n present states => Sys2Proof.Machine.execSwapPoll n present states s
  | .swapStage1Timeout n => Sys2Proof.Machine.execSwapStage1Timeout n s
  | .slotIdentifyPoll n reply => Sys2Proof.Machine.execSlotIdentifyPoll n reply s
  | .selfCheckTimeout n => Sys2Proof.Machine.execSelfCheckTimeout n s
  | .smbusReplyFetch port => Sys2Proof.Machine.execSmbusReplyFetch port s
  | .smbusReplyReread port => Sys2Proof.Machine.execSmbusReplyReread port s
  | .registerWrite path offset wide value => Sys2Proof.Machine.execRegisterWrite path offset wide value s
  | .hostNotifyReceive n word entries => Sys2Proof.Machine.execHostNotifyReceive n word entries s
  | .hostNotifyRepeat port => Sys2Proof.Machine.execHostNotifyRepeat port s
  | .sclLowTimeout port => Sys2Proof.Machine.execSclLowTimeout port s
  | .sdaLowTimeout port => Sys2Proof.Machine.execSdaLowTimeout port s
  | .stretchTimeout port => Sys2Proof.Machine.execStretchTimeout port s
  | .arbitrationLoss port addressed => Sys2Proof.Machine.execArbitrationLoss port addressed s
  | .recoveryRung n f => Sys2Proof.Machine.execRecoveryRung n f s
  | .sessionTimeout sid => Sys2Proof.Machine.execSessionTimeout sid s
  | .lockoutEnd sid => Sys2Proof.Machine.execLockoutEnd sid s
  | .nonceExpiry sid => Sys2Proof.Machine.execNonceExpiry sid s
  | .tapReset chip => Sys2Proof.Machine.execTapReset chip s
  | .extest chip data => Sys2Proof.Machine.execExtest chip data s
  | .idcode chip => Sys2Proof.Machine.execIdcode chip s
  | .samplePreload chip data => Sys2Proof.Machine.execSamplePreload chip data s
  | .clamp chip => Sys2Proof.Machine.execClamp chip s
  | .highz chip => Sys2Proof.Machine.execHighz chip s
  | .extestPulse chip data => Sys2Proof.Machine.execExtestPulse chip data s
  | .extestTrain chip data => Sys2Proof.Machine.execExtestTrain chip data s
  | .bypass chip => Sys2Proof.Machine.execBypass chip s
  | .dbgSelect value => Sys2Proof.Machine.execDbgSelect value s
  | .dbgObsSelWrite path n value => Sys2Proof.Machine.execDbgObsSelWrite path n value s
  | .holdPeekWrite path n value => Sys2Proof.Machine.execHoldPeekWrite path n value s
  | .factoryNChange chip high => Sys2Proof.Machine.execFactoryNChange chip high s
  | .vddIoLoss => Sys2Proof.Machine.execVddIoLoss s
  | .powerOnReset => Sys2Proof.Machine.execPowerOnReset s
  | .chipReset => Sys2Proof.Machine.execChipReset s
  | .serviceWatchdogExpiry => Sys2Proof.Machine.execServiceWatchdogExpiry s
  | .bootStart slotId => Sys2Proof.Machine.execBootStart slotId s
  | .firmwareSelect first second => Sys2Proof.Machine.execFirmwareSelect first second s
  | .railUp => Sys2Proof.Machine.execRailUp s
  | .edgeFllLock => Sys2Proof.Machine.execEdgeFllLock s
  | .tierSelfTestComplete findings => Sys2Proof.Machine.execTierSelfTestComplete findings s
  | .ballastComplete c e => Sys2Proof.Machine.execBallastComplete c e s
  | .carouselWindowEnd c => Sys2Proof.Machine.execCarouselWindowEnd c s
  | .railStartFail => Sys2Proof.Machine.execRailStartFail s
  | .pcieLinkUp rate width reversed => Sys2Proof.Machine.execPcieLinkUp rate width reversed s
  | .vddStbyRemoved => Sys2Proof.Machine.execVddStbyRemoved s
  | .feedReversedClear => Sys2Proof.Machine.execFeedReversedClear s
  | .openFlagClear n => Sys2Proof.Machine.execOpenFlagClear n s
  | .nw8FirmwareRunning => Sys2Proof.Machine.execNw8FirmwareRunning s

end Sys2Proof.Machine
end

