-- ==== Sys2Proof/Machine/Idle.lean ====
section
/-! DEFINITION. Idle.lean: the tick of an empty queue (log 1): one beat. The edge moves on, every partition that takes schedule beats
counts one, and what waits or is frozen has waited one beat longer. -/

namespace Sys2Proof.Machine

open Sys2Proof

/-- A timer counts down; its expiry is TIMER_EXPIRY. -/
def Timer.tick (t : Timer) : Timer := if t.armed then { t with beats := t.beats - BitVec.ofNat 32 (min 1 t.beats.toNat) } else t

/-- A waiting thread counts its beats (R144); a branch's gap and pending results come nearer (R192). -/
def Thread.tick (t : Thread) : Thread :=
  { t with waitBeats := if t.regs.state = .waiting then satAdd t.waitBeats 1 else t.waitBeats
           gap := t.gap - 1
           pend := (t.pend.map fun e => (e.1, e.2 - 1)).filter fun e => e.2 != 0 }

/-- One schedule beat of a core: the waits that this beat's additions let proceed, then timers, waits and the issue port (R121, R139,
R144, R151). -/
def Core.tick (x : Core) : Core :=
  let x := x.resolveWaits
  let x := (List.range 4).foldl (fun x t => x.onThread t Thread.tick) x
  { x with timers := x.timers.map fun e => (e.1, e.2.tick), portBusy := x.portBusy - 1 }

/-- The beats for which the waitlock condition has held (R143). -/
def Core.countLock (lock : Bool) (x : Core) : Core := { x with lockBeats := if lock then x.lockBeats + 1 else 0 }

/-- An island's clock in one beat of the edge: stretched by its droop, stopped above 60 mV, and a whole beat of it lost when the
stretching has cost one (R51, R53). -/
def Isl.tick (strict running : Bool) (x : Isl) : Isl :=
  if strict then { x with lost := if running then x.lost else x.lost + 45, skipped := if running then x.skipped else x.skipped + 1 }
  else if x.deep then { x with lost := x.lost + 45, skipped := x.skipped + 1 }
  else if 45 * (x.skipped + 1) ≤ x.lost then { x with skipped := x.skipped + 1 }
  else if 15 ≤ x.mv ∧ x.mv ≤ 60 then { x with lost := x.lost + (x.mv - 15) }
  else x

/-- The island takes its beat now: it is not stopped and owes none to stretching. -/
def Isl.runs (strict : Bool) (x : Isl) : Bool := strict || !(x.deep || decide (45 * (x.skipped + 1) ≤ x.lost))

/-- Core `c`'s island takes a schedule beat. -/
def tickCore (c : Nat) (s : State) : State :=
  if s.ev9.coreLive c && ((s.ev9.part (partOf c)).island (c % 8)).runs s.ev9.chip.strict then
    let s := onCore c Core.tick (tickArray c s)
    onCore c (Core.countLock (s.ev9.lockCond c)) s
  else s

/-- The islands of a group whose clocks run count a beat each, in a curl too (R59, R371); a strict droop stop stops them all. -/
def Part.islandsTick (strict : Bool) (x : Part) : Part :=
  let running := !(x.curl.causes.contains .droop)
  let n := ((List.range 10).filter fun i => running && (x.island i).runs strict).length
  { x with clk := { x.clk with
             isl := (List.range 10).foldl (fun t i => tmod {} t i fun y =>
               { y.tick strict running with ticks := if running && y.runs strict then y.ticks + 1 else y.ticks }) x.clk.isl
             droopOver := if x.curl.causes.contains .droop && (List.range 10).all (fun i => decide ((x.island i).mv < 25))
               then x.clk.droopOver + 1 else 0 }
           activity := tmod 0 x.activity 11 fun a => a + 15 * n }

/-- One schedule beat of a partition (R46). -/
def Part.tick (x : Part) : Part :=
  { x with clk := { x.clk with stepBeat := satAdd x.clk.stepBeat 1, beatCount := satAdd x.clk.beatCount 1 } }

/-- A curl lasts on; the beats since its last cause cleared count towards the 16 of R60. -/
def Curl.tick (c : Curl) : Curl :=
  if c.curled && !c.held then { c with lasted := c.lasted + 1, clearFor := if c.cleared then c.clearFor + 1 else 0 } else c

/-- Some row of bank `b` passes its retention window between two refresh times; the row that the rotation refreshes next is the
oldest (R93, R111). -/
def Bank.passes (w before now : Nat) (b : Bank) : Bool :=
  let t := tget 0 b.last b.row + w
  decide (before ≤ t) && decide (t < now)

/-- One beat of the rows of a partition, which age in every state of it: a row that goes beyond its band's window is overdue (R91,
R94, R111). -/
def tickRows (p : Nat) (s : State) : State :=
  let x := s.ev9.part p
  let before := x.tier.clock
  let now := before + refreshStep x.clk.pace.val
  let w := retention s.ev9.therm.band.toNat
  let s := onPart p (fun x => { x with tier := { x.tier with clock := now } }) s
  if decide (w < now) && (coresOf p).any (fun c => !s.ev9.retired c
      && (upFrom (64 * c) 64).any fun i => (tget {} s.ev9.banks i).passes w before now) then
    onPart p (fun x => { x with tier := { x.tier with overdue := true } })
      (noteSet (offTierStatus p) 4 (s.ev9.part p).tier.overdue s)
  else s

/-- An open carousel window goes on in a curl too (R59, R95, R113, log 55). -/
def tickWindows (p : Nat) (s : State) : State :=
  (coresOf p).foldl (fun s c =>
    if (s.ev9.core c).window then onCore c (fun x => { x with windowLeft := x.windowLeft - 1 }) s else s) s

/-- One beat of partition `p`. -/
def tickPart (p : Nat) (s : State) : State :=
  if !s.ev9.up then s
  else if !(s.ev9.part p).runs then tickRows p s
  else
    let s := tickWindows p (tickRows p s)
    let s := if s.ev9.live p then onPart p Part.tick ((coresOf p).foldl (fun s c => tickCore c s) s) else s
    onPart p (fun x => onCurl Curl.tick (x.islandsTick s.ev9.chip.strict)) s

/-- A member that stands at its step boundary without its cue has waited one beat longer (R28, R62). -/
def tickMember (t : Nat) (s : State) : State :=
  match s.ev9.member? t with
  | none => s
  | some m =>
    if m.run == .running && !m.inStep && m.position != 0 && m.cueDue.isNone
        && m.parts.all (fun p => (s.ev9.part p).runs && !(s.ev9.part p).curl.held && !(s.ev9.part p).stopped) then
      onMember t (fun m => { m with waited := m.waited + 1 }) s
    else s

/-- The tick of an empty queue: what an event of this beat set can be cleared from now on (R9). The edge's clock runs on after
THERMTRIP_N (R531). -/
def idle (s : State) : State :=
  let s := if s.ev9.up then scrBeat (fabricBeat s)
    else if s.ev9.svc.boot == .complete then onNoc (fun x => { x with edgeBeat := x.edgeBeat + 1 }) s else s
  let s := (s.ev9.members.map (·.1)).foldl (fun s t => tickMember t s) s
  let s := (List.range 8).foldl (fun s p => tickPart p s) s
  { settleCredits s with w1cNow := [], pulses := [] }

end Sys2Proof.Machine
end

