-- ==== Sys2Proof/Safety.lean ====
section
/-! DEFINITION. Safety.lean: the words in which the statements speak: that a command answers a next state, the invariant that
every step keeps, which chip a command acts on, and what an instruction of a thread leaves unchanged. -/

namespace Sys2Proof.Machine

open Sys2Proof

/-- The command answers a next state, and that state meets `P`. -/
def Runs (i : Instr) (s : State) (P : State → Prop) : Prop := ∃ t, exec i s = .next t ∧ P t

/-! ## The invariant -/

/-- The fault ring holds entries 0–255 (R493), and the audit log at most 1,024 entries (R454). -/
def Svc.inv (v : Svc) : Bool :=
  twf FaultRec.blank v.faults && (v.faults.all fun x => decide (x.1 < 256)) && decide (v.audit.length ≤ 1024)

/-- Host memory keeps its canonical form, and the commands that await a final reply came over carriers of the EV9 (R312). -/
def Hif.inv (h : Hif) : Bool := Memory.wf h.hostMem && h.deferred.all fun d => d.via.onEv9

/-- The invariant of the EV9: its memory keeps its canonical form too. -/
def Ev9.inv (e : Ev9) : Bool := Memory.wf e.mem && e.hif.inv && e.svc.inv

/-- The invariant of the NW8: its log holds at most 8,192 entries, its place in the ring is one of them (R455), and the commands that
await a final reply came over its own ports. -/
def Nw8.inv (w : Nw8) : Bool :=
  decide (w.audit.length ≤ 8192) && decide (w.logPos < 8192) && w.deferred.all fun d => d.via.isNw8

/-- The invariant of the platform. -/
def State.inv (s : State) : Bool := s.ev9.inv && s.nw8.inv

end Sys2Proof.Machine

namespace Sys2Proof

open Sys2Proof.Machine

/-! ## Which chip a command acts on -/

/-- The path of a command that is a register write. -/
def Instr.path? : Instr → Option RegPath
  | .abftInjectArm p _ _ | .curlClear p _ _ | .curlLimitWrite p _ | .counterHalfRead p _ | .bandFloorWrite p _
  | .snlCfgWrite p _ _ | .snlCfgRetrain p _ | .snlPmReqLs1 p _ | .snlPmReqLs2 p _ | .snlPmWake p _ | .doorbell p _ _ _
  | .cqHeadWrite p _ _ | .ringEnable p _ _ | .ringDisable p _ _ | .watchdogKick p | .adopt p | .slotIsolateWrite p _ _
  | .registerWrite p _ _ _ | .dbgObsSelWrite p _ _ | .holdPeekWrite p _ _ => some p
  | _ => none

/-- The chip of a command that names one. -/
def Instr.chip? : Instr → Option Chip
  | .fwUpdateComplete c _ | .tapReset c | .extest c _ | .idcode c | .samplePreload c _ | .clamp c | .highz c
  | .extestPulse c _ | .extestTrain c _ | .bypass c | .factoryNChange c _ => some c
  | .smbusReplyFetch p | .smbusReplyReread p | .hostNotifyRepeat p | .sclLowTimeout p | .sdaLowTimeout p | .stretchTimeout p
  | .arbitrationLoss p _ => some (match p with
    | .smb0 | .smb1 => .ev9
    | _ => .nw8)
  | .sessionTimeout i | .lockoutEnd i | .nonceExpiry i => some (sessChip i)
  | _ => none

/-- An event of the NW8's own hardware (R396–R425, R434, R436, R484, R495). -/
def Instr.nwEvent : Instr → Bool
  | .locateExpiry _ | .vauxPowerUp _ _ | .inrushStart _ _ | .powerGood _ | .inrushTimeout _ | .slotResetRelease _
  | .dischargeComplete _ | .dischargeFail _ | .busSag _ | .busRecover _ | .busUndervoltage _ | .retryTimerExpiry _ _
  | .shortTrip _ _ _ | .breakerTrip _ | .reversedOutput _ | .reverseCleared _ | .surpriseRemoval _ | .removalLatchClear _
  | .openDetect _ | .feedReversed | .slotAlert _ _ | .alertReplyTimeout _ _ | .coolantSample _ | .flowReversalFinding
  | .leakDetect | .coolantLatchDelay | .coolantEmergencyEnd | .pumpFault | .fanFault _ | .lampCheck _ _ | .watchdogExpiry
  | .autonomousEntry | .capReplyTimeout _ | .shedBrakeRelease _ _ | .swapPoll _ _ _ | .swapStage1Timeout _
  | .slotIdentifyPoll _ _ | .selfCheckTimeout _ | .hostNotifyReceive _ _ _ | .recoveryRung _ _ | .feedReversedClear
  | .openFlagClear _ | .nw8FirmwareRunning => true
  | _ => false

/-- The command is one of the NW8's: a packet on one of its upstream ports, a register write there, an operation of its test
access port, of a two-wire port or of a session of its, or an event of its hardware. -/
def Instr.ofNw8 (i : Instr) : Bool :=
  match i.packet?, i.path?, i.chip? with
  | some (v, _), _, _ => v.isNw8
  | _, some p, _ => p.isNw8
  | _, _, some c => c == .nw8
  | _, _, _ => i.nwEvent

end Sys2Proof

namespace Sys2Proof.Machine

open Sys2Proof

/-! ## The instructions of a thread -/

/-- The control instruction executes: its word passes R190's checks, its thread can issue it, and its guard holds. -/
def Executes (op : Nat) (c : CoreId) (t : ThreadId) (w : Ctl) (s : State) : Prop :=
  ctlOk op w = true ∧ s.issues c t [ctlWord (BitVec.ofNat 8 op) w] = true ∧ guardHolds (s.regs c t) w = true

/-- The engine instruction can be issued, and the queue of each engine it uses has room. -/
def Enqueues (op : Nat) (es : List Engine) (c : CoreId) (t : ThreadId) (w : Eng) (s : State) : Prop :=
  engineOk true op w = true ∧ s.issues c t [engWord0 (BitVec.ofNat 8 op) w, w.w1] = true
    ∧ ∀ e ∈ es, (s.ev9.core c).full e = false

/-- `u` meets `P` but for the W1C events and the pulses that the beat notes (R9, R507). -/
def ButNotes (P : State → Prop) (s u : State) : Prop := P { u with w1cNow := s.w1cNow, pulses := s.pulses }

/-- `u` differs from `s` in core `c` of the EV9 alone. -/
def OnlyCore (c : Nat) (s u : State) : Prop :=
  u = { s with ev9 := { s.ev9 with cores := u.ev9.cores } } ∧ ∀ k, k ≠ c → u.ev9.core k = s.ev9.core k

/-- `u` differs from `s` in partition `p` of the EV9 alone. -/
def OnlyPart (p : Nat) (s u : State) : Prop :=
  u = { s with ev9 := { s.ev9 with parts := u.ev9.parts } } ∧ ∀ q, q ≠ p → u.ev9.part q = s.ev9.part q

/-- `u` differs from `s` in Synsen port `n` alone. -/
def OnlyPort (n : Nat) (s u : State) : Prop :=
  u = { s with ev9 := { s.ev9 with ports := u.ev9.ports } } ∧ ∀ k, k ≠ n → u.ev9.port k = s.ev9.port k

/-- `u` differs from `s` in the member of troupe `t` alone, which is now `m`. -/
def OnlyMember (t : Nat) (m : Member) (s u : State) : Prop :=
  u = { s with ev9 := { s.ev9 with members := u.ev9.members } } ∧ u.ev9.member? t = some m
    ∧ ∀ k, k ≠ t → u.ev9.member? k = s.ev9.member? k

/-- The next fault record of the EV9 names this source, cause and detail words 0 and 1 (R492, R493). -/
def Recorded (source cause : Nat) (d0 : Nat) (s u : State) : Prop :=
  ∃ f, tfind u.ev9.svc.faults (s.ev9.svc.faultSeq.toNat % 256) = some f ∧ f.source.toNat = source ∧ f.cause.toNat = cause
    ∧ f.d0.toNat = d0

/-- The EV9's audit log ends with an entry of this kind, status and opcode or offset (R453). -/
def Audited (kind status what : Nat) (u : State) : Prop :=
  ∃ a, u.ev9.svc.audit.getLast? = some a ∧ a.kind.toNat = kind ∧ a.status.toNat = status ∧ a.what.toNat = what

/-- Core `x` is core `y` with thread `t` replaced by `th`, thread `t` the last to have issued, and the issue port held for the `n` words
of its instruction (R121, R189). -/
def IssuedOn (n : Nat) (t : ThreadId) (x y : Core) (th : Thread) : Prop :=
  x = { y with threads := x.threads, lastIssuer := t, portBusy := n } ∧ (∀ k, k ≠ t.val → x.thread k = y.thread k) ∧ x.thread t = th

/-- A thread whose instruction has issued: its registers are `r` and its stall flag is clear. -/
def Thread.at (th : Thread) (r : ThreadRegs) : Thread := { th with stall := false, regs := r }

/-- Register `dst` of the thread is not ready for `k` beats; 0 beats and g0 make nothing unready (R192). -/
def Thread.late (dst : BitVec 5) (k : Nat) (th : Thread) : Thread :=
  if k = 0 ∨ dst = 0 then th else { th with pend := tins th.pend dst.toNat k }

/-- Thread `t` of core `c` has issued an instruction of `n` words: its registers are `r`, and nothing else has changed. -/
def Issued (n : Nat) (c : CoreId) (t : ThreadId) (s u : State) (r : ThreadRegs) : Prop :=
  OnlyCore c s u ∧ IssuedOn n t (u.ev9.core c) (s.ev9.core c) (((s.ev9.core c).thread t).at r)

/-- The instruction has written `v` to g[i], which is ready `k` beats later, and the thread stands at the next word. g0 takes no write
(R122, R192). -/
def WritesGLate (k : Nat) (c : CoreId) (t : ThreadId) (i : BitVec 5) (v : Dword) (s u : State) : Prop :=
  ∃ r : ThreadRegs, OnlyCore c s u ∧ IssuedOn 1 t (u.ev9.core c) (s.ev9.core c) ((((s.ev9.core c).thread t).at r).late i k)
    ∧ r = { s.regs c t with pc := (s.regs c t).pc + 1, g := r.g }
    ∧ r.gr i = (if i = 0 then 0 else v) ∧ ∀ j, j ≠ i → r.gr j = (s.regs c t).gr j

/-- The instruction has written `v` to g[i], and the thread stands at the next word. g0 takes no write (R122). -/
def WritesG (c : CoreId) (t : ThreadId) (i : BitVec 5) (v : Dword) (s u : State) : Prop :=
  ∃ r : ThreadRegs, Issued 1 c t s u r ∧ r = { s.regs c t with pc := (s.regs c t).pc + 1, g := r.g }
    ∧ r.gr i = (if i = 0 then 0 else v) ∧ ∀ j, j ≠ i → r.gr j = (s.regs c t).gr j

/-- The instruction has written `v` to a[i], and the thread stands at the next word. -/
def WritesA (c : CoreId) (t : ThreadId) (i : BitVec 5) (v : Addr) (s u : State) : Prop :=
  ∃ r : ThreadRegs, Issued 1 c t s u r ∧ r = { s.regs c t with pc := (s.regs c t).pc + 1, a := r.a }
    ∧ r.ar i = v ∧ ∀ j, j ≠ i → r.ar j = (s.regs c t).ar j

/-- The instruction has written `v` to p[i], and the thread stands at the next word. p0 takes no write (R122). -/
def WritesP (c : CoreId) (t : ThreadId) (i : BitVec 5) (v : Bool) (s u : State) : Prop :=
  ∃ r : ThreadRegs, Issued 1 c t s u r ∧ r = { s.regs c t with pc := (s.regs c t).pc + 1, p := r.p }
    ∧ r.pr i.toNat = (if i = 0 then true else v) ∧ ∀ j, j < 8 → j ≠ i.toNat → r.pr j = (s.regs c t).pr j

/-- The instruction has placed entry `q` in the queue of engine `e`, and its thread's registers are `r`. -/
def Enqueued (e : Engine) (c : CoreId) (t : ThreadId) (q : QEntry) (r : ThreadRegs) (s u : State) : Prop :=
  OnlyCore c s u ∧ IssuedOn 2 t (u.ev9.core c)
    { (s.ev9.core c).onQueue e (· ++ [q]) with nextId := (s.ev9.core c).nextId + 1 } (((s.ev9.core c).thread t).at r)

/-- What an engine instruction captures in the beat of its enqueue (R136): the handles that it names, its loop descriptor, the
step, and its place in the program. -/
def captured (op : Nat) (c : CoreId) (t : ThreadId) (w : Eng) (nVec : BitVec 32) (s : State) : QEntry where
  op := BitVec.ofNat 8 op
  w := w
  thread := t
  pc := (s.regs c t).pc
  descD := tget 0 (s.ev9.core c).handles w.d.toNat
  descA := tget 0 (s.ev9.core c).handles w.a.toNat
  descB := tget 0 (s.ev9.core c).handles w.b.toNat
  lp := if w.loop = 0 then 0 else tget 0 (s.ev9.core c).loops w.loop.toNat
  step := (s.ev9.part (partOf c)).clk.step
  nVec := nVec
  id := (s.ev9.core c).nextId

/-- Thread `t` of core `c` stalls: its stall flag is set, and nothing else has changed (R135, R192). -/
def Stalled (c : CoreId) (t : ThreadId) (s u : State) : Prop :=
  OnlyCore c s u ∧ u.ev9.core c = { s.ev9.core c with threads := (u.ev9.core c).threads }
    ∧ (∀ k, k ≠ t.val → (u.ev9.core c).thread k = (s.ev9.core c).thread k)
    ∧ (u.ev9.core c).thread t = { (s.ev9.core c).thread t with stall := true }

/-- The chip's machinery is at rest but for its clocks: no flit is on its way, no array reads, no wait for credit ends. -/
def Ev9.calm (e : Ev9) : Prop :=
  e.noc.bufs = [] ∧ e.sending = [] ∧ (∀ p, p < 8 → e.creditCauses p = []) ∧ ∀ c, (e.core c).fillingRun = none

/-- No COPY_IN that `sel` picks is in progress. -/
def Ev9.noCopyIn (e : Ev9) (sel : Deferred → Bool) : Prop :=
  ∀ d ∈ e.hif.deferred, sel d = true → ∀ a i n, d.work ≠ .copyIn a i n

/-- A bounds fault of core `c` (R148): its active threads are FAULTED, its status bit is set, its partition is held, and the next
fault record names source, core, reason and access. -/
def BoundsFaulted (c : CoreId) (source reason detail line : Nat) (s u : State) : Prop :=
  (u.ev9.core c).bounds = true
    ∧ (∀ k, k < 4 → ((u.ev9.core c).thread k).regs.state ≠ .running ∧ ((u.ev9.core c).thread k).regs.state ≠ .waiting)
    ∧ (u.ev9.part (partOf c)).curl.held = true ∧ (u.ev9.part (partOf c)).curl.curled = true
    ∧ tfind u.ev9.svc.faults (s.ev9.svc.faultSeq.toNat % 256) = some (s.ev9.mkRec
        { source := source, part := some (partOf c), core := c, held := true, cause := 0x0700, d0 := reason, d1 := detail,
          d2 := line % 2 ^ 32, d3 := line / 2 ^ 32 })
    ∧ u.ev9.svc.faultSeq = s.ev9.svc.faultSeq + 1
    ∧ u.ev9.mem = s.ev9.mem ∧ (∀ k, k ≠ c.val → u.ev9.core k = s.ev9.core k) ∧ u.pending = s.pending

/-- `u` differs from `s` in port `n` and in what has left the chip. -/
def OnlyPortOut (n : Nat) (s u : State) : Prop :=
  u = { s with outbox := u.outbox, ev9 := { s.ev9 with ports := u.ev9.ports } } ∧ ∀ k, k ≠ n → u.ev9.port k = s.ev9.port k

/-- `u` differs from `s` in port `n`, in what has left the chip, and in the activity of a session. -/
def OnlyPortReg (n : Nat) (s u : State) : Prop :=
  u = { s with outbox := u.outbox, ev9 := { s.ev9 with ports := u.ev9.ports, sessPf := u.ev9.sessPf, sessSmb := u.ev9.sessSmb } }
    ∧ ∀ k, k ≠ n → u.ev9.port k = s.ev9.port k

/-- `u` differs from `s` in refresh controllers alone. -/
def OnlyBanks (s u : State) : Prop := u = { s with ev9 := { s.ev9 with banks := u.ev9.banks } }

/-- `u` differs from `s` in ring `r`, which is now `g`, in the count of doorbells, and in the activity of a session. -/
def OnlyRing (r : Nat) (g : Ring) (s u : State) : Prop :=
  u = { s with ev9 := { s.ev9 with
      sessPf := u.ev9.sessPf, sessSmb := u.ev9.sessSmb
      hif := { s.ev9.hif with rings := u.ev9.hif.rings, doorbells := u.ev9.hif.doorbells } } }
    ∧ u.ev9.ring r = g ∧ ∀ k, k ≠ r → u.ev9.ring k = s.ev9.ring k

/-- A channel but for what its caps and brakes make of it (R449, R450). -/
def TrayCh.settled (x : TrayCh) : TrayCh :=
  { x with share := 0, effective := 0, source := 0, brakeLow := false, written := 0, capAnswered := true }

/-- `u` differs from `s` in what slots, their downstream ports and the caps make of a channel event: channels, news and outputs, events
recorded in kept mode, and the SLOT_POWER commands that wait. -/
def OnlyTray (s u : State) : Prop :=
  u = { s with outbox := u.outbox, ev9 := s.ev9, nw8 := { s.nw8 with
    chans := u.nw8.chans, host := u.nw8.host, rackPort := u.nw8.rackPort, down := u.nw8.down, busMv := u.nw8.busMv
    feedReversed := u.nw8.feedReversed, cool := u.nw8.cool, deferred := u.nw8.deferred
    hold := { s.nw8.hold with events := u.nw8.hold.events } } }

/-- The same, and channel `n` is `x` but for caps and brakes, while the other channels stand but for theirs. -/
def OnlySlot (n : Nat) (x : TrayCh) (s u : State) : Prop :=
  OnlyTray s u ∧ u.nw8.cool = s.nw8.cool ∧ u.nw8.feedReversed = s.nw8.feedReversed ∧ (u.nw8.chan n).settled = x.settled
    ∧ ∀ k, k ≠ n → (u.nw8.chan k).settled = (s.nw8.chan k).settled

/-- A fault of slot `n` (8: of the leak rope) is told upstream, or recorded where kept mode runs (R415, R421, R434). -/
def Told (n : Nat) (s u : State) : Prop :=
  (s.nw8.acts = true → u.nw8.host.news = true ∧ u.nw8.rackPort.news = true)
    ∧ (s.nw8.hold.kept = true → u.nw8.hold.events = s.nw8.hold.events ++ [(s.nw8.hold.timeMs, n)])

/-- The NW8's log ends with an entry of this kind, status and opcode or offset (R453). -/
def NwAudited (kind status what : Nat) (u : State) : Prop :=
  ∃ a, u.nw8.audit.getLast? = some a ∧ a.kind.toNat = kind ∧ a.status.toNat = status ∧ a.what.toNat = what

/-! ## Packets (R312–R316, R431, R432) -/

/-- The reply has gone to its carrier: into the reply queue of a two-wire port, or into the completion ring, where it is held for want of room
or behind held replies (R309, R313, R432). -/
def Delivered (via : Carrier) (x : Reply) (s u : State) : Prop :=
  match via with
  | .smb0 => u.ev9.smb0.replies = s.ev9.smb0.replies ++ [x]
  | .nwHost => u.nw8.host.replies = s.nw8.host.replies ++ [x]
  | .nwRack => u.nw8.rackPort.replies = s.nw8.rackPort.replies ++ [x]
  | _ =>
    let r := via.ring?.getD 0
    let g := s.ev9.ring r
    if (g.hasRoom && g.heldReplies.isEmpty) = true then
      memReads u.ev9.hif.hostMem (hostKey (ringFunction r) (g.cqBase.toNat * 4096 + 16 * g.cqTail.toNat)) 16 = x.bytes g.phase
        ∧ (u.ev9.ring r).cqTail = BitVec.ofNat 15 (ringNext g.cqOrder g.cqTail.toNat)
    else (u.ev9.ring r).heldReplies = g.heldReplies ++ [x]

/-- The packet is next on its carrier, names the opcode, carries the carrier's check word, and only the given byte ranges are not zero; the chip
is not in recovery. -/
def Good (via : Carrier) (pkt : Packet) (op : Nat) (used : List (Nat × Nat)) (s : State) : Prop :=
  s.packetReady via pkt = true ∧ pkt.op = op ∧ pkt.check = via.checkWord ∧ pkt.reservedOk used = true
    ∧ (via.onEv9 = true → s.ev9.inRecovery = false)

/-- The one reply of a command that completes at once. -/
def Answered (via : Carrier) (pkt : Packet) (status : Byte) (result : List Byte) (s u : State) : Prop :=
  Delivered via { tag := pkt.tag, status := status, final := false, result := result, interrupt := pkt.wantsInterrupt } s u

/-- The carrier has room for one more command that awaits its final reply (R316). -/
def Room (via : Carrier) (s : State) : Prop := via.ring?.isSome = true → (s.ev9.awaiting via).length < 64

/-- The command is answered DEFERRED, and awaits its final reply with the work and the partitions named. -/
def Waits (via : Carrier) (pkt : Packet) (work : Work) (parts : BitVec 8) (result : List Byte) (s u : State) : Prop :=
  Delivered via { tag := pkt.tag, status := 0x01, final := false, result := result } s u
    ∧ u.ev9.hif.deferred = s.ev9.hif.deferred ++ [⟨via, pkt.tag, pkt.wantsInterrupt, work, parts⟩]

/-- `u` differs from `s` in what carriers, sessions, logs and waiting commands hold: the chip's work, memory, registers and slots stand. -/
def OnlyCarriers (s u : State) : Prop :=
  u = { s with
    outbox := u.outbox, fresh := u.fresh,
    ev9 := { s.ev9 with
      hif := { s.ev9.hif with rings := u.ev9.hif.rings, hostMem := u.ev9.hif.hostMem, deferred := u.ev9.hif.deferred },
      svc := { s.ev9.svc with audit := u.ev9.svc.audit, auditSeq := u.ev9.svc.auditSeq, unforwarded := u.ev9.svc.unforwarded,
                              lost := u.ev9.svc.lost, lostToReport := u.ev9.svc.lostToReport },
      sessPf := u.ev9.sessPf, sessSmb := u.ev9.sessSmb, smb0 := u.ev9.smb0 },
    nw8 := { s.nw8 with
      hold := { s.nw8.hold with lastCmd := u.nw8.hold.lastCmd, autonomous := u.nw8.hold.autonomous },
      sessHost := u.nw8.sessHost, sessRack := u.nw8.sessRack, host := u.nw8.host, rackPort := u.nw8.rackPort,
      audit := u.nw8.audit, auditSeq := u.nw8.auditSeq, logPos := u.nw8.logPos, wraps := u.nw8.wraps, deferred := u.nw8.deferred } }

/-- The troupe that bytes 8–9 name has a joined member on this chip whose partitions are ON, and the carrier's tenant is bound to each. -/
def OnTroupe (via : Carrier) (pkt : Packet) (m : Member) (s : State) : Prop :=
  s.ev9.usable pkt.troupe = some m ∧ s.boundTo via m.parts = true

/-- Operand b of a control word (R187). -/
def operandOf (r : ThreadRegs) (w : Ctl) : Dword := if w.mod.getLsbD 4 then w.imm.signExtend 64 else r.gr w.srcb

end Sys2Proof.Machine
end

