-- ==== Sys2Proof/Certificates/Slice0/Obligations.lean ====
section
/-! DEFINITION. Obligations.lean: the statements about the machine that the provers prove. -/

open Sys2Proof Sys2Proof.Machine

/-- A step takes the command at the front of the queue, and its effect is exec's on the state with the queue's rest. -/
def Obligations.StepTakesTheFrontCommand : Prop :=
  ∀ (i : Instr) (q : List Instr) (s : State), step { s with pending := i :: q } = exec i { s with pending := q }

/-- The model's choice (log 1): on an empty queue one beat passes. A partition that takes schedule beats counts one in BEATCOUNT and in its step (R46,
R73); one that is frozen by a curl and not held keeps both, its threads stand, and its curl lasts one beat longer; the edge counts its beat (R46); what
the last beat noted is forgotten. With nothing on its way, nothing changes but partitions, cores, the waits of members and ports, and the network's
clock. -/
def Obligations.EmptyQueuePassesOneBeat : Prop :=
  ∀ s : State, s.pending = [] → s.ev9.calm → s.ev9.scr = [] → ∃ u, step s = .next u
    ∧ u = { s with w1cNow := [], pulses := [], ev9 := { s.ev9 with
        parts := u.ev9.parts, cores := u.ev9.cores, members := u.ev9.members, ports := u.ev9.ports, noc := u.ev9.noc } }
    ∧ (s.ev9.up = true → u.ev9.noc.edgeBeat = s.ev9.noc.edgeBeat + 1)
    ∧ ∀ p, p < 8 →
      (s.ev9.live p = true →
        (u.ev9.part p).clk.beatCount = satAdd (s.ev9.part p).clk.beatCount 1
          ∧ (u.ev9.part p).clk.stepBeat = satAdd (s.ev9.part p).clk.stepBeat 1
          ∧ (u.ev9.part p).curl = (s.ev9.part p).curl ∧ (u.ev9.part p).state = (s.ev9.part p).state)
      ∧ (s.ev9.up = true → (s.ev9.part p).runs = true → (s.ev9.part p).curl.curled = true → (s.ev9.part p).curl.held = false →
        (u.ev9.part p).clk = { (s.ev9.part p).clk with isl := (u.ev9.part p).clk.isl, droopOver := (u.ev9.part p).clk.droopOver }
          ∧ (u.ev9.part p).curl = { (s.ev9.part p).curl with
              lasted := (s.ev9.part p).curl.lasted + 1, clearFor := (u.ev9.part p).curl.clearFor }
          ∧ ∀ c ∈ coresOf p, (u.ev9.core c).threads = (s.ev9.core c).threads ∧ (u.ev9.core c).acorns = (s.ev9.core c).acorns)

/-- Reset values that the spec states: the queue is empty; chip and partitions as R73, R111, R180, R342 and R387 give them; SMB_1 at 1 MHz (R456);
every slot channel OFF with breaker 26, host order as kept, rack order none, caps 900 W (R418, R447); the pump at 60 %, the watchdog at 20 and
autonomous mode at 30 (R418). -/
def Obligations.ResetValuesOfTheSpec : Prop :=
  State.reset.pending = []
    ∧ State.reset.ev9.chip.curlLimit = 0x01000000 ∧ State.reset.ev9.chip.strict = false
    ∧ (∀ p, p < 8 → (State.reset.ev9.part p).state = .off ∧ (State.reset.ev9.part p).abftTol = 0x1000
        ∧ (State.reset.ev9.part p).share = 32 ∧ (State.reset.ev9.part p).request = 7
        ∧ (State.reset.ev9.part p).clk.beatCount = 0 ∧ (State.reset.ev9.part p).curl.count = 0)
    ∧ (∀ c, c < 64 → (State.reset.ev9.core c).waitLimit = 0x00100000
        ∧ ∀ t, t < 4 → ((State.reset.ev9.core c).thread t).regs.state = .halted)
    ∧ State.reset.ev9.power.hostCap = 900 ∧ State.reset.ev9.power.slotLimit = 300 ∧ State.reset.ev9.power.ceiling = 900
    ∧ State.reset.ev9.power.brakePace = 6 ∧ State.reset.ev9.therm.throttle = 100
    ∧ State.reset.ev9.smb1.speed = 2
    ∧ (∀ n, n < 8 → (State.reset.nw8.chan n).state = .off ∧ (State.reset.nw8.chan n).breaker = 26
        ∧ (State.reset.nw8.chan n).rack = .none ∧ (State.reset.nw8.chan n).hostCap = 900 ∧ (State.reset.nw8.chan n).ceiling = 900)
    ∧ State.reset.nw8.cool.duty = 60 ∧ State.reset.nw8.hold.wdt = 20 ∧ State.reset.nw8.hold.auto = 30

/-- The state after reset meets the invariant. -/
def Obligations.ResetMeetsTheInvariant : Prop :=
 State.reset.inv = true

/-- Whatever the command, a step from a state that meets the invariant ends in one that does: EV9 memory and host memory keep their canonical form,
the fault ring holds entries 0–255 (R493), the EV9's audit log at most 1,024 and the NW8's 8,192 entries (R454, R455), and no command of the EV9
awaits its final reply on a port of the NW8 (R312). Clauses that go beyond the spec's words rest on the model's choices of log 2, 5. -/
def Obligations.EveryStepKeepsTheInvariant : Prop :=
  ∀ s u : State, s.inv = true → step s = .next u → u.inv = true

/-- Every command that a carrier can deliver answers a next state; a word that fails R190's checks is refused. Clauses that go beyond the spec's words
rest on the model's choices of log 11. -/
def Obligations.WellFormedCommandsAnswer : Prop :=
  ∀ (i : Instr) (s : State), (i.wellFormed = true → ∃ u, exec i s = .next u)
    ∧ (i.ctl?.isSome ∨ i.eng?.isSome → i.wellFormed = false → exec i s = .refused .undefinedWord)

/-- No command touches the commands that wait behind it (R8: they are applied in the order of their arrival). -/
def Obligations.CommandsLeaveTheQueue : Prop :=
  ∀ (i : Instr) (s u : State), exec i s = .next u → u.pending = s.pending

/-- A command of the EV9 changes nothing of the NW8. -/
def Obligations.Ev9CommandsLeaveTheNw8 : Prop :=
  ∀ (i : Instr) (s u : State), s.inv = true → i.ofNw8 = false → exec i s = .next u → u.nw8 = s.nw8

/-- A command of the NW8 changes nothing of the EV9, but for the recovery ladder, whose second and later rungs end the session of the stuck slot's
SMB_0 (R436, R443). -/
def Obligations.Nw8CommandsLeaveTheEv9 : Prop :=
  ∀ (i : Instr) (s u : State), s.inv = true → i.ofNw8 = true → (∀ n f, i ≠ .recoveryRung n f) → exec i s = .next u → u.ev9 = s.ev9

/-- Decoding the words of a core instruction that passes R190's checks gives that instruction, with every field at every value. -/
def Obligations.DecodeOfEncode : Prop :=
  ∀ i : Instr, i.wellFormed = true →
    (∀ op c t w, i.ctl? = some (op, c, t, w) → ∃ x, encode i = [x] ∧ ∀ y, decodeInstr true c t x y = some i)
    ∧ (∀ op c t w, i.eng? = some (op, c, t, w) → ∃ x y, encode i = [x, y] ∧ decodeInstr true c t x y = some i)

/-- Words written out from R186, R188, R191, R197 and R241 decode to the instructions they stand for: ADD g3 := g1 + g2, MOVHI g4 := 0xDEADBEEF above
g5, ST at a1 + 8 from g6, an MM and a VSUB; an undefined opcode decodes to none. -/
def Obligations.SpecWordsDecode : Prop :=
  decodeInstr false 0 0 0x0818440000000000 0 = some (.add 0 0 ⟨3, 1, 2, 0, false, 0, 0⟩)
    ∧ decodeInstr false 0 0 0x13214000DEADBEEF 0 = some (.movhi 0 0 ⟨4, 5, 0, 0, false, 0, 0xDEADBEEF⟩)
    ∧ decodeInstr false 0 0 0x29004C0000000008 0 = some (.st 0 0 ⟨0, 1, 6, 0, false, 0, 8⟩)
    ∧ decodeInstr false 0 0 0xC0140A0B1E510000 0x40 = some (.mm 0 0 ⟨0x14, 0x0A, 0x0B, 7, true, 5, 1, 0, 0x40⟩)
    ∧ decodeInstr false 0 0 0xE903010200000000 0 = some (.vsub 0 0 ⟨3, 1, 2, 0, false, 0, 0, 0, 0⟩)
    ∧ decodeInstr false 0 0 0xC300000000000000 0 = none

/-- An instruction that is not the one at its thread's program counter, or whose thread cannot issue and does not stall, does nothing (R121, R123); one
that reads an unready register or finds its queue full stalls its thread (R135, R192). An instruction whose guard does not hold takes its beat and has
no other effect (R187). Clauses that go beyond the spec's words rest on the model's choices of log 11. -/
def Obligations.IssueAndGuard : Prop :=
  (∀ (i : Instr) (s : State) (op : Nat) (c : CoreId) (t : ThreadId),
      (∀ w, i.ctl? = some (op, c, t, w) → ctlOk op w = true →
        (s.stalls c t [ctlWord (BitVec.ofNat 8 op) w] = true → Runs i s (Stalled c t s))
        ∧ (s.stalls c t [ctlWord (BitVec.ofNat 8 op) w] = false → s.issues c t [ctlWord (BitVec.ofNat 8 op) w] = false →
          exec i s = .next s))
      ∧ (∀ w, i.eng? = some (op, c, t, w) → engineOk true op w = true →
        (s.stalls c t [engWord0 (BitVec.ofNat 8 op) w, w.w1] = true → Runs i s (Stalled c t s))
        ∧ (s.stalls c t [engWord0 (BitVec.ofNat 8 op) w, w.w1] = false →
          s.issues c t [engWord0 (BitVec.ofNat 8 op) w, w.w1] = false → exec i s = .next s)))
  ∧ (∀ (i : Instr) (op : Nat) (c : CoreId) (t : ThreadId) (w : Ctl) (s : State), i.ctl? = some (op, c, t, w) → ctlOk op w = true →
      s.issues c t [ctlWord (BitVec.ofNat 8 op) w] = true → guardHolds (s.regs c t) w = false →
      Runs i s fun u => Issued 1 c t s u { s.regs c t with pc := (s.regs c t).pc + 1 })

/-- The arithmetic of R191: ADD, SUB, MUL and SHL modulo 2^64, AND, OR and XOR bit by bit, SHR and SRA rounding down, MIN and MAX signed or, with
mod[0], unsigned; g[dst] alone takes the result, which is ready 3 beats later for MUL, and a write to g0 is discarded (R122, R192). -/
def Obligations.ArithmeticResults : Prop :=
  ∀ (c : CoreId) (t : ThreadId) (w : Ctl) (s : State) (a b : Dword), a = (s.regs c t).gr w.srca → b = operandOf (s.regs c t) w →
    (Executes 0x08 c t w s → Runs (.add c t w) s fun u => ∃ v, WritesG c t w.dst v s u ∧ v.toNat = (a.toNat + b.toNat) % 2 ^ 64)
    ∧ (Executes 0x09 c t w s → Runs (.sub c t w) s fun u => ∃ v, WritesG c t w.dst v s u
        ∧ v.toNat = (a.toNat + 2 ^ 64 - b.toNat) % 2 ^ 64)
    ∧ (Executes 0x0A c t w s → Runs (.mul c t w) s fun u => ∃ v, WritesGLate 3 c t w.dst v s u ∧ v.toNat = a.toNat * b.toNat % 2 ^ 64)
    ∧ (Executes 0x0B c t w s → Runs (.and c t w) s fun u => ∃ v, WritesG c t w.dst v s u
        ∧ ∀ k, v.getLsbD k = (a.getLsbD k && b.getLsbD k))
    ∧ (Executes 0x0C c t w s → Runs (.or c t w) s fun u => ∃ v, WritesG c t w.dst v s u
        ∧ ∀ k, v.getLsbD k = (a.getLsbD k || b.getLsbD k))
    ∧ (Executes 0x0D c t w s → Runs (.xor c t w) s fun u => ∃ v, WritesG c t w.dst v s u
        ∧ ∀ k, v.getLsbD k = (a.getLsbD k != b.getLsbD k))
    ∧ (Executes 0x0E c t w s → Runs (.shl c t w) s fun u => ∃ v, WritesG c t w.dst v s u
        ∧ v.toNat = a.toNat * 2 ^ (b.toNat % 64) % 2 ^ 64)
    ∧ (Executes 0x0F c t w s → Runs (.shr c t w) s fun u => ∃ v, WritesG c t w.dst v s u ∧ v.toNat = a.toNat / 2 ^ (b.toNat % 64))
    ∧ (Executes 0x10 c t w s → Runs (.sra c t w) s fun u => ∃ v, WritesG c t w.dst v s u
        ∧ v.toInt = a.toInt / 2 ^ (b.toNat % 64))
    ∧ (Executes 0x11 c t w s → Runs (.min c t w) s fun u => ∃ v, WritesG c t w.dst v s u ∧ (v = a ∨ v = b)
        ∧ (if w.mod.getLsbD 0 then v.toNat = min a.toNat b.toNat else v.toInt = min a.toInt b.toInt))
    ∧ (Executes 0x12 c t w s → Runs (.max c t w) s fun u => ∃ v, WritesG c t w.dst v s u ∧ (v = a ∨ v = b)
        ∧ (if w.mod.getLsbD 0 then v.toNat = max a.toNat b.toNat else v.toInt = max a.toInt b.toInt))

/-- MOVHI, SEL, RDA, MOVA and ADDA move values between general and address registers; CMP and PLOG write a predicate; nothing else changes (R191). -/
def Obligations.MoveAndPredicateResults : Prop :=
  ∀ (c : CoreId) (t : ThreadId) (w : Ctl) (s : State) (r : ThreadRegs) (a b : Dword), r = s.regs c t → a = r.gr w.srca →
    b = operandOf r w →
    (Executes 0x13 c t w s → Runs (.movhi c t w) s fun u => ∃ v, WritesG c t w.dst v s u
        ∧ v.toNat = w.imm.toNat * 2 ^ 32 + a.toNat % 2 ^ 32)
    ∧ (Executes 0x1A c t w s → Runs (.sel c t w) s (WritesG c t w.dst (if r.pr (w.mod.toNat % 8) then a else b) s))
    ∧ (Executes 0x22 c t w s → Runs (.rda c t w) s fun u => ∃ v, WritesG c t w.dst v s u ∧ v.toNat = (r.ar w.srca).toNat)
    ∧ (Executes 0x20 c t w s → Runs (.mova c t w) s fun u => ∃ v, WritesA c t w.dst v s u ∧ v.toNat = a.toNat % 2 ^ 40)
    ∧ (Executes 0x21 c t w s → Runs (.adda c t w) s fun u => ∃ v, WritesA c t w.dst v s u
        ∧ v.toNat = ((r.ar w.srca).toNat + b.toNat) % 2 ^ 40)
    ∧ (Executes 0x18 c t w s → Runs (.cmp c t w) s fun u => ∃ v, WritesP c t w.dst v s u
        ∧ (w.mod.toNat % 8 = 0 → (v = true ↔ a = b)) ∧ (w.mod.toNat % 8 = 1 → (v = true ↔ a ≠ b))
        ∧ (w.mod.toNat % 8 = 2 → (v = true ↔ a.toInt < b.toInt)) ∧ (w.mod.toNat % 8 = 3 → (v = true ↔ b.toInt ≤ a.toInt))
        ∧ (w.mod.toNat % 8 = 4 → (v = true ↔ a.toNat < b.toNat)) ∧ (w.mod.toNat % 8 = 5 → (v = true ↔ b.toNat ≤ a.toNat)))
    ∧ (Executes 0x19 c t w s → Runs (.plog c t w) s fun u => ∃ v, WritesP c t w.dst v s u
        ∧ (w.mod.toNat % 4 = 0 → v = (r.pr w.srca.toNat && r.pr w.srcb.toNat))
        ∧ (w.mod.toNat % 4 = 1 → v = (r.pr w.srca.toNat || r.pr w.srcb.toNat))
        ∧ (w.mod.toNat % 4 = 2 → v = (r.pr w.srca.toNat != r.pr w.srcb.toNat))
        ∧ (w.mod.toNat % 4 = 3 → v = (r.pr w.srca.toNat && !r.pr w.srcb.toNat)))

/-- NOP only moves on; HALT halts the thread and leaves its enqueued work; BR branches to imm[12:0]; LOOP takes 1 from g[dst] and branches unless the
result is zero; after a taken branch the thread issues two beats later (R191, R192, R219). -/
def Obligations.FlowOfControl : Prop :=
  ∀ (c : CoreId) (t : ThreadId) (w : Ctl) (s : State) (r : ThreadRegs), r = s.regs c t →
    (Executes 0x00 c t w s → Runs (.controlNop c t w) s fun u => Issued 1 c t s u { r with pc := r.pc + 1 })
    ∧ (Executes 0x01 c t w s → Runs (.halt c t w) s fun u => Issued 1 c t s u { r with pc := r.pc + 1, state := .halted })
    ∧ (Executes 0x30 c t w s → Runs (.br c t w) s fun u => OnlyCore c s u ∧ IssuedOn 1 t (u.ev9.core c) (s.ev9.core c)
        { ((s.ev9.core c).thread t).at { r with pc := BitVec.ofNat 13 w.imm.toNat } with gap := 2 })
    ∧ (Executes 0x31 c t w s → Runs (.loop c t w) s fun u => ∃ r' : ThreadRegs, OnlyCore c s u
        ∧ IssuedOn 1 t (u.ev9.core c) (s.ev9.core c) { ((s.ev9.core c).thread t).at r' with
            gap := if r.gr w.dst = 1 then ((s.ev9.core c).thread t).gap else 2 }
        ∧ r'.gr w.dst = (if w.dst = 0 then 0 else r.gr w.dst - 1) ∧ (∀ j, j ≠ w.dst → r'.gr j = r.gr j)
        ∧ r' = { r with g := r'.g, pc := if r.gr w.dst = 1 then r.pc + 1 else BitVec.ofNat 13 w.imm.toNat })

/-- An aligned LD, ST or SATOM within reach. In the own operand buffer LD reads 8 bytes, least significant first, ready 4 beats later, and ST stores
those of g[srcb] at a[srca] + sext(imm) and changes no other byte. An access to scratch reaches its cluster in its beat, under the stamp of R108, and
applies there at the beat's end: LD gives its register the 8 bytes, ST stores its bytes and no other, SATOM returns the old element, stores the new
one, and its cluster counts it; an INT32 add is modulo 2^32 (R105–R108, R192–R194). A thread access outside the core's reach, or misaligned, is a
bounds fault of the thread: source 0, reason 2 or 4, engine 3 and the thread in detail word 1 (R148, R193). Clauses that go beyond the spec's words
rest on the model's choices of log 1, 20, 21. -/
def Obligations.ThreadAccessesAndFaults : Prop :=
  (∀ (c : CoreId) (t : ThreadId) (w : Ctl) (s : State) (r : ThreadRegs) (a : Nat), r = s.regs c t →
      a = (r.ar w.srca + w.imm.signExtend 40).toNat →
      (Executes 0x28 c t w s → s.ev9.threadReaches c false a = true → a % 8 = 0 →
        ((∀ k off, placeOf a ≠ .scratch k off) → Runs (.ld c t w) s fun u => ∃ v, WritesGLate 4 c t w.dst v s u
          ∧ ∀ k, k < 8 → v.extractLsb' (8 * k) 8 = s.ev9.load (a + k))
        ∧ ∀ k off, placeOf a = .scratch k off → Runs (.ld c t w) s fun u =>
          u = { s with ev9 := { s.ev9 with cores := u.ev9.cores, scr := u.ev9.scr } }
          ∧ (∀ j, j ≠ c.val → u.ev9.core j = s.ev9.core j)
          ∧ u.ev9.scr = s.ev9.scr ++ [⟨k, (s.ev9.part (k / 2)).clk.beatCount.toNat, c, 0, .load t w.dst, [⟨a, [], false⟩]⟩]
          ∧ IssuedOn 1 t (u.ev9.core c) (s.ev9.core c) ((((s.ev9.core c).thread t).at { r with pc := r.pc + 1 }).late w.dst
              ((if c.val / 4 = k then 20 else 26) + if s.ev9.chip.strict then 8 else 0)))
      ∧ (Executes 0x29 c t w s → s.ev9.threadReaches c false a = true → a % 8 = 0 →
        ((∀ k off, placeOf a ≠ .scratch k off) → Runs (.st c t w) s fun u =>
          u = { s with ev9 := { s.ev9 with cores := u.ev9.cores, mem := u.ev9.mem } }
          ∧ (∀ k, k ≠ c.val → u.ev9.core k = s.ev9.core k)
          ∧ IssuedOn 1 t (u.ev9.core c) (s.ev9.core c) (((s.ev9.core c).thread t).at { r with pc := r.pc + 1 })
          ∧ (∀ k, k < 8 → memRead u.ev9.mem (a + k) = (r.gr w.srcb).extractLsb' (8 * k) 8)
          ∧ ∀ x, x < a ∨ a + 8 ≤ x → memRead u.ev9.mem x = memRead s.ev9.mem x)
        ∧ ∀ k off, placeOf a = .scratch k off → Runs (.st c t w) s fun u =>
          u = { s with ev9 := { s.ev9 with cores := u.ev9.cores, scr := u.ev9.scr } }
          ∧ (∀ j, j ≠ c.val → u.ev9.core j = s.ev9.core j)
          ∧ u.ev9.scr = s.ev9.scr ++ [⟨k, (s.ev9.part (k / 2)).clk.beatCount.toNat, c, 0, .write, [⟨a, leBytes 8 (r.gr w.srcb).toNat, false⟩]⟩]
          ∧ IssuedOn 1 t (u.ev9.core c) (s.ev9.core c) (((s.ev9.core c).thread t).at { r with pc := r.pc + 1 }))
      ∧ (∀ fmt n k off, (fmt, n) = (match w.mod.toNat % 4 with | 0 => (0, 4) | 1 => (1, 2) | _ => (9, 4)) →
        placeOf a = .scratch k off → Executes 0x2A c t w s → s.ev9.threadReaches c true a = true → a % n = 0 →
        Runs (.satom c t w) s fun u => u = { s with ev9 := { s.ev9 with cores := u.ev9.cores, scr := u.ev9.scr } }
          ∧ (∀ j, j ≠ c.val → u.ev9.core j = s.ev9.core j)
          ∧ u.ev9.scr = s.ev9.scr ++ [⟨k, (s.ev9.part (k / 2)).clk.beatCount.toNat, c, 0,
              .atomic fmt (w.mod.toNat / 4 % 4) (if w.dst = 0 then none else some (t, w.dst)),
              [⟨a, leBytes n ((r.gr w.srcb).toNat % 2 ^ (8 * n)), false⟩]⟩]
          ∧ IssuedOn 1 t (u.ev9.core c) (s.ev9.core c) ((((s.ev9.core c).thread t).at { r with pc := r.pc + 1 }).late w.dst
              ((if c.val / 4 = k then 24 else 30) + if s.ev9.chip.strict then 8 else 0))))
  ∧ (∀ (s : State) (k a : Nat) (core : Nat) (l : List Byte) (kind : ScrKind) (x : ScrAccess), x.units = [⟨a, l, false⟩] → x.cluster = k → x.core = core →
      x.kind = kind → k < 16 → s.pending = [] → s.ev9.up = true → s.ev9.calm → s.ev9.scr = [x] → ∃ u, step s = .next u ∧ u.ev9.scr = []
        ∧ (∀ j, j ≠ k → u.ev9.cluster j = s.ev9.cluster j)
        ∧ (∀ t dst, kind = .load t dst → ((u.ev9.core core).thread t).regs.gr dst = (if dst = 0 then 0 else BitVec.ofNat 64 (leNat (s.ev9.loads a 8)))
          ∧ (∀ j, j ≠ dst → ((u.ev9.core core).thread t).regs.gr j = ((s.ev9.core core).thread t).regs.gr j) ∧ u.ev9.mem = s.ev9.mem)
        ∧ (kind = .write → (∀ j, j < l.length → memRead u.ev9.mem (a + j) = byteAt l j)
          ∧ (∀ y, y < a ∨ a + l.length ≤ y → memRead u.ev9.mem y = memRead s.ev9.mem y))
        ∧ (∀ fmt op ret, kind = .atomic fmt op ret → l.length = (if fmt = 1 then 2 else 4) → ∃ old new : Nat,
          old = leNat (s.ev9.loads a l.length) ∧ new = atomicElem fmt (atomicOp op) old (leNat l)
          ∧ (fmt = 9 → op = 0 → new = (old + leNat l) % 2 ^ 32)
          ∧ memReads u.ev9.mem a l.length = leBytes l.length new
          ∧ (∀ y, y < a ∨ a + l.length ≤ y → memRead u.ev9.mem y = memRead s.ev9.mem y)
          ∧ (u.ev9.cluster k).atomics = satAdd (s.ev9.cluster k).atomics 1
          ∧ ∀ t dst, ret = some (t, dst) → dst ≠ 0 → ((u.ev9.core core).thread t).regs.gr dst = BitVec.ofNat 64 old))
  ∧ (∀ (i : Instr) (op n : Nat) (c : CoreId) (t : ThreadId) (w : Ctl) (s : State) (a : Nat),
      (i, op, n) ∈ [(Instr.ld c t w, 0x28, 8), (Instr.st c t w, 0x29, 8),
        (Instr.satom c t w, 0x2A, if w.mod.toNat % 4 = 1 then 2 else 4)] →
      Executes op c t w s → a = ((s.regs c t).ar w.srca + w.imm.signExtend 40).toNat →
      (s.ev9.threadReaches c (op == 0x2A) a = false →
        Runs i s (BoundsFaulted c 0 2 (t.val + 0x300) (a / 64 * 64) s))
      ∧ (s.ev9.threadReaches c (op == 0x2A) a = true → a % n ≠ 0 → Runs i s (BoundsFaulted c 0 4 (t.val + 0x300) 0 s)))

/-- SIGNAL adds n to a counter, saturating at 65,535, in its issue beat; a WAIT for 0 goes on, else its thread waits for n; at the end of a beat a
waiting thread whose counter holds its n takes n and proceeds. EXPECT adds n to the expected-arrival count; TIMER arms a timer, and one that expires
in its beat signals first; RDAC reads a counter (R139–R141, R151, R153, R191, R195). Clauses that go beyond the spec's words rest on the model's choice
of log 1. -/
def Obligations.CounterInstructions : Prop :=
  (∀ (c : CoreId) (t : ThreadId) (w : Ctl) (s : State) (r : ThreadRegs) (x : Core) (i n : Nat), r = s.regs c t → x = s.ev9.core c →
    i = w.dst.toNat → n = w.imm.toNat % 65536 →
    (Executes 0x38 c t w s → Runs (.signal c t w) s fun u => ButNotes (OnlyCore c s) s u
        ∧ ((u.ev9.core c).acorn i).value.toNat = min ((x.acorn i).value.toNat + n) 65535
        ∧ ((u.ev9.core c).acorn i).expected = (x.acorn i).expected
        ∧ (∀ j, j ≠ i → (u.ev9.core c).acorn j = x.acorn j)
        ∧ (u.ev9.core c).acornOverflow = (x.acornOverflow || decide (65535 < (x.acorn i).value.toNat + n))
        ∧ IssuedOn 1 t (u.ev9.core c) { x with acorns := (u.ev9.core c).acorns, acornOverflow := (u.ev9.core c).acornOverflow }
          ((x.thread t).at { r with pc := r.pc + 1 }))
    ∧ (Executes 0x39 c t w s → n = 0 → Runs (.wait c t w) s fun u => Issued 1 c t s u { r with pc := r.pc + 1 })
    ∧ (Executes 0x39 c t w s → n ≠ 0 → Runs (.wait c t w) s fun u => OnlyCore c s u
        ∧ IssuedOn 1 t (u.ev9.core c) x { (x.thread t).at { r with
            pc := r.pc + 1, state := .waiting, waitAc := w.dst, waitN := BitVec.ofNat 16 n } with waitBeats := 0 })
    ∧ (Executes 0x3A c t w s → Runs (.expect c t w) s fun u => OnlyCore c s u
        ∧ (u.ev9.core c).acorn i = { x.acorn i with expected := (x.acorn i).expected + BitVec.ofNat 32 n }
        ∧ (∀ j, j ≠ i → (u.ev9.core c).acorn j = x.acorn j)
        ∧ IssuedOn 1 t (u.ev9.core c) { x with acorns := (u.ev9.core c).acorns } ((x.thread t).at { r with pc := r.pc + 1 }))
    ∧ (∀ old, old = tget {} x.timers (w.mod.toNat % 8) → Executes 0x3B c t w s → Runs (.timer c t w) s fun u => OnlyCore c s u
        ∧ tget {} (u.ev9.core c).timers (w.mod.toNat % 8) = { armed := true, ac := w.dst, beats := w.imm }
        ∧ (∀ j, j ≠ w.mod.toNat % 8 → tget {} (u.ev9.core c).timers j = tget {} x.timers j)
        ∧ (∀ j, (u.ev9.core c).acorn j = if old.armed = true ∧ old.beats = 0 ∧ j = old.ac.toNat
            then { x.acorn j with value := satAdd (x.acorn j).value 1
                                  overflow := (x.acorn j).overflow || decide (65535 < (x.acorn j).value.toNat + 1) } else x.acorn j)
        ∧ IssuedOn 1 t (u.ev9.core c)
          { x with timers := (u.ev9.core c).timers, acorns := (u.ev9.core c).acorns, acornOverflow := (u.ev9.core c).acornOverflow }
          ((x.thread t).at { r with pc := r.pc + 1 }))
    ∧ (Executes 0x3C c t w s → Runs (.rdac c t w) s fun u => ∃ v, WritesG c t w.dst v s u
        ∧ v.toNat = (x.acorn w.srca.toNat).value.toNat))
  ∧ ∀ (s : State) (c : CoreId) (k : Fin 4) (x : Core) (i : Nat), x = s.ev9.core c → i = (x.thread k).regs.waitAc.toNat → s.pending = [] →
    s.ev9.calm → s.ev9.scr = [] → s.ev9.coreLive c = true → ((s.ev9.part (partOf c)).island (c.val % 8)).runs s.ev9.chip.strict = true →
    (x.thread k).regs.state = .waiting → (∀ j, j < 4 → j ≠ k.val → (x.thread j).regs.state ≠ .waiting) → ∃ u, step s = .next u
      ∧ (if (x.thread k).regs.waitN.toNat ≤ (x.acorn i).value.toNat then ((u.ev9.core c).thread k).regs.state = .running
          ∧ ((u.ev9.core c).acorn i).value.toNat = (x.acorn i).value.toNat - (x.thread k).regs.waitN.toNat
        else ((u.ev9.core c).thread k).regs.state = .waiting ∧ ((u.ev9.core c).acorn i).value = (x.acorn i).value)
      ∧ ∀ j, j ≠ i → (u.ev9.core c).acorn j = x.acorn j

/-- DSET and LSET write one 64-bit word of a handle or loop descriptor, whose reserved bits stay zero, and loop descriptor 0 takes no write (R5, R126,
R129, R130); DGET reads a word; RDSYS reads BEATCOUNT, step, beat within the step, position or core index; SETVL gives min(request, VLMAX), which comes
into force at once where the vector queue is empty (R191, R195, R196). -/
def Obligations.DescriptorAndSystemInstructions : Prop :=
  ∀ (c : CoreId) (t : ThreadId) (w : Ctl) (s : State) (r : ThreadRegs) (x : Core), r = s.regs c t → x = s.ev9.core c →
    (∀ h, h = w.imm.toNat % 256 → Executes 0x40 c t w s → Runs (.dset c t w) s fun u => OnlyCore c s u
        ∧ (∀ b, b < 256 → (tget 0 (u.ev9.core c).handles h).getLsbD b
            = if 50 ≤ b ∧ b < 64 ∨ 244 ≤ b then false
              else if b / 64 = w.mod.toNat % 4 then (r.gr w.srca).getLsbD (b % 64) else (tget 0 x.handles h).getLsbD b)
        ∧ (∀ j, j ≠ h → tget 0 (u.ev9.core c).handles j = tget 0 x.handles j)
        ∧ IssuedOn 1 t (u.ev9.core c) { x with handles := (u.ev9.core c).handles } ((x.thread t).at { r with pc := r.pc + 1 }))
    ∧ (∀ l, l = w.imm.toNat % 64 → Executes 0x41 c t w s → l ≠ 0 → Runs (.lset c t w) s fun u => OnlyCore c s u
        ∧ (∀ b, b < 512 → (tget 0 (u.ev9.core c).loops l).getLsbD b
            = if 5 ≤ b ∧ b < 64 then false
              else if b / 64 = w.mod.toNat % 8 then (r.gr w.srca).getLsbD (b % 64) else (tget 0 x.loops l).getLsbD b)
        ∧ (∀ j, j ≠ l → tget 0 (u.ev9.core c).loops j = tget 0 x.loops j)
        ∧ IssuedOn 1 t (u.ev9.core c) { x with loops := (u.ev9.core c).loops } ((x.thread t).at { r with pc := r.pc + 1 }))
    ∧ (Executes 0x41 c t w s → w.imm.toNat % 64 = 0 → Runs (.lset c t w) s fun u => Issued 1 c t s u { r with pc := r.pc + 1 })
    ∧ (Executes 0x42 c t w s → Runs (.dget c t w) s
        (WritesG c t w.dst ((tget 0 x.handles (w.imm.toNat % 256)).extractLsb' (64 * (w.mod.toNat % 4)) 64) s))
    ∧ (Executes 0x50 c t w s → Runs (.rdsys c t w) s fun u => ∃ v, WritesG c t w.dst v s u
        ∧ (w.mod.toNat % 8 = 0 → v = (s.ev9.part (partOf c)).clk.beatCount)
        ∧ (w.mod.toNat % 8 = 1 → v.toNat = (s.ev9.part (partOf c)).clk.step.toNat)
        ∧ (w.mod.toNat % 8 = 2 → v.toNat = (s.ev9.part (partOf c)).clk.stepBeat.toNat)
        ∧ (w.mod.toNat % 8 = 3 → ∀ k m, s.ev9.memberOf (partOf c) = some (k, m) → v.toNat = m.position.toNat)
        ∧ (w.mod.toNat % 8 = 4 → v.toNat = c.val))
    ∧ (∀ vl, vl = min (if w.mod.getLsbD 4 then (w.imm.signExtend 64).toNat else (r.gr w.srca).toNat)
          (if w.mod.getLsbD 0 then 2048 else 1024) →
        Executes 0x48 c t w s → Runs (.setvl c t w) s fun u => OnlyCore c s u
        ∧ (u.regs c t).gr w.dst = (if w.dst = 0 then 0 else BitVec.ofNat 64 vl) ∧ (∀ j, j ≠ w.dst → (u.regs c t).gr j = r.gr j)
        ∧ (u.regs c t).pc = r.pc + 1 ∧ (u.ev9.core c).acorns = x.acorns ∧ (u.ev9.core c).handles = x.handles
        ∧ (x.qVector = [] → (u.ev9.core c).qVector = [] ∧ (u.ev9.core c).vec =
            { x.vec with vl := BitVec.ofNat 12 vl, wide16 := w.mod.getLsbD 0 }))

/-- A matrix, mover or ballast instruction whose captured descriptors pass their checks is placed in its engine's queue with what it captured, and its
thread moves on by two words (R136, R189, R198, R205, R206, R211). A vector instruction is enqueued likewise, and its entry and its thread hold the
count of R234, which counts it (R136, R234, R236, R241). -/
def Obligations.EngineInstructionsEnqueueAll : Prop :=
  (∀ (i : Instr) (op : Nat) (e : Engine) (check : Ev9 → QEntry → Option (BoundsReason × BitVec 8)) (c : CoreId) (t : ThreadId)
      (w : Eng) (s : State),
      ((i, op, e) = (.mm c t w, 0xC0, .matrix) ∧ check = mmCheck c
        ∨ (i, op, e) = (.mdrain c t w, 0xC1, .matrix) ∧ check = mdrainCheck c
        ∨ (i, op, e) = (.mclear c t w, 0xC2, .matrix) ∧ check = (fun _ _ => none)
        ∨ (i, op, e) = (.mvCopy c t w, 0xD0, .mover) ∧ check = copyCheck
        ∨ (i, op, e) = (.mvRed c t w, 0xD1, .mover) ∧ check = redCheck c
        ∨ (i, op, e) = (.mvSend c t w, 0xD2, .mover) ∧ check = sendCheck
        ∨ (i, op, e) = (.mvFill c t w, 0xD3, .mover) ∧ check = fillCheck
        ∨ (i, op) = (.ballast c t w, 0xFC) ∧ check = (fun _ _ => none)
          ∧ e = (match dbits w.w1 37 36 with | 0 => .matrix | 1 => .vector | _ => .mover)) →
      Enqueues op [e] c t w s → check s.ev9 (captured op c t w (s.regs c t).nVec s) = none →
      Runs i s (Enqueued e c t (captured op c t w (s.regs c t).nVec s) { s.regs c t with pc := (s.regs c t).pc + 2 } s))
  ∧ (∀ (i : Instr) (op : Nat) (check : Ev9 → QEntry → Option (BoundsReason × BitVec 8)) (c : CoreId) (t : ThreadId) (w : Eng)
      (s : State),
      ((i, op) = (.vld c t w, 0xE0) ∧ check = vldCheck ∨ (i, op) = (.vst c t w, 0xE1) ∧ check = vstCheck
        ∨ (i, op) = (.vred c t w, 0xE2) ∧ check = vredCheck
        ∨ (i, op) ∈ [(.vrdacc c t w, 0xE3), (.vwracc c t w, 0xE4), (.vadd c t w, 0xE8), (.vsub c t w, 0xE9), (.vmul c t w, 0xEA),
            (.vfma c t w, 0xEB), (.vmax c t w, 0xEC), (.vmin c t w, 0xED), (.vlog c t w, 0xEE), (.vfn c t w, 0xEF),
            (.vcvt c t w, 0xF0), (.vmov c t w, 0xF1), (.vidx c t w, 0xF2), (.vreduce c t w, 0xF3), (.vcmp c t w, 0xF4),
            (.vmlog c t w, 0xF5)] ∧ check = (fun _ _ => none)) →
      Enqueues op [.vector] c t w s → check s.ev9 (captured op c t w (s.regs c t).nVec s) = none →
      Runs i s (Enqueued .vector c t (captured op c t w ((s.regs c t).nVec + 1) s)
        { s.regs c t with pc := (s.regs c t).pc + 2, nVec := (s.regs c t).nVec + 1 } s))

/-- FENCE places one entry in each queue that its mask names, all under one number; SYNC places none, and its thread stalls until every entry that the
named queues hold has completed, or moves on where they hold none (R212, R213). -/
def Obligations.FenceAndSyncInstructions : Prop :=
  ∀ (c : CoreId) (t : ThreadId) (w : Eng) (s : State) (r : ThreadRegs) (x : Core), r = s.regs c t → x = s.ev9.core c →
    (Enqueues 0xFD (maskEngines w) c t w s → Runs (.engineFence c t w) s fun u => OnlyCore c s u
      ∧ (∀ e, e ∉ maskEngines w → (u.ev9.core c).queue e = x.queue e)
      ∧ (∀ e ∈ maskEngines w, ∃ q : QEntry, (u.ev9.core c).queue e = x.queue e ++ [q] ∧ q.op = 0xFD ∧ q.id = x.nextId ∧ q.thread = t)
      ∧ (((u.ev9.core c).entries.filter fun q => q.id == x.nextId && q.w.sig).length
          = ((x.entries.filter fun q => q.id == x.nextId && q.w.sig).length + if w.sig then 1 else 0))
      ∧ (u.ev9.core c).nextId = x.nextId + 1
      ∧ (u.ev9.core c).thread t = (x.thread t).at { r with pc := r.pc + 2 })
    ∧ (Enqueues 0xFE [] c t w s → (∀ e ∈ maskEngines w, x.queue e = []) →
      Runs (.sync c t w) s fun u => Issued 2 c t s u { r with pc := r.pc + 2 })
    ∧ (Enqueues 0xFE [] c t w s → (∃ e ∈ maskEngines w, x.queue e ≠ []) → Runs (.sync c t w) s fun u => OnlyCore c s u
      ∧ IssuedOn 2 t (u.ev9.core c) x { x.thread t with
          stall := true, sync := some ((maskEngines w).flatMap fun e => (x.queue e).map fun q => q.id)
          regs := { r with pc := r.pc + 2 } })

/-- An engine instruction whose queue has no free entry of its 16 stalls before it issues: its thread's stall flag is set and nothing else changes
(R133, R135, R196, R212). An engine instruction whose captured descriptor is invalid, misaligned or outside its instruction's conditions is a bounds
fault with reason 3 or 4 that names engine and handle (R146, R148, R198, R205). Clauses that go beyond the spec's words rest on the model's choices of
log 20. -/
def Obligations.EnqueueStallsAndFaults : Prop :=
  (∀ (i : Instr) (op : Nat) (c : CoreId) (t : ThreadId) (w : Eng) (s : State) (e : Engine), i.eng? = some (op, c, t, w) →
      engineOk true op w = true → s.fetches c t [engWord0 (BitVec.ofNat 8 op) w, w.w1] = true → op ≠ 0xFE →
      (op = 0xC0 ∨ op = 0xC1 ∨ op = 0xC2 → e = .matrix) → (0xD0 ≤ op ∧ op ≤ 0xD3 → e = .mover) →
      (0xE0 ≤ op ∧ op ≤ 0xF5 → e = .vector) → (op = 0xFC → e = ballastEngine w) → (op = 0xFD → e ∈ maskEngines w) →
      16 ≤ ((s.ev9.core c).queue e).length → Runs i s (Stalled c t s))
  ∧ (∀ (i : Instr) (op source : Nat) (e : Engine) (check : Ev9 → QEntry → Option (BoundsReason × BitVec 8)) (c : CoreId)
      (t : ThreadId) (w : Eng) (s : State) (reason : BoundsReason) (h : BitVec 8),
      (i, op, source, e) ∈ [(Instr.mm c t w, 0xC0, 1, Engine.matrix), (.mdrain c t w, 0xC1, 1, .matrix), (.mvCopy c t w, 0xD0, 3, .mover),
        (.mvRed c t w, 0xD1, 3, .mover), (.mvSend c t w, 0xD2, 3, .mover), (.mvFill c t w, 0xD3, 3, .mover),
        (.vld c t w, 0xE0, 2, .vector), (.vst c t w, 0xE1, 2, .vector), (.vred c t w, 0xE2, 2, .vector)] →
      check = (if op = 0xC0 then mmCheck c else if op = 0xC1 then mdrainCheck c else if op = 0xD0 then copyCheck
        else if op = 0xD1 then redCheck c else if op = 0xD2 then sendCheck else if op = 0xD3 then fillCheck
        else if op = 0xE0 then vldCheck else if op = 0xE1 then vstCheck else vredCheck) →
      Enqueues op [e] c t w s → check s.ev9 (captured op c t w (s.regs c t).nVec s) = some (reason, h) →
      (reason = .invalid ∨ reason = .misaligned) ∧
      Runs i s (BoundsFaulted c source (if reason = .invalid then 3 else 4)
        (h.toNat + (match e with | .matrix => 0 | .vector => 0x100 | .mover => 0x200) + 1024 * w.loop.toNat) 0 s))

/-- MATRIX_TILE_START: with the array idle and the half free, the next tile of an MM begins to fill its half, which is cleared to +0 unless it is tile
0 and word 1 keeps it; an MCLEAR clears its half; a BALLAST starts. The other half, memory and every other core stay as they are (R168, R199, R200,
R202, R211). MATRIX_TILE_END: the k-slices of the tile that its beats have not read yet are read and accumulated into its half; the drain
falls due, or, where word 1 keeps the last tile, the half keeps the run and is idle. For a tile of one iteration whose lines pass their checks, every cell takes its row of A times its row of B (R159,
R172, R199, R201). Clauses that go beyond the spec's words rest on the model's choices of log 17. -/
def Obligations.MatrixTiles : Prop :=
  (∀ (c : CoreId) (s : State) (q : QEntry) (x : Core), x = s.ev9.core c → s.ev9.coreLive c = true → x.arrayIdle = true →
      x.current .matrix = some q → q.active = false →
      (q.op = 0xC0 → ∀ h, h = tileHalf q q.done → x.halfFree h = true → Runs (.matrixTileStart c) s fun u => OnlyCore c s u
        ∧ ((u.ev9.core c).half h).phase = .filling ∧ ((u.ev9.core c).half h).touched = true
        ∧ (∃ r : Run, ((u.ev9.core c).half h).run = some r ∧ r.entry = q ∧ r.tile = q.done)
        ∧ (if q.done = 0 ∧ q.w.w1.getLsbD 4 = true then ((u.ev9.core c).half h).cells = (x.half h).cells
            else ((u.ev9.core c).half h).cells = [] ∧ ((u.ev9.core c).half h).invalid = false)
        ∧ (u.ev9.core c).half (otherHalf h) = x.half (otherHalf h))
      ∧ (q.op = 0xC2 → ∀ h, h = (if q.w.w1.getLsbD 0 then Half2.B else Half2.A) → x.halfFree h = true → x.qMatrix = [q] →
        Runs (.matrixTileStart c) s fun u => ButNotes (OnlyCore c s) s u ∧ (u.ev9.core c).qMatrix = []
        ∧ ((u.ev9.core c).half h).cells = [] ∧ ((u.ev9.core c).half h).invalid = false
        ∧ (u.ev9.core c).half (otherHalf h) = x.half (otherHalf h)
        ∧ (q.w.sig = false → (u.ev9.core c).acorns = x.acorns))
      ∧ (q.op = 0xFC → Runs (.matrixTileStart c) s fun u => (∀ k, k ≠ c.val → u.ev9.core k = s.ev9.core k)
        ∧ (∃ q', q' ∈ (u.ev9.core c).qMatrix ∧ q'.id = q.id ∧ q'.active = true)
        ∧ (u.ev9.core c).halfA = x.halfA ∧ (u.ev9.core c).halfB = x.halfB ∧ u.ev9.mem = s.ev9.mem))
  ∧ (∀ (c : CoreId) (s v : State) (h : Half2) (run : Run) (x : Core), x = s.ev9.core c → s.ev9.coreLive c = true →
      h = (if x.halfA.phase = .filling then .A else .B) → (x.half h).phase = .filling → (x.half h).run = some run →
      v = showIterations c h run ((tileIters run.entry run.tile).drop run.shown) s → v.ev9.coreLive c = true →
      (Runs (.matrixTileEnd c) s fun u => ((u.ev9.core c).half h).cells = ((v.ev9.core c).half h).cells
        ∧ ((u.ev9.core c).half h).phase = (if run.tile + 1 = mmTiles run.entry ∧ run.entry.w.w1.getLsbD 5 = true then .idle else .drainDue)
        ∧ (u.ev9.core c).half (otherHalf h) = x.half (otherHalf h)
        ∧ u.ev9.mem = s.ev9.mem ∧ (∀ k, k ≠ c.val → u.ev9.core k = s.ev9.core k))
      ∧ ∀ i, tileIters run.entry run.tile = [i] → run.shown = 0 →
        (walkerA c run.entry i).readFault s.ev9 ((walkerA c run.entry i).lines.map fun l => l.addr) = none →
        (walkerB c run.entry i).readFault s.ev9 ((walkerB c run.entry i).lines.map fun l => l.addr) = none →
        ((v.ev9.core c).half h).cells = accumulate (isMx (descFormat run.entry.descA)) (descCount0 run.entry.descA)
          (((walkerA c run.entry i).readRows s.ev9).map fun r => decodeRow run.entry.descA r.bytes)
          (((walkerB c run.entry i).readRows s.ev9).map fun r => decodeRow run.entry.descB r.bytes) (x.half h).cells)

/-- DRAIN_START: the drain that is due, or an MDRAIN once array and half are free, begins; it takes the armed injection, and it writes within the
lines of its walk through D alone (R169, R180, R200, R202). DRAIN_COMPARE in a live core: a drain that is not compared is counted skipped, one that
passes is counted, and the half is free again; a mismatch, of a block check of MXINT8 or of the drain, is counted and recorded with cause 0x0100 under the observe policy; under the retry policy
in elastic mode a run that can be replayed waits for its retry; under the fault policy the step faults (R170–R179). Clauses that go beyond the spec's
words rest on the model's choices of log 23, 24. -/
def Obligations.Drains : Prop :=
  (∀ (c : CoreId) (h : Half2) (s : State) (x : Core) (run : Run), x = s.ev9.core c → s.ev9.coreLive c = true →
      (((x.half h).phase = .drainDue ∧ (x.half h).run = some run)
        ∨ ((x.half h).phase = .idle ∧ ∃ q, x.current .matrix = some q ∧ q.op = 0xC1 ∧ x.halfFree h = true ∧ x.arrayIdle = true
            ∧ h = (if q.w.w1.getLsbD 0 then Half2.B else Half2.A)
            ∧ run = { entry := q, tile := 0, spans := true, descD := q.descD, offD := 0, signals := q.w.sig, handleD := q.w.d })) →
      Runs (.drainStart c h) s fun u => ((u.ev9.core c).half h).phase = .draining ∧ ((u.ev9.core c).half h).run = some run
        ∧ ((u.ev9.core c).half h).cells = (x.half h).cells
        ∧ (u.ev9.core c).abft.injArm = false ∧ ((u.ev9.core c).half h).injected = x.abft.target
        ∧ (u.ev9.core c).half (otherHalf h) = x.half (otherHalf h)
        ∧ (∀ k, k ≠ c.val → u.ev9.core k = s.ev9.core k)
        ∧ (∀ a, (∀ l ∈ walkLines run.descD run.offD.toInt, a < l.addr ∨ l.addr + 64 ≤ a) → memRead u.ev9.mem a = memRead s.ev9.mem a))
  ∧ (∀ (c : CoreId) (h : Half2) (s : State) (x : Core) (run : Run) (r : Comparison), x = s.ev9.core c → s.ev9.coreLive c = true →
      (x.half h).phase = .draining → (x.half h).run = some run →
      r = (x.half h).found (max 1 (s.ev9.part (partOf c)).abftTol.toNat) →
      ((x.half h).uncompared = true → Runs (.drainCompare c h) s fun u =>
        (u.ev9.core c).abft = { x.abft with skipped := satAdd x.abft.skipped 1 }
        ∧ ((u.ev9.core c).half h).phase = .idle ∧ ButNotes (OnlyCore c s) s u)
      ∧ ((x.half h).uncompared = false → r.mismatch = none → Runs (.drainCompare c h) s fun u =>
        (u.ev9.core c).abft = { x.abft with tiles := satAdd x.abft.tiles 1, skipped := satAdd x.abft.skipped r.skipped }
        ∧ ((u.ev9.core c).half h).phase = .idle ∧ ButNotes (OnlyCore c s) s u)
      ∧ (∀ w0 w2 w3, (x.half h).uncompared = false → r.mismatch = some (w0, w2, w3) →
        (descChecksum run.descD = 2 → Runs (.drainCompare c h) s fun u =>
          (u.ev9.core c).abft.mismatch = true ∧ (u.ev9.core c).abft.mismatches = satAdd x.abft.mismatches 1
          ∧ ((u.ev9.core c).half h).phase = .idle
          ∧ u.ev9.svc.faultSeq = s.ev9.svc.faultSeq + 1
          ∧ (∃ f, tfind u.ev9.svc.faults (s.ev9.svc.faultSeq.toNat % 256) = some f ∧ f.cause = 0x0100 ∧ f.source = 1
              ∧ f.core.toNat = c.val ∧ f.d0 = BitVec.ofNat 32 w0 ∧ f.d2 = BitVec.ofNat 32 w2 ∧ f.d3 = BitVec.ofNat 32 w3)
          ∧ (u.ev9.part (partOf c)).stopped = (s.ev9.part (partOf c)).stopped ∧ u.ev9.mem = s.ev9.mem)
        ∧ (descChecksum run.descD = 1 → s.ev9.chip.strict = false → run.spans = false → Runs (.drainCompare c h) s fun u =>
          (u.ev9.core c).abft.retrying = true ∧ (u.ev9.core c).abft.retries = satAdd x.abft.retries 1
          ∧ ((u.ev9.core c).half h).phase = .retryDue ∧ u.ev9.svc.faultSeq = s.ev9.svc.faultSeq
          ∧ ButNotes (OnlyCore c s) s u)
        ∧ (descChecksum run.descD = 0 → ∀ t m, s.ev9.memberOf (partOf c) = some (t, m) → Runs (.drainCompare c h) s fun u =>
          (u.ev9.core c).abft.faulted = true ∧ ((u.ev9.core c).half h).phase = .idle
          ∧ (∀ p ∈ m.parts, (u.ev9.part p).stopped = true)
          ∧ (u.ev9.part (partOf c)).faultStep = (s.ev9.part (partOf c)).clk.step
          ∧ (∃ f, tfind u.ev9.svc.faults (s.ev9.svc.faultSeq.toNat % 256) = some f ∧ f.cause = 0x0100))))

/-- RETRY_CURL_FREEZE: the partition freezes with cause retry. ABFT_RETRY_REPLAY: the failing half is cleared and its run replayed and drained again,
half A first; with both halves to retry the second waits. A write of ABFT_INJECT_c by the installer arms the injection and is recorded; by a lower
role it is ignored and recorded as denied (R6, R7, R177, R180, R182, R453). -/
def Obligations.RetriesAndInjection : Prop :=
  ∀ (c : CoreId) (s : State) (x : Core) (p : Part), x = s.ev9.core c → p = s.ev9.part (partOf c) →
    ((x.halfA.phase = .retryDue ∨ x.halfB.phase = .retryDue) → s.ev9.up = true → p.runs = true → p.curl.held = false → p.stopped = false →
      Runs (.retryCurlFreeze c) s fun u => (u.ev9.part (partOf c)).curl.curled = true
        ∧ CurlCause.retry c ∈ (u.ev9.part (partOf c)).curl.causes ∧ (u.ev9.part (partOf c)).curl.causeNow = some 7
        ∧ (x.halfA.phase = .retryDue → (u.ev9.core c).halfA = { x.halfA with phase := .retryFrozen })
        ∧ (x.halfB.phase = .retryDue → (u.ev9.core c).halfB = { x.halfB with phase := .retryFrozen })
        ∧ u.ev9.mem = s.ev9.mem ∧ (∀ k, k ≠ c.val → u.ev9.core k = s.ev9.core k) ∧ (∀ k, k ≠ partOf c → u.ev9.part k = s.ev9.part k))
    ∧ (∀ (h : Half2) (run : Run), h = (if x.halfA.phase = .retryFrozen then .A else .B) → (x.half h).phase = .retryFrozen →
        (x.half h).run = some run → (x.half (otherHalf h)).phase ≠ .replayed → s.ev9.up = true → p.curl.held = false →
        p.stopped = false →
        ((presentTile c h run.entry (tileIters run.entry run.tile) (onCore c (Core.onHalf h fun a =>
          { a.clear with held := a.held, run := some run }) s)).ev9.part (partOf c)).curl.held = false →
        Runs (.abftRetryReplay c) s fun u => ((u.ev9.core c).half h).phase = .replayed
          ∧ (u.ev9.core c).abft.injArm = false ∧ (u.ev9.core c).half (otherHalf h) = x.half (otherHalf h))
    ∧ (∀ (path : RegPath) (v : Dword), path = .pf ∨ path = .smb0 → s.pathUp path = true →
        (s.pathRole path ≠ .operator → Runs (.abftInjectArm path c v) s fun u =>
          (u.ev9.core c).abft = { x.abft with
            injArm := v.getLsbD 0, injRow := v.extractLsb' 8 9, injColumn := v.extractLsb' 17 9, injBit := v.extractLsb' 26 5 }
          ∧ (∃ a, u.ev9.svc.audit.getLast? = some a ∧ a.kind = 5 ∧ a.what = BitVec.ofNat 32 (0x3080040 + 0x100 * c.val))
          ∧ (∀ k, k ≠ c.val → u.ev9.core k = s.ev9.core k) ∧ u.ev9.parts = s.ev9.parts ∧ u.ev9.mem = s.ev9.mem)
        ∧ (s.pathRole path = .operator → Runs (.abftInjectArm path c v) s fun u => u.ev9.cores = s.ev9.cores
          ∧ (∃ a, u.ev9.svc.audit.getLast? = some a ∧ a.kind = 4 ∧ a.status = 0x12)
          ∧ u.ev9.parts = s.ev9.parts ∧ u.ev9.mem = s.ev9.mem))

/-- MOVER_ITERATION_START reads the next iteration's rows, in walk order, and changes no memory; of a send the rows become flits that wait to leave the
core. MOVER_ITERATION_COMPLETE of a copy or a fill writes within the lines of its walk through D alone and counts the iteration, and of a send whose
flits have left changes no memory of its core (R128, R205, R206, R209, R210). FLIT_ARRIVAL_WRITE takes the oldest flit that has come over the crossing:
a partition that is not ON discards it; a first flit captures the descriptor of handle dh, and one whose descriptor is invalid is a bounds fault of the receiving core
with engine 2; a flit of a transfer whose first flit never came is only counted as a sequence error of its port (R207, R217, R266, R267, R290). -/
def Obligations.MoverAndFlits : Prop :=
  (∀ (c : CoreId) (s : State) (x : Core), x = s.ev9.core c → s.ev9.coreLive c = true →
      (∀ q, x.moverNext = some q → q.active = false → (q.op = 0xD0 ∨ q.op = 0xD1) →
        (moverSource c q (x.begun q)).readFault s.ev9 ((moverSource c q (x.begun q)).lines.map fun l => l.addr) = none →
        Runs (.moverIterationStart c) s fun u => (u.ev9.core c) = { x with bufs := x.bufs ++ [⟨q, x.begun q,
            ((moverSource c q (x.begun q)).readRows s.ev9).map fun r => (r.bytes, r.poison)⟩] }
          ∧ u.ev9.mem = s.ev9.mem ∧ (∀ k, k ≠ c.val → u.ev9.core k = s.ev9.core k))
      ∧ (∀ q, x.moverNext = some q → q.active = false → q.op = 0xD2 →
        (moverSource c q (x.begun q)).readFault s.ev9 ((moverSource c q (x.begun q)).lines.map fun l => l.addr) = none →
        Runs (.moverIterationStart c) s fun u => ∃ fs : List SendFlit, (u.ev9.core c) = { x with
            bufs := x.bufs ++ [⟨q, x.begun q, ((moverSource c q (x.begun q)).readRows s.ev9).map fun r => (r.bytes, r.poison)⟩]
            sendq := x.sendq ++ fs, sendCarry := (u.ev9.core c).sendCarry }
          ∧ (∀ f ∈ fs, f.entry = q.id ∧ f.iter = x.begun q ∧ f.flit.part = partOf c ∧ f.flit.h.dpos = dbits q.w.w1 9 0
              ∧ f.flit.h.dcore = dbits q.w.w1 15 10 ∧ f.flit.h.kind = 0)
          ∧ u.ev9.mem = s.ev9.mem ∧ (∀ k, k ≠ c.val → u.ev9.core k = s.ev9.core k))
      ∧ (∀ q, x.moverNext = some q → q.active = false → q.op = 0xD3 → Runs (.moverIterationStart c) s fun u => OnlyCore c s u
          ∧ u.ev9.core c = { x with bufs := x.bufs ++ [⟨q, x.begun q, []⟩] })
      ∧ (∀ b rest, x.bufs = b :: rest → (b.entry.op = 0xD0 ∨ b.entry.op = 0xD3) → x.hasSent b = true →
        (moverWrites c b (activity (partOf c) 7 (15 * (if b.entry.op = 0xD3 then descRowCount b.entry.descD * rowLines b.entry.descD
            else (rowsToLines b.rows).length)) (onCore c (fun x => { x with bufs := rest }) s))).2 = true →
        Runs (.moverIterationComplete c) s fun u => (u.ev9.core c).bufs = rest
          ∧ (∀ a, (∀ l ∈ walkLines b.entry.descD (lpOffset b.entry.lp .D b.iter), a < l.addr ∨ l.addr + 64 ≤ a) →
              memRead u.ev9.mem a = memRead s.ev9.mem a)
          ∧ (∀ q ∈ (u.ev9.core c).qMover, q.id = b.entry.id → q.done = b.iter + 1)
          ∧ (∀ k, k ≠ c.val → u.ev9.core k = s.ev9.core k))
      ∧ (∀ b rest, x.bufs = b :: rest → b.entry.op = 0xD2 → (∀ f ∈ x.sendq, ¬ (f.entry = b.entry.id ∧ f.iter = b.iter)) → Runs (.moverIterationComplete c) s fun u => (u.ev9.core c).bufs = rest
          ∧ u.ev9.mem = s.ev9.mem ∧ (∀ q ∈ (u.ev9.core c).qMover, q.id = b.entry.id → q.done = b.iter + 1)
          ∧ (∀ k, k ≠ c.val → u.ev9.core k = s.ev9.core k)))
  ∧ (∀ (c : CoreId) (f : Flit) (rest : List Flit) (s : State) (h : Header) (x : Core), h = headerOf f.hdr →
      x = s.ev9.core c → s.ev9.coreLive c = true → x.inbox = f :: rest → f.wait = 0 → h.kind = 0 →
      ((s.ev9.part (partOf c)).state ≠ .on → Runs (.flitArrivalWrite c f.port f.hdr f.payload) s fun u =>
        u.ev9.noc.drop = satAdd s.ev9.noc.drop 1 ∧ u.ev9.core c = { x with inbox := rest }
        ∧ (∀ k, k ≠ c.val → u.ev9.core k = s.ev9.core k) ∧ u.ev9.mem = s.ev9.mem)
      ∧ (∀ port : PortId, (s.ev9.part (partOf c)).state = .on → h.first = false → tfind x.rx (256 * h.vc + h.dh) = none →
        f.port = some port → Runs (.flitArrivalWrite c f.port f.hdr f.payload) s fun u =>
          (u.ev9.port port).errSeq = satAdd (s.ev9.port port).errSeq 1 ∧ u.ev9.mem = s.ev9.mem
          ∧ u.ev9.core c = { x with inbox := rest } ∧ (∀ k, k ≠ c.val → u.ev9.core k = s.ev9.core k))
      ∧ (∀ r, (s.ev9.part (partOf c)).state = .on → h.first = true → descFault (tget 0 x.handles h.dh) = some r →
        Runs (.flitArrivalWrite c f.port f.hdr f.payload) s fun u =>
        (u.ev9.core c).bounds = true ∧ (u.ev9.part (partOf c)).curl.held = true ∧ u.ev9.mem = s.ev9.mem
        ∧ ∃ f, tfind u.ev9.svc.faults (s.ev9.svc.faultSeq.toNat % 256) = some f ∧ f.cause = 0x0700 ∧ f.source = 3
          ∧ f.d0.toNat = r.code ∧ f.d1.toNat = h.dh + 0x200)
      ∧ ((s.ev9.part (partOf c)).state = .on → h.first = true → h.seq = 0 → h.half = true → h.rsig = false → descFault (tget 0 x.handles h.dh) = none →
        ∀ l, walkLines (tget 0 x.handles h.dh) 0 = l :: (walkLines (tget 0 x.handles h.dh) 0).tail → l.addr % 64 = 0 →
        (∀ off, placeOf l.addr ≠ .window off) →
        s.ev9.checkLine c true true (descBase (tget 0 x.handles h.dh)) (descLimit (tget 0 x.handles h.dh)) l.addr = .pass →
        Runs (.flitArrivalWrite c f.port f.hdr f.payload) s fun u =>
          (∀ k, k < min 64 (descL0 (tget 0 x.handles h.dh)) → memRead u.ev9.mem (l.addr + k) = byteAt (padTo 64 (slice f.payload 0 64)) k)
          ∧ (∀ a, a < l.addr ∨ l.addr + 64 ≤ a → memRead u.ev9.mem a = memRead s.ev9.mem a)
          ∧ (∃ r, tfind (u.ev9.core c).rx (256 * h.vc + h.dh) = some r ∧ r.desc = tget 0 x.handles h.dh ∧ r.pos = 0)
          ∧ (u.ev9.core c).handles = x.handles ∧ (u.ev9.core c).acorns = x.acorns))

/-- VECTOR_INSN_START takes the vl in force and the number of passes, or faults the instruction whose vl is above VLMAX with reason 0; VECTOR_PASS of
an arithmetic instruction whose flags trap nothing writes the active elements of its pass to register D, zeros to inactive ones under MZ, and touches
no other register and no memory (R224, R225, R228, R232, R248, R249). VECTOR_INSN_COMPLETE takes the instruction whose passes are over off its queue;
it signals its counter once if it is to, and no register changes (R132, R134, R248). Clauses that go beyond the spec's words rest on the model's
choices of log 26. -/
def Obligations.VectorInstructions : Prop :=
  (∀ (c : CoreId) (s : State) (x : Core) (q : QEntry), x = s.ev9.core c → s.ev9.coreLive c = true → x.vectorNext = some q →
      (q.active = false → x.reachVector = x → 0xE8 ≤ q.op.toNat → q.op.toNat ≤ 0xF5 →
        ((regElems (fmtWide16 q.w.fmt.toNat) < x.vec.vl.toNat → Runs (.vectorInsnStart c) s fun u =>
            (u.ev9.core c).vec.flags.getLsbD 4 = true ∧ (u.ev9.part (partOf c)).curl.held = true ∧ u.ev9.mem = s.ev9.mem
            ∧ ∃ f, tfind u.ev9.svc.faults (s.ev9.svc.faultSeq.toNat % 256) = some f ∧ f.cause = 0x0600 ∧ f.d0 = 0)
        ∧ (x.vec.vl.toNat ≤ regElems (fmtWide16 q.w.fmt.toNat) → Runs (.vectorInsnStart c) s fun u => OnlyCore c s u
            ∧ (∃ e ∈ (u.ev9.core c).qVector, e.id = q.id ∧ e.active = true ∧ e.vl = x.vec.vl ∧ 1 ≤ e.passes)
            ∧ (u.ev9.core c).vec = x.vec)))
      ∧ (q.active = true → q.vl ≠ 0 → q.op.toNat ∈ [0xE8, 0xE9, 0xEA, 0xEB, 0xEC, 0xED, 0xEE, 0xEF, 0xF0, 0xF1, 0xF2] →
        q.vl.toNat ≤ regElems (fmtWide16 q.w.fmt.toNat) → x.vec.ctrl = 0 → vRnd q.w ≠ 3 → Runs (.vectorPass c) s fun u =>
          (∀ e, q.done * passWidth q ≤ e → e < (q.done + 1) * passWidth q → e < q.vl.toNat →
            e < regElems (fmtWide16 q.w.fmt.toNat) →
            (u.ev9.core c).vec.elem (fmtWide16 q.w.fmt.toNat) q.w.d.toNat e =
              if x.vec.active q e then
                (elemResult x.vec q (elemRnd x.vec.seedRun s.fresh c q e) e).bits % (if fmtWide16 q.w.fmt.toNat then 2 ^ 16 else 2 ^ 32)
              else if vZero q.w then 0 else x.vec.elem (fmtWide16 q.w.fmt.toNat) q.w.d.toNat e)
          ∧ (∀ r e, r ≠ q.w.d.toNat → e < 2048 → tget 0 (u.ev9.core c).vec.regs (2048 * r + e) = tget 0 x.vec.regs (2048 * r + e))
          ∧ (u.ev9.core c).vec.masks = x.vec.masks ∧ (u.ev9.core c).vec.passes = satAdd x.vec.passes 1
          ∧ u.ev9.mem = s.ev9.mem ∧ (∀ k, k ≠ c.val → u.ev9.core k = s.ev9.core k) ∧ u.fresh = s.fresh))
  ∧ (∀ (c : CoreId) (s : State) (x : Core), x = s.ev9.core c → s.ev9.coreLive c = true →
      (∀ e, x.qVector = [e] → e.finished = false → e.active = true → e.op ≠ 0xFC → e.op ≠ 0xC0 → e.op ≠ 0xC1 → e.op ≠ 0xFD →
        e.passes ≤ e.done → (∀ j ∈ x.qMatrix ++ x.qMover, j.id ≠ e.id) → Runs (.vectorInsnComplete c) s fun u =>
          ButNotes (OnlyCore c s) s u ∧ (u.ev9.core c).qVector = [] ∧ (e.w.sig = false → (u.ev9.core c).acorns = x.acorns)
          ∧ (e.w.sig = true → ((u.ev9.core c).acorn e.w.ac.toNat).value = satAdd (x.acorn e.w.ac.toNat).value 1)
          ∧ (u.ev9.core c).vec.regs = x.vec.regs))

/-- The integer arithmetic of R242 on INT32: add, subtract and multiply modulo 2^32, signed maximum and minimum, the logical operations, and the
unchanged operand of a move. -/
def Obligations.IntegerElements : Prop :=
  ∀ (v : Vec) (q : QEntry) (mode : Rnd) (e : Nat) (a b r : BitVec 32), q.w.fmt = 9 → e < 1024 →
    a = BitVec.ofNat 32 (v.elem false q.w.a.toNat e) →
    b = (if q.w.mods.getLsbD 7 then q.w.w1.extractLsb' 0 32 else BitVec.ofNat 32 (v.elem false q.w.b.toNat e)) →
    r = BitVec.ofNat 32 (elemResult v q mode e).bits →
    (q.op = 0xE8 → r.toNat = (a.toNat + b.toNat) % 2 ^ 32) ∧ (q.op = 0xE9 → r.toNat = (a.toNat + 2 ^ 32 - b.toNat) % 2 ^ 32)
    ∧ (q.op = 0xEA → r.toNat = a.toNat * b.toNat % 2 ^ 32)
    ∧ (q.op = 0xEC → r.toInt = max a.toInt b.toInt) ∧ (q.op = 0xED → r.toInt = min a.toInt b.toInt)

/-- FENCE_COMPLETE: with the fence at the head of every queue that holds it, it leaves them all and signals once if it is to. BALLAST_COMPLETE: the
ballast leaves its queue (R211, R212). ASU_LINE_ACCESS: a line beyond the limit is a bounds fault with reason 0, one out of reach with reason 2; a
sealed line is discarded and reported; an access to a bank that refreshes waits as an absent read; a masked write changes the 16-byte units that its
mask selects, and no other byte, and one to scratch arrives there under its stamp (R108). TIMER_EXPIRY of a timer whose beats have passed adds 1 to
its counter and disarms it. WAITLOCK after 8 beats of its condition and WAITSTALL after CORE_WAIT_LIMIT_c beats, at least 256, set their bit, hold
the partition and are recorded (R103, R139, R143–R149). Clauses that go
beyond the spec's words rest on the model's choices of log 20. -/
def Obligations.FencesAccessesAndWaits : Prop :=
  (∀ (c : CoreId) (s : State) (x : Core), x = s.ev9.core c → s.ev9.coreLive c = true →
      (∀ id, x.readyFence = some id → Runs (.fenceComplete c) s fun u => ButNotes (OnlyCore c s) s u
        ∧ (∀ e ∈ (u.ev9.core c).entries, e.id ≠ id)
        ∧ ((x.entries.find? fun e => e.id == id).any (fun e => e.w.sig) = false → (u.ev9.core c).acorns = x.acorns))
      ∧ (∀ e q, x.current e = some q → q.op = 0xFC → q.active = true → x.queue e = [q] → Runs (.ballastComplete c e) s fun u =>
        (u.ev9.core c).queue e = [] ∧ u.ev9.mem = s.ev9.mem ∧ (∀ k, k ≠ c.val → u.ev9.core k = s.ev9.core k)))
  ∧ (∀ (c : CoreId) (s : State) (x : Core), x = s.ev9.core c → s.ev9.coreLive c = true →
      (∀ e r (line : Addr) kind ecc w a, a = line.toNat / 64 * 64 → accessWalker c x e r a = some w → kind.removed = false →
        (∀ b, w.check s.ev9 kind.isWrite a = .bounds b → Runs (.asuLineAccess c e r line kind ecc) s fun u =>
          (u.ev9.core c).bounds = true ∧ (u.ev9.part (partOf c)).curl.held = true ∧ u.ev9.mem = s.ev9.mem
          ∧ ∃ f, tfind u.ev9.svc.faults (s.ev9.svc.faultSeq.toNat % 256) = some f ∧ f.cause = 0x0700 ∧ f.d0.toNat = b.code)
        ∧ (w.check s.ev9 kind.isWrite a = .sealed → Runs (.asuLineAccess c e r line kind ecc) s fun u => u.ev9.mem = s.ev9.mem
          ∧ u.ev9.cores = s.ev9.cores
          ∧ ∃ f, tfind u.ev9.svc.faults (s.ev9.svc.faultSeq.toNat % 256) = some f ∧ f.cause = 0x0700 ∧ f.d0 = 1)
        ∧ (∀ k ch, s.ev9.refreshing a = some (k, ch) → w.check s.ev9 kind.isWrite a = .pass →
          Runs (.asuLineAccess c e r line kind ecc) s fun u => u.ev9.mem = s.ev9.mem ∧ u.ev9.cores = s.ev9.cores ∧ u.ev9.scr = s.ev9.scr
            ∧ ∃ b ∈ (u.ev9.part (partOf c)).curl.absent, b.item = .read k ch)
        ∧ (∀ d m k off, kind = .write d m → placeOf a = .scratch k off → w.check s.ev9 true a = .pass →
          Runs (.asuLineAccess c e r line kind ecc) s fun u => u.ev9.mem = s.ev9.mem ∧ u.ev9.cores = s.ev9.cores
            ∧ u.ev9.scr = s.ev9.scr ++ [⟨k, s.ev9.stampBeat k, c, engineUnit e, match reduction? x e with
                | some (fmt, op) => ScrKind.atomic fmt op.code none
                | none => ScrKind.write, (maskedUnits a d m).map fun y => ⟨y.addr, y.bytes, false⟩⟩])
        ∧ (∀ d m, kind = .write d m → d.length = 64 → reduction? x e = none → s.ev9.refreshing a = none →
          (∀ off, placeOf a ≠ .window off) → (∀ k off, placeOf a ≠ .scratch k off) →
          w.check s.ev9 true a = .pass → Runs (.asuLineAccess c e r line kind ecc) s fun u =>
            (∀ k, k < 64 → memRead u.ev9.mem (a + k) = if m.getLsbD (k / 16) then byteAt d k else memRead s.ev9.mem (a + k))
            ∧ (∀ k, k < a ∨ a + 64 ≤ k → memRead u.ev9.mem k = memRead s.ev9.mem k) ∧ u.ev9.cores = s.ev9.cores)
        ∧ (kind = .read → ecc = .clean → s.ev9.refreshing a = none → w.check s.ev9 false a = .pass → Runs (.asuLineAccess c e r line kind ecc) s fun u =>
          u = { s with ev9 := { s.ev9 with parts := u.ev9.parts } }))
      ∧ (∀ i : Fin 8, (tget {} x.timers i.val).armed = true → (tget {} x.timers i.val).beats = 0 →
        Runs (.timerExpiry c i) s fun u => ButNotes (OnlyCore c s) s u ∧ (tget {} (u.ev9.core c).timers i.val).armed = false
          ∧ ((u.ev9.core c).acorn (tget {} x.timers i.val).ac.toNat).value = satAdd (x.acorn (tget {} x.timers i.val).ac.toNat).value 1
          ∧ (∀ j, j ≠ i.val → tget {} (u.ev9.core c).timers j = tget {} x.timers j))
      ∧ (s.ev9.lockCond c = true → 8 ≤ x.lockBeats → Runs (.waitlock c) s fun u => (u.ev9.core c).waitlock = true
          ∧ (u.ev9.part (partOf c)).curl.held = true ∧ u.ev9.mem = s.ev9.mem
          ∧ ∃ f, tfind u.ev9.svc.faults (s.ev9.svc.faultSeq.toNat % 256) = some f ∧ f.cause = 0x0300 ∧ f.source = 0)
      ∧ (∀ t : ThreadId, (s.regs c t).state = .waiting → max 256 x.waitLimit.toNat ≤ (x.thread t).waitBeats.toNat → Runs (.waitstall c t) s fun u => (u.ev9.core c).waitstall = true
          ∧ (u.ev9.part (partOf c)).curl.held = true ∧ u.ev9.mem = s.ev9.mem
          ∧ ∃ f, tfind u.ev9.svc.faults (s.ev9.svc.faultSeq.toNat % 256) = some f ∧ f.cause = 0x0301 ∧ f.source = 0))

/-- DUE_CHECK raises a curl request for an absent item; for a flit, the slot entry of the beat and the head of its input say whether it is absent.
CURL_FREEZE, 16 beats after the item was due, freezes the group, and the clock and step of the partition stand. ITEM_ARRIVAL within 16 beats is a near
miss that cancels its item's request, later it ends its item's absence with its tag; CURL_RESUME, 16 beats after nothing holds the curl any more,
counts the curl and its beats and charges them to the tag of the item or cause that cleared last (R58–R60, R65, R75, R261). Clauses that go beyond the
spec's words rest on the model's choices of log 14. -/
def Obligations.CurlsOfAbsentItems : Prop :=
  ∀ (p : PartId) (s : State) (x : Part) (raised : Item → State → Prop), x = s.ev9.part p →
    raised = (fun item u => ButNotes (OnlyPart p s) s u ∧ (u.ev9.part p).clk = x.clk ∧ (u.ev9.part p).curl = { x.curl with
      request := true, clearFor := 0, absent := x.curl.absent ++ [⟨item, x.clk.stepBeat.toNat, s.ev9.delayCause item⟩] }) →
    (∀ item present, s.ev9.live p = true → (∀ r i v, item ≠ .flit r i v) → Runs (.dueCheck p item present) s fun u =>
      if present then u = s else raised item u)
    ∧ (∀ (r : Fin 30) (i : Fin 6) (v : Fin 4) present e, s.ev9.live p = true → s.ev9.dueEntry p r i v = some e →
      Runs (.dueCheck p (.flit r i v) present) s fun u =>
        if (s.ev9.dueBuf r i v e).any (fun f => f.wait == 0) then u = s else raised (.flit r i v) u)
    ∧ (∀ (r : Fin 30) (i : Fin 6) (v : Fin 4) present, s.ev9.dueEntry p r i v = none →
      Runs (.dueCheck p (.flit r i v) present) s fun u => u = s)
    ∧ (s.ev9.live p = true → (∃ a ∈ x.curl.absent, a.due + 16 ≤ x.clk.stepBeat.toNat) → Runs (.curlFreeze p) s fun u =>
      ButNotes (OnlyPart p s) s u
      ∧ u.ev9.part p = { x with curl := (u.ev9.part p).curl } ∧ (u.ev9.part p).curl.curled = true
      ∧ (u.ev9.part p).curl.breach = (x.curl.breach || s.ev9.chip.strict) ∧ (u.ev9.part p).curl.absent = x.curl.absent
      ∧ (u.ev9.part p).curl.count = x.curl.count ∧ u.ev9.live p = false)
    ∧ (∀ (item : Item) (d : Nat) (tag : Tag) (a : Absent), x.curl.absentOf item d = some a → x.curl.held = false →
      (s.ev9.arrivalTag a tag).2 = true →
      (x.curl.curled = false → x.clk.stepBeat.toNat ≤ d + 16 → Runs (.itemArrival p item d tag) s fun u =>
        u.ev9.part p = { x with curl := { x.curl with
            nearMiss := satAdd x.curl.nearMiss 1, absent := x.curl.absent.erase a, request := !(x.curl.absent.erase a).isEmpty } }
        ∧ (∀ q, q ≠ p.val → u.ev9.part q = s.ev9.part q) ∧ u.ev9.mem = s.ev9.mem ∧ (a.cause ≠ some 1 → OnlyPart p s u))
      ∧ (x.curl.curled = true → Runs (.itemArrival p item d tag) s fun u =>
        (u.ev9.part p).curl.absent = x.curl.absent.erase a ∧ (u.ev9.part p).clk = x.clk
        ∧ (u.ev9.part p).curl.lastTag = (s.ev9.arrivalTag a tag).1
        ∧ (u.ev9.part p).curl.lastUntagged = (s.ev9.arrivalTag a tag).1.isNone ∧ (u.ev9.part p).curl.curled = true
        ∧ (∀ q, q ≠ p.val → u.ev9.part q = s.ev9.part q) ∧ u.ev9.mem = s.ev9.mem ∧ (a.cause ≠ some 1 → OnlyPart p s u)))
    ∧ (∀ (code : Fin 8) (beats : Nat), x.curl.curled = true → x.curl.held = false → x.curl.absent = [] → x.curl.causes = [] → 16 ≤ beats → beats ≤ x.curl.clearFor →
      x.runs = true → code = x.curl.lastTag.getD 0 → Runs (.curlResume p beats) s fun u =>
        (u.ev9.part p).curl.curled = false ∧ (u.ev9.part p).curl.count = satAdd x.curl.count 1
        ∧ (u.ev9.part p).curl.beats = satAdd x.curl.beats x.curl.lasted
        ∧ tget 0 (u.ev9.part p).curl.histCount code.val = satAdd (tget 0 x.curl.histCount code.val) 1
        ∧ (∀ k, k ≠ code.val → tget 0 (u.ev9.part p).curl.histCount k = tget 0 x.curl.histCount k)
        ∧ (u.ev9.part p).curl.lag = some code ∧ u.ev9.mem = s.ev9.mem)

/-- CURL_TIMEOUT, once the curl has lasted CURL_LIMIT beats, at least 4,096, holds the partition and is recorded with cause 0x0900 and the name of what
is awaited; CREDIT_CURL, CUE_WAIT_CURL and, in strict mode, DROOP_CHANGE open the causes of R61, and DROOP_STOP_END, 16 beats after every island of
the group is below 25 mV, closes that of a droop; an island above 60 mV stops until it falls below 60 mV (R51, R52, R61, R67, R79). Clauses that go
beyond the spec's words rest on the model's choices of log 14, 25. -/
def Obligations.CurlsOfOtherCauses : Prop :=
  (∀ (p : PartId) (s : State) (x : Part), x = s.ev9.part p →
    (x.curl.curled = true → x.curl.held = false → (x.curl.absent ≠ [] ∨ x.curl.causes ≠ []) →
      max 4096 s.ev9.chip.curlLimit.toNat ≤ x.curl.lasted → Runs (.curlTimeout p) s fun u =>
      (u.ev9.part p).curl.held = true ∧ (u.ev9.part p).curl.curled = true ∧ (u.ev9.part p).curl.timeout = true
      ∧ (u.ev9.part p).curl.count = satAdd x.curl.count 1 ∧ (u.ev9.part p).clk = x.clk
      ∧ (u.ev9.part p).curl.beats = satAdd x.curl.beats (max 4096 s.ev9.chip.curlLimit.toNat)
      ∧ Recorded 6 0x0900 0 s u ∧ u.ev9.svc.faultSeq = s.ev9.svc.faultSeq + 1
      ∧ (∃ f, tfind u.ev9.svc.faults (s.ev9.svc.faultSeq.toNat % 256) = some f ∧ f.d1 = x.curl.awaited)
      ∧ u.ev9.mem = s.ev9.mem ∧ u.ev9.cores = s.ev9.cores ∧ ∀ q, q ≠ p.val → u.ev9.part q = s.ev9.part q)
    ∧ (∀ (of : CreditOf) (vc : Fin 4), s.ev9.live p = true → s.ev9.hasCredit of vc = false → s.ev9.creditDue of vc = true →
      s.ev9.sendsOn p vc = true → Runs (.creditCurl p of vc) s fun u => ButNotes (OnlyPart p s) s u
        ∧ (u.ev9.part p).curl.curled = true ∧ CurlCause.credit of vc ∈ (u.ev9.part p).curl.causes
        ∧ (u.ev9.part p).curl.causeNow = some 3 ∧ (u.ev9.part p).clk = x.clk)
    ∧ (CurlCause.droop ∈ x.curl.causes → x.curl.curled = true → x.curl.held = false → 16 ≤ x.clk.droopOver →
      (x.curl.causes = [.droop] → x.curl.absent = [] →
        Runs (.droopStopEnd p) s fun u => (u.ev9.part p).curl.curled = false ∧ (u.ev9.part p).curl.causes = []
          ∧ (u.ev9.part p).curl.count = satAdd x.curl.count 1 ∧ u.ev9.mem = s.ev9.mem)
      ∧ ((∃ k ∈ x.curl.causes, k ≠ .droop) ∨ x.curl.absent ≠ [] → Runs (.droopStopEnd p) s fun u => OnlyPart p s u
          ∧ (u.ev9.part p).curl.curled = true ∧ (u.ev9.part p).curl.causes = x.curl.causes.filter (· ≠ .droop)
          ∧ (u.ev9.part p).curl.count = x.curl.count)))
  ∧ (∀ (t : BitVec 16) (s : State) (m : Member), s.ev9.member? t.toNat = some m → m.run = .running → m.inStep = false → m.position ≠ 0 →
      m.cueDue = none → m.cueCurl = false → 16 < m.waited → (∀ q ∈ m.parts, (s.ev9.part q).free = true) → Runs (.cueWaitCurl t) s fun u =>
        (∀ q ∈ m.parts, (u.ev9.part q).curl.curled = true ∧ CurlCause.cue ∈ (u.ev9.part q).curl.causes
          ∧ (u.ev9.part q).curl.causeNow = some 4 ∧ (u.ev9.part q).curl.lasted = m.waited)
        ∧ (∀ q, q ∉ m.parts → u.ev9.part q = s.ev9.part q)
        ∧ u.ev9.member? t.toNat = some { m with cueCurl := true }
        ∧ ButNotes (fun v => v = { s with ev9 := { s.ev9 with parts := v.ev9.parts, members := v.ev9.members } }) s u)
  ∧ (∀ (i : Island) (mv p k : Nat) (s : State) (x : Part), islandAt i = (p, k) → x = s.ev9.part p → x.state ≠ .off →
      Runs (.droopChange i mv) s fun u => ButNotes (OnlyPart p s) s u
        ∧ (u.ev9.part p).clk = { x.clk with
            isl := (u.ev9.part p).clk.isl, droopOver := if 25 ≤ mv then 0 else x.clk.droopOver
            droopCount := if x.drooping = false ∧ 15 ≤ mv then satAdd x.clk.droopCount 1 else x.clk.droopCount }
        ∧ (u.ev9.part p).island k = { x.island k with
            mv := mv, deep := if 60 < mv then true else if mv < 60 then false else (x.island k).deep }
        ∧ (∀ j, j ≠ k → (u.ev9.part p).island j = x.island j)
        ∧ (if s.ev9.chip.strict = true ∧ x.runs = true ∧ x.curl.held = false ∧ x.stopped = false
              ∧ ((List.range 10).any fun j => decide (35 ≤ ((u.ev9.part p).island j).mv)) = true then
            (u.ev9.part p).curl.curled = true ∧ CurlCause.droop ∈ (u.ev9.part p).curl.causes
          else (u.ev9.part p).curl = x.curl))

/-- The loss of TRCLK is recorded once, and twice on a strict chip; its return ends the holdover, and the frequency error it then reports is a free
value; the trainings that waited for it start; a glide ends, and with it a brake curl (R49, R50, R381). A 1 in CURL_CLEAR_p zeroes every CURL_ counter of the partition and touches no other
partition; CURL_LIMIT takes an installer's value and refuses an operator's, and both are recorded; the low half of a counter is read with the high
half latched for the same carrier, and half of another register as it stands (R6, R7, R73, R74, R453). Clauses that go beyond the spec's words rest on the model's choices of log 4. -/
def Obligations.ClockAndCurlRegisters : Prop :=
  (∀ s : State,
      (s.ev9.chip.trPresent = true → Runs .trclkLoss s fun u => u.ev9.chip.trPresent = false ∧ u.ev9.chip.trLost = true
        ∧ u.ev9.chip.trHoldover = true ∧ Recorded 6 0x0900 1 s u ∧ u.ev9.parts = s.ev9.parts ∧ u.ev9.cores = s.ev9.cores
        ∧ u.ev9.svc.faultSeq = s.ev9.svc.faultSeq + (if s.ev9.chip.strict then 2 else 1))
      ∧ (s.ev9.chip.trPresent = false → s.ev9.chip.trHoldover = true → Runs .trclkReturn s fun u =>
        u = { s with fresh := u.fresh, ev9 := { s.ev9 with ports := u.ev9.ports, chip := { s.ev9.chip with
          trPresent := true, trHoldover := false, freqErr := u.ev9.chip.freqErr } } }
        ∧ ∀ n, n < 12 → u.ev9.port n = match (s.ev9.port n).wants with
          | some k => (s.ev9.port n).trainAs k
          | none => s.ev9.port n)
      ∧ ∀ p : PartId, (s.ev9.part p).clk.glide = true → s.ev9.up = true →
        ((s.ev9.part p).curl.causes.contains .brake = false → Runs (.glideComplete p) s fun u =>
          u.ev9.part p = { s.ev9.part p with clk := { (s.ev9.part p).clk with glide := false } }
          ∧ (∀ q, q ≠ p.val → u.ev9.part q = s.ev9.part q) ∧ u.ev9.cores = s.ev9.cores ∧ u.ev9.mem = s.ev9.mem)
        ∧ ((s.ev9.part p).curl.causes.contains .brake = true → (∀ t m, s.ev9.memberOf p = some (t, m) → m.inStep = true) →
          Runs (.glideComplete p) s fun u =>
          (u.ev9.part p).clk.glide = false ∧ (u.ev9.part p).curl.causes.contains .brake = false ∧ u.ev9.mem = s.ev9.mem))
  ∧ (∀ (path : RegPath) (s : State) (v : Dword), path = .pf ∨ path = .smb0 → s.pathUp path = true →
      (∀ p : PartId, v.getLsbD 0 = true → Runs (.curlClear path p v) s fun u =>
        u.ev9.part p = { s.ev9.part p with curl := { (s.ev9.part p).curl with
          count := 0, beats := 0, untagged := 0, nearMiss := 0, histCount := [], histBeats := [] } }
        ∧ (∀ q, q ≠ p.val → u.ev9.part q = s.ev9.part q)
        ∧ u = { s with ev9 := { s.ev9 with parts := u.ev9.parts, sessPf := u.ev9.sessPf, sessSmb := u.ev9.sessSmb } })
      ∧ (s.pathRole path ≠ .operator → Runs (.curlLimitWrite path v) s fun u => u.ev9.chip = { s.ev9.chip with curlLimit := v.extractLsb' 0 32 }
        ∧ Audited 5 0 0x2000 u ∧ u.ev9.parts = s.ev9.parts)
      ∧ (s.pathRole path = .operator → Runs (.curlLimitWrite path v) s fun u => u.ev9.chip = s.ev9.chip ∧ Audited 4 0x12 0x2000 u
        ∧ u.ev9.parts = s.ev9.parts)
      ∧ (∀ (off : BitVec 26) (n : Nat), off.toNat % 8 = 0 → ev9Read s off.toNat = some ⟨true, n⟩ → Runs (.counterHalfRead path off) s fun u =>
        u.outbox = s.outbox ++ [.registerRead (BitVec.ofNat 32 n)]
        ∧ u.latch path = some ⟨off, BitVec.ofNat 32 (n / 2 ^ 32)⟩ ∧ u.ev9.parts = s.ev9.parts ∧ u.ev9.svc = s.ev9.svc)
      ∧ (∀ (off : BitVec 26) (n : Nat) (l : ReadLatch), off.toNat % 8 = 4 → ev9Read s (off.toNat - 4) = some ⟨true, n⟩ →
        s.latch path = some l → l.addr.toNat + 4 = off.toNat → Runs (.counterHalfRead path off) s fun u =>
        u.outbox = s.outbox ++ [.registerRead l.high] ∧ u.latch path = none
        ∧ u.latch (if path = .pf then .smb0 else .pf) = s.latch (if path = .pf then .smb0 else .pf))
      ∧ (∀ (off : BitVec 26) (n : Nat), off.toNat % 4 = 0 → ev9Read s (off.toNat / 8 * 8) = some ⟨false, n⟩ →
        Runs (.counterHalfRead path off) s fun u =>
          u.outbox = s.outbox ++ [.registerRead (BitVec.ofNat 32 (if off.toNat % 8 = 0 then n else n / 2 ^ 32))] ∧ u.ev9.chip = s.ev9.chip))

/-- STEP_END, once every partition has come to the end of the step: a member that waits for its cue stands before its next step; the ringmaster begins
its next step at once, every partition of it at beat 0, and issues that step's cue to its children; with STOP ordered the cue carries STOP and the
ringmaster stops; a member stops at the end of the step before the one that its STOP cue names (R26–R28, R32). CUE_ARRIVAL: a cue of another troupe,
or whose CRC-32 fails, is discarded, counted as a link error on its port, and gives back its place. A good one is forwarded to the children; its pace
is noted for step n + 2; within a step it waits its turn, and a STOP is kept for its step (R25, R27–R29, R32). Clauses that go beyond the spec's words
rest on the model's choices of log 15. -/
def Obligations.StepsAndCues : Prop :=
  (∀ (t : BitVec 16) (s : State) (m : Member), s.ev9.member? t.toNat = some m → m.run = .running → m.inStep = true →
      (∀ q ∈ m.parts, s.ev9.live q = true ∧ m.stepLength ≤ (s.ev9.part q).clk.stepBeat.toNat) →
      (∀ x, m.entryOf = some x → x.exitChip = false) →
      (m.position ≠ 0 → m.stopping ≠ some (m.step + 1) → (∀ c ∈ m.cues, c.2.step ≠ m.step + 1) → Runs (.stepEnd t) s
        (OnlyMember t.toNat { m with inStep := false, step := m.step + 1, waited := 0 } s))
      ∧ (m.position ≠ 0 → m.stopping = some (m.step + 1) → Runs (.stepEnd t) s fun u => (∃ m', u.ev9.member? t.toNat = some m' ∧ m'.run = .stopped
          ∧ m'.inStep = false ∧ m'.step = m.step + 1) ∧ u.ev9.mem = s.ev9.mem ∧ u.ev9.cores = s.ev9.cores)
      ∧ (m.position = 0 → m.stopNext = false → Runs (.stepEnd t) s fun u => (∃ m', u.ev9.member? t.toNat = some m' ∧ m'.run = .running
          ∧ m'.inStep = true ∧ m'.step = m.step + 1 ∧ m'.lastBegun = some (m.step + 1))
          ∧ (∀ q ∈ m.parts, (u.ev9.part q).clk.step = m.step + 1 ∧ (u.ev9.part q).clk.stepBeat = 0)
          ∧ (∀ k ∈ m.children, ∀ n, s.ev9.roleOf k = some n →
              ∃ c, Out.cue n c ∈ u.outbox ∧ c.troupe = t ∧ c.step = m.step + 1 ∧ c.stop = false)
          ∧ u.ev9.mem = s.ev9.mem)
      ∧ (m.position = 0 → m.stopNext = true → Runs (.stepEnd t) s fun u => (∃ m', u.ev9.member? t.toNat = some m' ∧ m'.run = .stopped)
          ∧ (∀ k ∈ m.children, ∀ n, s.ev9.roleOf k = some n →
              ∃ c, Out.cue n c ∈ u.outbox ∧ c.troupe = t ∧ c.step = m.step + 1 ∧ c.stop = true)
          ∧ u.ev9.mem = s.ev9.mem))
  ∧ (∀ (port : PortId) (cue : List Byte) (good : Bool) (s : State) (c : Cue), c = parseCue cue →
      ((s.forTroupe port c.troupe = none ∨ cueCrcOk cue = false) → Runs (.cueArrival port cue good) s fun u =>
        OnlyPortOut port s u ∧ u.ev9.port port = { s.ev9.port port with
          errCue := satAdd (s.ev9.port port).errCue 1
          cwOk := if good then satAdd (s.ev9.port port).cwOk 1 else (s.ev9.port port).cwOk
          lastUse := s.ev9.noc.edgeBeat }
        ∧ u.outbox = s.outbox ++ [.credit port 0 1])
      ∧ ∀ m, s.forTroupe port c.troupe = some m → s.ev9.member? c.troupe.toNat = some m → cueCrcOk cue = true →
        (c.stop = true → m.inStep = true → Runs (.cueArrival port cue good) s fun u =>
          u.ev9.member? c.troupe.toNat = some { m with stopping := some c.step }
          ∧ (∀ k ∈ m.children, ∀ n, s.ev9.roleOf k = some n → Out.cue n c ∈ u.outbox) ∧ u.ev9.parts = s.ev9.parts)
        ∧ (c.stop = false → m.inStep = true → m.run = .running → Runs (.cueArrival port cue good) s fun u =>
          (∃ m', u.ev9.member? c.troupe.toNat = some m' ∧ m'.cues = m.cues ++ [(port, c)]
            ∧ tfind m'.paces (c.step.toNat + 2) = some c.pace.val ∧ m'.inStep = true ∧ m'.step = m.step)
          ∧ (∀ k ∈ m.children, ∀ n, s.ev9.roleOf k = some n → Out.cue n c ∈ u.outbox)
          ∧ u.ev9.mem = s.ev9.mem ∧ u.ev9.cores = s.ev9.cores))

/-- Control messages: the ringmaster of the port's own troupe takes READY, PACE_REQUEST, STOP_FORWARD and the admitted counts; a second READY of a
position spoils the start; any member takes a prepare notice and drops it at its expiry; a message for another troupe, or of an unknown type, is only
counted as a sequence error of its port (R30, R32, R35, R38, R43, R268, R379). -/
def Obligations.ControlMessages : Prop :=
  ∀ (port : PortId) (t pos : BitVec 16) (k : Fin 8) (s : State),
    (s.forTroupe port t = none →
      (∀ b n, Runs (.readyReceive port t pos k) s (OnlyPort port s) ∧ Runs (.paceRequestReceive port t pos k b n) s (OnlyPort port s)
        ∧ Runs (.prepareNoticeReceive port t k n) s (OnlyPort port s) ∧ Runs (.stopForwardReceive port t pos) s (OnlyPort port s))
      ∧ (∀ n, Runs (.admitCountReceive port t pos n) s fun u => OnlyPort port s u
          ∧ u.ev9.port port = { s.ev9.port port with errSeq := satAdd (s.ev9.port port).errSeq 1 }))
    ∧ (∀ ty : Byte, (ty = 0 ∨ 4 < ty.toNat) → Runs (.unknownControlMessage port ty) s fun u => OnlyPort port s u
        ∧ u.ev9.port port = { s.ev9.port port with errSeq := satAdd (s.ev9.port port).errSeq 1 })
    ∧ ∀ m, s.forTroupe port t = some m → s.ev9.member? t.toNat = some m →
      (m.position = 0 → ∀ g, m.image = some g → m.run = .starting → m.ready.contains pos.toNat = false → pos.toNat < g.members →
        (∀ i ∈ m.ready, i < g.members) → (∃ i, i < g.members ∧ i ≠ pos.toNat ∧ m.ready.contains i = false) → Runs (.readyReceive port t pos k) s
          (OnlyMember t.toNat { m with ready := sadd m.ready pos.toNat, requests := tins m.requests pos.toNat k.val } s))
      ∧ (m.position = 0 → m.ready.contains pos.toNat = true → Runs (.readyReceive port t pos k) s fun u =>
        u.ev9.member? t.toNat = some { m with badStart := some pos.toNat, rerun := none } ∧ u.ev9.parts = s.ev9.parts)
      ∧ (m.position = 0 → ∀ b n, Runs (.paceRequestReceive port t pos k b n) s
          (OnlyMember t.toNat { m with requests := tins m.requests pos.toNat k.val } s))
      ∧ (∀ n, Runs (.prepareNoticeReceive port t k n) s fun u => u.ev9.member? t.toNat = some { m with prepared := some k, preparedAge := 0 }
          ∧ (∀ c ∈ m.children, ∀ j, s.ev9.roleOf c = some j → Out.prepare t j k ∈ u.outbox) ∧ u.ev9.parts = s.ev9.parts)
      ∧ (m.prepared.isSome = true → 20 ≤ m.preparedAge → Runs (.prepareExpiry t) s fun u =>
          u.ev9.member? t.toNat = some { m with prepared := none } ∧ u.ev9.parts = s.ev9.parts)
      ∧ (m.position = 0 → m.run = .running → Runs (.stopForwardReceive port t pos) s
          (OnlyMember t.toNat { m with stopNext := true } s))
      ∧ (m.position = 0 → ∀ n, Runs (.admitCountReceive port t pos n) s
          (OnlyMember t.toNat { m with admits := min 512 (m.admits + n) } s))

/-- ADMISSION_CUT, at its beat, binds the one candidate to the lowest free lane of the entry chip's range, with position 0 and the next generation, and is made once
a step; FEED_FETCH_COMPLETE puts the record, with the slot's identity in bytes 56–63, into the feed buffer of its step (R33, R34, R322, R323). Clauses
that go beyond the spec's words rest on the model's choices of log 4. -/
def Obligations.AdmissionAndFeeds : Prop :=
  ∀ (t : BitVec 16) (s : State) (m : Member), s.ev9.member? t.toNat = some m →
    (∀ x, m.entryOf = some x → x.entryChip = true → m.run = .running → m.inStep = true → m.cutDone = false →
      (∀ q ∈ m.parts, s.ev9.live q = true ∧ m.cutBeat ≤ (s.ev9.part q).clk.stepBeat.toNat) → m.cutsBefore ≤ m.step.toNat →
      Runs (.admissionCut t) s fun u => (∃ m', u.ev9.member? t.toNat = some m' ∧ m'.cutDone = true ∧ m'.step = m.step)
        ∧ u.ev9.parts = s.ev9.parts ∧ u.ev9.mem = s.ev9.mem
        ∧ ∀ n lane, s.ev9.slotsOf t.toNat .releasing = [] → (s.ev9.candidates t.toNat).zip (s.ev9.freeLanes t.toNat x) = [(n, lane)] →
          (u.ev9.slot n).state = .bound ∧ (u.ev9.slot n).lane = BitVec.ofNat 9 lane ∧ (u.ev9.slot n).position = 0
          ∧ u.ev9.hif.generation = nextGeneration s.ev9.hif.generation)
    ∧ (∀ (lane : Fin 512) (r : List Byte) (n : Nat) (g : StreamSlot) (k : FeedMark), r.length = 64 →
      (s.ev9.hif.slots.find? fun g => g.2.troupe.toNat == t.toNat && (g.2.state == .bound || g.2.state == .releasing)
        && !g.2.orphan && g.2.lane.toNat == lane.val) = some (n, g) →
      (g.history.reverse.find? fun x => x.fetched && decide (m.step.toNat ≤ x.step.toNat) && (tfind m.feed (512 * (x.step.toNat % 2) + lane.val)).isNone) = some k →
      Runs (.feedFetchComplete t lane r) s fun u => ∃ m', OnlyMember t.toNat m' s u
        ∧ tfind m'.feed (512 * (k.step.toNat % 2) + lane.val) = some (r.take 56 ++ leBytes 8 g.identity.toNat)
        ∧ m' = { m with feed := m'.feed })

/-- REFRESH_START makes an idle bank busy; FORCED_REFRESH, once its row has gone 7/8 of the window, does so and is counted; REFRESH_COMPLETE, after
the operation's length, refreshes the row and moves the rotation on by one of 384, and an uncorrectable word that it finds is poisoned, counted and
recorded. A carousel window begins at the beat of its plan and gives every bank of its core ⌊3,000 / length⌋ operations; at its end, 3,000 beats later,
they are complete and it is counted. BAND_FALL, after 100 ms, lowers the band by one; TIER_BAND.band_floor takes an installer's value, raises the band
to it at once, and refuses an operator's (R90–R97, R100, R113, R474). Clauses that go beyond the spec's words rest on the model's choices of log 28, 55. -/
def Obligations.RefreshAndBands : Prop :=
  ∀ (c : CoreId) (ch : Fin 4) (bank : Fin 16) (s : State) (i now : Nat) (b : Bank), i = 64 * c.val + 16 * ch.val + bank.val → b = s.ev9.bank i →
    now = (s.ev9.part (partOf c)).tier.clock → s.ev9.up = true →
    (s.ev9.carousel c = false → b.busy = false → Runs (.refreshStart c ch bank) s fun u => OnlyBanks s u
      ∧ u.ev9.bank i = { b with busy := true, forced := false, since := now } ∧ ∀ j, j ≠ i → u.ev9.bank j = s.ev9.bank j)
    ∧ (b.busy = false → 7 * retention s.ev9.therm.band.toNat ≤ 8 * (now - tget 0 b.last b.row) → Runs (.forcedRefresh c ch bank) s fun u =>
      u = { s with ev9 := { s.ev9 with banks := u.ev9.banks, parts := u.ev9.parts } }
      ∧ u.ev9.bank i = { b with busy := true, forced := true, since := now } ∧ (∀ j, j ≠ i → u.ev9.bank j = s.ev9.bank j)
      ∧ (u.ev9.part (partOf c)).tier = { (s.ev9.part (partOf c)).tier with forced := satAdd (s.ev9.part (partOf c)).tier.forced 1 }
      ∧ ∀ p, p ≠ partOf c → u.ev9.part p = s.ev9.part p)
    ∧ (b.busy = true → b.since + 63000 ≤ now → Runs (.refreshComplete c ch bank .clean) s fun u =>
      u = { s with ev9 := { s.ev9 with banks := u.ev9.banks, parts := u.ev9.parts } }
      ∧ (u.ev9.bank i).row = (b.row + 1) % 384 ∧ tget 0 (u.ev9.bank i).last b.row = now ∧ (u.ev9.bank i).left = b.left - 1
      ∧ ((u.ev9.bank i).busy = true ↔ 1 < b.left ∨ 0 < b.owed - (if b.forced = true ∨ b.left = 0 then 1 else 0))
      ∧ (∀ j, j ≠ i → u.ev9.bank j = s.ev9.bank j)
      ∧ (u.ev9.part (partOf c)).tier = { (s.ev9.part (partOf c)).tier with forced := (u.ev9.part (partOf c)).tier.forced }
      ∧ ∀ p, p ≠ partOf c → u.ev9.part p = s.ev9.part p)
    ∧ (∀ w, b.busy = true → b.since + 63000 ≤ now →
      placeOf (rowAddr c ch bank b.row (w % 128)) = .tier c (rowAddr c ch bank b.row (w % 128) % 0x4000000) →
      Runs (.refreshComplete c ch bank (.double w)) s fun u => (u.ev9.bank i).row = (b.row + 1) % 384
      ∧ u.ev9.poisoned (wordOf (rowAddr c ch bank b.row (w % 128))) = true
      ∧ (u.ev9.part (partOf c)).tier.ue = true ∧ (u.ev9.part (partOf c)).tier.ueCount = satAdd (s.ev9.part (partOf c)).tier.ueCount 1
      ∧ (∃ f, tfind u.ev9.svc.faults (s.ev9.svc.faultSeq.toNat % 256) = some f ∧ f.source = 4 ∧ f.cause = 0x0200 ∧ f.d2 = 1)
      ∧ u.ev9.mem = s.ev9.mem ∧ u.ev9.cores = s.ev9.cores)
    ∧ (s.ev9.carousel c = true → s.ev9.live (partOf c) = true → s.ev9.planned c = true → (s.ev9.core c).window = false →
      Runs (.carouselWindowStart c) s fun u => u = { s with ev9 := { s.ev9 with banks := u.ev9.banks, cores := u.ev9.cores } }
      ∧ u.ev9.core c = { s.ev9.core c with window := true, windowLeft := 3000 } ∧ (∀ k, k ≠ c.val → u.ev9.core k = s.ev9.core k)
      ∧ ∀ j, if 64 * c.val ≤ j ∧ j < 64 * c.val + 64 then
          (u.ev9.bank j).busy = true ∧ (u.ev9.bank j).left = 3000 / (250 - 25 * (s.ev9.part (partOf c)).clk.pace.val)
          ∧ (u.ev9.bank j).row = (s.ev9.bank j).row
        else u.ev9.bank j = s.ev9.bank j)
    ∧ ((s.ev9.core c).window = true → (s.ev9.core c).windowLeft = 0 → Runs (.carouselWindowEnd c) s fun u =>
      u = { s with ev9 := { s.ev9 with banks := u.ev9.banks, cores := u.ev9.cores, parts := u.ev9.parts } }
      ∧ u.ev9.core c = { s.ev9.core c with window := false } ∧ (∀ k, k ≠ c.val → u.ev9.core k = s.ev9.core k)
      ∧ (u.ev9.part (partOf c)).tier = { (s.ev9.part (partOf c)).tier with windows := satAdd (s.ev9.part (partOf c)).tier.windows 1 }
      ∧ (∀ p, p ≠ partOf c → u.ev9.part p = s.ev9.part p)
      ∧ ∀ j, if 64 * c.val ≤ j ∧ j < 64 * c.val + 64 then
          (u.ev9.bank j).left = 0 ∧ (u.ev9.bank j).row % 384 = ((s.ev9.bank j).row + (s.ev9.bank j).left) % 384
          ∧ (0 < (s.ev9.bank j).left → (u.ev9.bank j).busy = false)
        else u.ev9.bank j = s.ev9.bank j)
    ∧ (∀ k, k = s.ev9.therm.band.toNat → s.ev9.therm.bandFloor.toNat < k → 1000 ≤ s.ev9.therm.bandCool →
      (s.ev9.therm.tjMax.toNat : Int) + 5 ≤ (if k = 1 then 70 else if k = 2 then 85 else 95) → Runs .bandFall s fun u =>
      u = { s with ev9 := { s.ev9 with therm := { s.ev9.therm with band := u.ev9.therm.band, bandCool := 0 } } }
      ∧ u.ev9.therm.band.toNat + 1 = k)
    ∧ ∀ (path : RegPath) (v : Dword), path = .pf ∨ path = .smb0 → s.pathUp path = true →
      (s.pathRole path ≠ .operator → Runs (.bandFloorWrite path v) s fun u => u.ev9.therm.bandFloor = v.extractLsb' 8 2
        ∧ u.ev9.therm.band.toNat = max s.ev9.therm.band.toNat (v.extractLsb' 8 2).toNat ∧ Audited 5 0 0x2800000 u
        ∧ ∀ p, u.ev9.part p = { s.ev9.part p with tier := { (s.ev9.part p).tier with forced := (u.ev9.part p).tier.forced } })
      ∧ (s.pathRole path = .operator → Runs (.bandFloorWrite path v) s fun u => u.ev9.therm = s.ev9.therm ∧ Audited 4 0x12 0x2800000 u
        ∧ u.ev9.banks = s.ev9.banks ∧ u.ev9.parts = s.ev9.parts)

/-- BAR2 is open to an installer: a read completes with the bytes of its range, a write stores them and no other byte, and one for scratch takes its turn
among the accesses of the beat; to an operator a read completes
with Unsupported Request, and a write is discarded and recorded as denied (R84, R303). REGISTER_WRITE: an RW field takes the value, whose reserved
bits are ignored, and a 4-byte write of the register's upper half leaves it; an RWI field takes an installer's value and refuses an operator's, and
both are recorded; the NW8's registers take 4-byte writes alone (R5–R7, R387, R418, R453). Clauses that go beyond the spec's words rest on the model's
choices of log 7, 22. -/
def Obligations.WindowAndRegisterWrites : Prop :=
  (∀ (off : BitVec 32) (s : State) (a n : Nat), s.ev9.hostUp = true →
      (s.ev9.sessPf.role ≠ .operator → bar2Range off.toNat n = true → bar2Addr off.toNat = some a →
        (Runs (.bar2Read off n .clean) s fun u => u.outbox = s.outbox ++ [.completion (s.ev9.loads a n) (decide (0 < n) && s.ev9.anyPoison a n)]
          ∧ u = { s with outbox := u.outbox, ev9 := { s.ev9 with sessPf := u.ev9.sessPf } })
        ∧ (∀ (data : List Byte) k o, data.length = n → placeOf a = .scratch k o → Runs (.bar2Write off data) s fun u =>
          u.ev9.scr = s.ev9.scr ++ (scrUnits a data).map (fun y => ⟨k, s.ev9.stampBeat k, 64, 3, .write, [y]⟩)
          ∧ u = { s with ev9 := { s.ev9 with sessPf := u.ev9.sessPf, scr := u.ev9.scr } })
        ∧ ∀ data : List Byte, data.length = n → (∀ k o, placeOf a ≠ .scratch k o) → (∀ k, k < n → s.ev9.sealed (a + k) = false) →
          Runs (.bar2Write off data) s fun u =>
          (∀ k, k < n → memRead u.ev9.mem (a + k) = byteAt data k) ∧ (∀ x, x < a ∨ a + n ≤ x → memRead u.ev9.mem x = memRead s.ev9.mem x)
          ∧ u = { s with ev9 := { s.ev9 with sessPf := u.ev9.sessPf, mem := u.ev9.mem, poison := u.ev9.poison } })
      ∧ (s.ev9.sessPf.role = .operator →
        (∀ ecc, Runs (.bar2Read off n ecc) s fun u => u.outbox = s.outbox ++ [.unsupported]
          ∧ u = { s with outbox := u.outbox, ev9 := { s.ev9 with sessPf := u.ev9.sessPf } })
        ∧ ∀ data, Runs (.bar2Write off data) s fun u => u.ev9.mem = s.ev9.mem ∧ u.ev9.poison = s.ev9.poison ∧ Audited 4 0x12 off.toNat u))
  ∧ (∀ (s : State) (v : Dword) (path : RegPath), s.pathUp path = true →
      (path = .pf ∨ path = .smb0 →
        (∀ wide, Runs (.registerWrite path 0x100000 wide v) s fun u => u.ev9.power = { s.ev9.power with hostCap := u.ev9.power.hostCap }
          ∧ u.ev9.power.hostCap.toNat = max 300 (min 900 (v.toNat % 1024))
          ∧ u = { s with ev9 := { s.ev9 with power := u.ev9.power, sessPf := u.ev9.sessPf, sessSmb := u.ev9.sessSmb } })
        ∧ (Runs (.registerWrite path 0x100004 false v) s fun u => u = { s with ev9 := { s.ev9 with sessPf := u.ev9.sessPf, sessSmb := u.ev9.sessSmb } })
        ∧ (s.pathRole path ≠ .operator → Runs (.registerWrite path 0x100008 true v) s fun u => u.ev9.power = { s.ev9.power with ceiling := u.ev9.power.ceiling }
          ∧ u.ev9.power.ceiling.toNat = max 300 (min 900 (v.toNat % 1024)) ∧ Audited 5 0 0x100008 u ∧ u.ev9.parts = s.ev9.parts)
        ∧ (s.pathRole path = .operator → Runs (.registerWrite path 0x100008 true v) s fun u => u.ev9.power = s.ev9.power ∧ Audited 4 0x12 0x100008 u
          ∧ u.ev9.parts = s.ev9.parts))
      ∧ (path = .nwHost ∨ path = .nwRack →
        (Runs (.registerWrite path 0x04 true v) s fun u => u = s)
        ∧ (s.pathRole path ≠ .operator → Runs (.registerWrite path 0x04 false v) s fun u => u.nw8.hold.wdt = v.extractLsb' 8 8 ∧ u.nw8.chans = s.nw8.chans)
        ∧ (s.pathRole path = .operator → Runs (.registerWrite path 0x04 false v) s fun u => u.nw8.hold.wdt = s.nw8.hold.wdt ∧ u.nw8.chans = s.nw8.chans)))

/-- DOORBELL: a tail outside the ring is ignored and flagged; else the head follows the tail and the entries are fetched in order, or, where the ring
could not be read whole, the entries before the failure, which is flagged and counted. CQ_HEAD_WRITE gives the head, and a reply held for want of room
is written into host memory. RING_ENABLE begins heads, tails and phase anew, takes orders while the ring is disabled, and writes a held reply into the
ring that is now free; RING_DISABLE stops fetching and keeps what was fetched, and the physical function may so disable any tenant's ring (R305–R309, R333,
R335, R337). Clauses that go beyond the spec's words rest on the model's choices of log 11, 56. -/
def Obligations.RingRegisters : Prop :=
  ∀ (path : RegPath) (r : Fin 65537) (v : Dword) (s : State) (g : Ring), g = s.ev9.ring r.val → s.pathUp path = true →
    (ownsRing path r.val = true →
      (∀ es, 2 ^ max 4 g.sqOrder.toNat ≤ v.toNat % 32768 → Runs (.doorbell path r v es) s
          (ButNotes (OnlyRing r.val { g with badDoorbell := true } s) s))
      ∧ (∀ es, v.toNat % 32768 < 2 ^ max 4 g.sqOrder.toNat → g.enable = true → es.length = g.distance (v.toNat % 32768) → g.heldReplies.length < 64 →
        Runs (.doorbell path r v es) s fun u => ∃ g' : Ring, OnlyRing r.val g' s u ∧ g'.sqTail = v.extractLsb' 0 15 ∧ g'.sqHead = g'.sqTail
          ∧ g'.fetched = g.fetched ++ es ∧ g'.inflight = satAdd g.inflight es.length ∧ g'.cqTail = g.cqTail ∧ g'.enable = true)
      ∧ (∀ es, v.toNat % 32768 < 2 ^ max 4 g.sqOrder.toNat → g.enable = true → es.length < g.distance (v.toNat % 32768) →
        g.heldReplies.length < 64 → Runs (.doorbell path r v es) s fun u => (u.ev9.ring r.val).dmaError = true
          ∧ (u.ev9.ring r.val).fetched = g.fetched ++ es ∧ u.ev9.hif.errUncorr = satAdd s.ev9.hif.errUncorr 1
          ∧ (∀ k, k ≠ r.val → u.ev9.ring k = s.ev9.ring k) ∧ u.ev9.mem = s.ev9.mem ∧ u.ev9.hif.hostMem = s.ev9.hif.hostMem)
      ∧ (∀ es, v.toNat % 32768 < 2 ^ max 4 g.sqOrder.toNat → g.enable = false → Runs (.doorbell path r v es) s
          (OnlyRing r.val { g with sqTail := v.extractLsb' 0 15 } s))
      ∧ (g.heldReplies = [] → Runs (.cqHeadWrite path r v) s fun u => ∃ g' : Ring, OnlyRing r.val g' s u ∧ g'.cqHead = v.extractLsb' 0 15
          ∧ g'.fetched = (if g.enable then g.fetched ++ g.waiting else g.fetched) ∧ g'.cqTail = g.cqTail ∧ g'.enable = g.enable)
      ∧ (∀ x : Reply, g.heldReplies = [x] → x.interrupt = false → ringNext g.cqOrder g.cqTail.toNat ≠ v.toNat % 32768 → Runs (.cqHeadWrite path r v) s fun u =>
          memReads u.ev9.hif.hostMem (hostKey (ringFunction r.val) (g.cqBase.toNat * 4096 + 16 * g.cqTail.toNat)) 16 = x.bytes g.phase
          ∧ (u.ev9.ring r.val).heldReplies = [] ∧ (u.ev9.ring r.val).cqHead = v.extractLsb' 0 15
          ∧ (u.ev9.ring r.val).cqTail.toNat = ringNext g.cqOrder g.cqTail.toNat % 32768
          ∧ (∀ k, k ≠ r.val → u.ev9.ring k = s.ev9.ring k) ∧ u.ev9.mem = s.ev9.mem)
      ∧ (∀ x : Reply, v.getLsbD 0 = true → g.heldReplies = [x] → x.interrupt = false → Runs (.ringEnable path r v) s fun u =>
          memReads u.ev9.hif.hostMem (hostKey (ringFunction r.val) (g.cqBase.toNat * 4096)) 16 = x.bytes true
          ∧ (u.ev9.ring r.val).heldReplies = [] ∧ (u.ev9.ring r.val).cqTail = 1 ∧ (u.ev9.ring r.val).enable = true
          ∧ (∀ k, k ≠ r.val → u.ev9.ring k = s.ev9.ring k) ∧ u.ev9.mem = s.ev9.mem)
      ∧ (v.getLsbD 0 = true → g.heldReplies = [] → Runs (.ringEnable path r v) s (OnlyRing r.val { g with
          enable := true, sqHead := 0, sqTail := 0, cqHead := 0, cqTail := 0, phase := true, waiting := [], waitingAt := []
          sqOrder := if g.enable then g.sqOrder else v.extractLsb' 4 4, cqOrder := if g.enable then g.cqOrder else v.extractLsb' 8 4 } s))
      ∧ (v.getLsbD 0 = false → g.enable = true → r.val < 65536 → Runs (.ringDisable path r v) s
          (OnlyRing r.val { g with enable := false, waiting := [], waitingAt := [] } s))
      ∧ (v.getLsbD 0 = false → g.enable = true → r.val = 65536 → Runs (.ringDisable path r v) s fun u =>
          u.ev9.ring r.val = { g with enable := false, waiting := [], waitingAt := [] } ∧ u.ev9.sessPf.role = .operator
          ∧ (∀ k, k ≠ r.val → u.ev9.ring k = s.ev9.ring k) ∧ u.ev9.parts = s.ev9.parts))
    ∧ (path = .pf → r.val < 65536 → v.getLsbD 0 = false → g.enable = true → Runs (.ringDisable path r v) s
        (OnlyRing r.val { g with enable := false, waiting := [], waitingAt := [] } s))

/-- A port's training ends LINKED at the width, generation and times found, DOWN with reason 8 where no lanes form a width, DOWN with reason 7 and a
record below its planned width; a lane with a finding of the first stages counts for no width. A failed attempt is repeated three times before reason 9,
and a failed retrain has reason 10; a lost signal takes a LINKED port, and a regained one a REFUSED or DOWN port, to training, which waits while TRCLK is
absent (R272–R274, R281, R283, R288). Clauses that go beyond the spec's words rest on the model's choices of log 30. -/
def Obligations.PortsTrain : Prop :=
  ∀ (n : PortId) (s : State) (x y : Port), x = s.ev9.port n → s.ev9.up = true →
    y = (if s.ev9.chip.trPresent then x.train else { x with wants := some .full }) →
    (x.state = .linked → Runs (.laneSignalChange n .lost) s fun u => OnlyPort n s u ∧ u.ev9.port n = y)
    ∧ (x.state = .refused ∨ x.state = .down → Runs (.laneSignalChange n .regained) s fun u => OnlyPort n s u ∧ u.ev9.port n = y)
    ∧ (∀ r : TrainResult, x.state = .training → s.ev9.chip.trPresent = true → planWidth x.plan ≤ 2 →
      (goodLanes r = 0xFF → x.retrain = false → Runs (.trainingComplete n r) s fun u => OnlyPortOut n s u
        ∧ u.ev9.port n = { Port.measured r 2 0xFF x with state := .linked, attempts := 0, stage6 := false, remapped := false })
      ∧ (laneGroup (goodLanes r) = none → Runs (.trainingComplete n r) s fun u => (u.ev9.port n).state = .down ∧ (u.ev9.port n).reason = 8
        ∧ (u.ev9.port n).lanesGood = 0 ∧ (u.ev9.port n).lane = r.lane ∧ (∀ k, k ≠ n.val → u.ev9.port k = s.ev9.port k)
        ∧ u.ev9.mem = s.ev9.mem ∧ u.ev9.cores = s.ev9.cores ∧ u.ev9.parts = s.ev9.parts)
      ∧ (∀ w lanes, laneGroup (goodLanes r) = some (w, lanes) → w < planWidth x.plan → Runs (.trainingComplete n r) s fun u =>
        (u.ev9.port n).state = .down ∧ (u.ev9.port n).reason = 7 ∧ (u.ev9.port n).width = BitVec.ofNat 2 w ∧ Recorded 7 0x0402 n s u
        ∧ (∀ k, k ≠ n.val → u.ev9.port k = s.ev9.port k) ∧ u.ev9.mem = s.ev9.mem ∧ u.ev9.cores = s.ev9.cores ∧ u.ev9.parts = s.ev9.parts)
      ∧ (∀ k, k < 8 → r.lane.extractLsb' (8 * k) 4 ≠ 0 → (goodLanes r).getLsbD k = false))
    ∧ (x.state = .training → s.ev9.chip.trPresent = true → x.retrain = false → x.attempts < 3 → Runs (.trainingFail n) s fun u => OnlyPort n s u
        ∧ u.ev9.port n = { x with attempts := x.attempts + 1 })
    ∧ (x.state = .training → s.ev9.chip.trPresent = true → (x.retrain = true ∨ 3 ≤ x.attempts) → Runs (.trainingFail n) s fun u =>
        (u.ev9.port n).state = .down
        ∧ (u.ev9.port n).reason = (if x.retrain then 10 else 9) ∧ (∀ k, k ≠ n.val → u.ev9.port k = s.ev9.port k)
        ∧ u.ev9.mem = s.ev9.mem ∧ u.ev9.cores = s.ev9.cores ∧ u.ev9.parts = s.ev9.parts)
    ∧ (∀ path v, path = .pf ∨ path = .smb0 → s.pathUp path = true →
      (s.pathRole path ≠ .operator → v.getLsbD 5 = false → Runs (.snlCfgWrite path n v) s fun u =>
        u.ev9.port n = (x.setCfg v).settle s.ev9.chip.trPresent
        ∧ (∀ k, k ≠ n.val → u.ev9.port k = s.ev9.port k) ∧ Audited 5 0 (0x1200000 + 0x10000 * n.val) u ∧ u.ev9.parts = s.ev9.parts)
      ∧ (s.pathRole path = .operator → v.getLsbD 5 = false → Runs (.snlCfgWrite path n v) s fun u => u.ev9.ports = s.ev9.ports
        ∧ Audited 4 0x12 (0x1200000 + 0x10000 * n.val) u)
      ∧ (x.state ≠ .disabled → x.state ≠ .fenced → x.enable = true → planUsed x.plan = true → s.ev9.chip.strict = false →
        Runs (.snlCfgRetrain path n) s fun u => u.ev9.port n = y ∧ (∀ k, k ≠ n.val → u.ev9.port k = s.ev9.port k)
          ∧ u.ev9.parts = s.ev9.parts ∧ u.ev9.svc = s.ev9.svc))

/-- A LINKED port whose neighbour's identity matches its plan entry, mode and level is ACTIVE in its own role; one whose position differs, outside any
group, is REFUSED with reason 2 and recorded, and so, with its reason, is one whose neighbour shows an identity other than the one it was accepted with.
A join that times out drops the member. An uncorrectable codeword is requested again where the port has replay, and is recorded as lost where it has
none, faulting the step of a running member; a replay request is answered with what the replay buffer holds. A data flit takes a place and waits at its
station, or is discarded and its credit returns; credits free places, and end the want of them (R61, R66, R269, R270, R277–R282, R297, R349). Clauses that
go beyond the spec's words rest on the model's choices of log 30, 51. -/
def Obligations.PortsCarry : Prop :=
  ∀ (n : PortId) (s : State) (x : Port), x = s.ev9.port n → s.ev9.up = true →
    (∀ id : Identity, x.state = .linked → s.ev9.portMember n = none → Runs (.identityReceive n id) s fun u => OnlyPort n s u
      ∧ identityOf (u.ev9.port n).ident = id ∧ u.ev9.port n = { x with ident := (u.ev9.port n).ident, heard := true })
    ∧ (∀ (id : Identity) t m, x.state = .linked → (∀ k, x.known = some k → k = identityBits id) → s.ev9.portMember n = some (t, m) →
      (id.troupe.toNat = t → id.position.toNat = planPos x.plan → planAccepts x.plan id.port.toNat = true → id.level.toNat = planLevel x.plan →
        planLevel x.plan = 3 → id.strict = s.ev9.chip.strict → s.ev9.roleTaken n n = false → Runs (.identityReceive n id) s fun u =>
        (u.ev9.port n).state = .active ∧ (u.ev9.port n).logical = BitVec.ofNat 4 n ∧ (u.ev9.port n).reason = 0 ∧ (u.ev9.port n).remapped = false
        ∧ (u.ev9.port n).known = some (identityBits id)
        ∧ (∀ k, k ≠ n.val → u.ev9.port k = s.ev9.port k) ∧ u.ev9.mem = s.ev9.mem ∧ u.ev9.parts = s.ev9.parts)
      ∧ (id.troupe.toNat = t → id.position.toNat ≠ planPos x.plan → planGroup x.plan = 0 → Runs (.identityReceive n id) s fun u =>
        (u.ev9.port n).state = .refused ∧ (u.ev9.port n).reason = 2 ∧ (∀ k, k ≠ n.val → u.ev9.port k = s.ev9.port k)
        ∧ (∃ f, tfind u.ev9.svc.faults (s.ev9.svc.faultSeq.toNat % 256) = some f ∧ f.source = 7 ∧ f.cause = 0x0403 ∧ f.d0.toNat = n.val ∧ f.d1 = 2)
        ∧ u.ev9.mem = s.ev9.mem ∧ u.ev9.parts = s.ev9.parts))
    ∧ (∀ (id : Identity) k t m, x.state = .linked ∨ x.state = .active → x.known = some k → k ≠ identityBits id → s.ev9.portMember n = some (t, m) →
      Runs (.identityReceive n id) s fun u => (u.ev9.port n).state = .refused ∧ (u.ev9.port n).known = none
        ∧ (∀ k, k ≠ n.val → u.ev9.port k = s.ev9.port k) ∧ Recorded 7 0x0403 n s u ∧ u.ev9.mem = s.ev9.mem ∧ u.ev9.parts = s.ev9.parts)
    ∧ (∀ (t : BitVec 16) m k, s.ev9.member? t.toNat = some m → m.joined = false →
      ((s.ev9.plannedPorts m).find? fun k => !(s.ev9.port k).state.inRole) = some k → Runs (.troupeJoinTimeout t) s fun u =>
      u.ev9.member? t.toNat = none ∧ (∀ j, j ≠ t.toNat → u.ev9.member? j = s.ev9.member? j) ∧ (∀ d ∈ u.ev9.hif.deferred, d.work ≠ .join t)
      ∧ u.ev9.ports = s.ev9.ports ∧ u.ev9.parts = s.ev9.parts ∧ u.ev9.mem = s.ev9.mem)
    ∧ (∀ cw, x.state.inRole = true →
      (s.ev9.hasReplay n = true → x.failing = none → Runs (.codewordUncorrectable n cw) s fun u => .replayRequest n ∈ u.outbox
        ∧ (u.ev9.port n).cwBad = satAdd x.cwBad 1 ∧ (u.ev9.port n).replays = satAdd x.replays 1 ∧ (u.ev9.port n).failing = some (cw, cw, 1)
        ∧ (∀ k, k ≠ n.val → u.ev9.port k = s.ev9.port k) ∧ u.ev9.mem = s.ev9.mem ∧ u.ev9.parts = s.ev9.parts)
      ∧ (s.ev9.hasReplay n = false → Runs (.codewordUncorrectable n cw) s fun u => Recorded 7 0x0400 n s u ∧ (u.ev9.port n).cwBad = satAdd x.cwBad 1
        ∧ u.ev9.mem = s.ev9.mem ∧ u.ev9.cores = s.ev9.cores
        ∧ (s.ev9.portOwner n = none → u.ev9.parts = s.ev9.parts ∧ ∀ k, k ≠ n.val → u.ev9.port k = s.ev9.port k)
        ∧ (∀ p t m, s.ev9.portOwner n = some p → s.ev9.memberOf p = some (t, m) → m.run = .running → (u.ev9.part p).stopped = true)))
    ∧ (x.state.inRole = true → s.ev9.hasReplay n = true → Runs (.replayRequestReceive n) s fun u => .resend n (x.sent.map (·.hdr)) ∈ u.outbox
      ∧ (∀ k, k ≠ n.val → u.ev9.port k = s.ev9.port k) ∧ u.ev9.mem = s.ev9.mem ∧ u.ev9.parts = s.ev9.parts)
    ∧ (∀ (hdr : Dword) (pl : List Byte) (good : Bool) (h : Header) (y : Port), h = headerOf hdr → h.vc < 4 →
      y = { x with cwOk := if good then satAdd x.cwOk 1 else x.cwOk, lastUse := s.ev9.noc.edgeBeat } →
      (x.state = .fenced ∨ (x.state = .active ∧ s.ev9.portMember n = none) → Runs (.flitArrival n hdr ⟨pl, good⟩) s fun u =>
        u.ev9.noc = { s.ev9.noc with drop := satAdd s.ev9.noc.drop 1 } ∧ u.ev9.port n = y ∧ (∀ k, k ≠ n.val → u.ev9.port k = s.ev9.port k)
        ∧ u.outbox = s.outbox ++ [.credit n (Fin.ofNat 4 h.vc) 1]
        ∧ u = { s with outbox := u.outbox, ev9 := { s.ev9 with ports := u.ev9.ports, noc := u.ev9.noc } })
      ∧ (∀ t m, x.state = .active → h.kind = 0 → s.ev9.portMember n = some (t, m) → h.dpos = m.position.toNat →
        maskBit m.mask (partOf h.dcore) = true → (s.ev9.part (partOf h.dcore)).state = .on → Runs (.flitArrival n hdr ⟨pl, good⟩) s fun u =>
        u = { s with ev9 := { s.ev9 with ports := u.ev9.ports, noc := u.ev9.noc } } ∧ (∀ k, k ≠ n.val → u.ev9.port k = s.ev9.port k)
        ∧ u.ev9.port n = { y with eab := (u.ev9.port n).eab, eabHigh := (u.ev9.port n).eabHigh }
        ∧ (tget 0 (u.ev9.port n).eab h.vc).toNat = min 512 ((tget 0 x.eab h.vc).toNat + 1)
        ∧ ∃ f : Flit, u.ev9.noc.buf (bufIndex (16 + n.val) 3 h.vc 0) = s.ev9.noc.buf (bufIndex (16 + n.val) 3 h.vc 0) ++ [f]
          ∧ f.payload = pl ∧ f.place = some (.port n) ∧ (s.ev9.portCode n = none → f.hdr = hdr)))
    ∧ (∀ (vc : Fin 4) k,
      ((∀ p, p < 8 → ∀ of v, CurlCause.credit of v ∉ (s.ev9.part p).curl.causes) → Runs (.creditReturnReceive n vc k) s fun u =>
        OnlyPort n s u ∧ u.ev9.port n = { x with spent := (u.ev9.port n).spent } ∧ tget 0 (u.ev9.port n).spent vc.val = tget 0 x.spent vc.val - k)
      ∧ (∀ p : PartId, (s.ev9.part p).curl.causes = [.credit (.port n) vc] → tget 0 x.spent vc.val - k < 512 →
        Runs (.creditReturnReceive n vc k) s fun u => (u.ev9.part p).curl.causes = []
          ∧ (u.ev9.part p).curl.curled = (s.ev9.part p).curl.curled ∧ (u.ev9.part p).clk = (s.ev9.part p).clk ∧ u.ev9.mem = s.ev9.mem))

/-- Sleep: a request is sent from an ACTIVE port that may sleep, and refused with nak from one that may not; an acceptance puts the port to sleep in
the state it asked for, crossing requests in the shallower one, and counts it; a refusal sets nak; a port with flits queued or a replay pending refuses.
A wake ends ACTIVE once the least residency has passed or the neighbour's wake waives it, charges the beats that flits waited, and goes through a retrain
where a lane has failed (R285–R287, R290, R292, R296). Clauses that go beyond the spec's words rest on the model's choices of log 30, 59. -/
def Obligations.PortsSleep : Prop :=
  ∀ (n : PortId) (s : State) (x : Port) (enter : SleepState → Port), x = s.ev9.port n → s.ev9.up = true →
    enter = (fun ls => { x with state := match ls with | .ls1 => .ls1 | .ls2 => .ls2
                                sleeps := satAdd x.sleeps 1, sleepPhase := .idle, sleptAt := s.ev9.noc.edgeBeat, waived := false }) →
    (∀ (path : RegPath) (ls : SleepState) (i : Instr), path = .pf ∨ path = .smb0 → s.pathUp path = true →
      (i, ls) ∈ [(Instr.snlPmReqLs1 path n, SleepState.ls1), (.snlPmReqLs2 path n, .ls2)] → x.state = .active → x.sleepPhase = .idle →
      (s.ev9.maySleep n ls = true → Runs i s fun u => OnlyPortReg n s u ∧ u.ev9.port n = { x with sleepPhase := .requested ls }
        ∧ u.outbox = s.outbox ++ [.sleepReq n ls])
      ∧ (s.ev9.maySleep n ls = false → Runs i s fun u => ButNotes (OnlyPortReg n s) s u ∧ u.ev9.port n = { x with nak := true }
        ∧ u.outbox = s.outbox))
    ∧ (∀ path : RegPath, path = .pf ∨ path = .smb0 → s.pathUp path = true → x.state = .ls1 ∨ x.state = .ls2 → x.sleepPhase = .idle →
      Runs (.snlPmWake path n) s fun u => ButNotes (OnlyPortReg n s) s u ∧ u.outbox = s.outbox ++ [.wake n]
        ∧ u.ev9.port n = { x with sleepPhase := .waking, waived := x.sleptAt == s.ev9.noc.edgeBeat
                                  nak := x.nak || x.sleptAt == s.ev9.noc.edgeBeat })
    ∧ (x.autoSleep = true → x.state = .active → x.sleepPhase = .idle → ∀ ls, ls = (if x.autoLs2 then SleepState.ls2 else .ls1) →
      s.ev9.maySleep n ls = true → s.ev9.queuedFor n = false → x.lastUse + x.idle.toNat ≤ s.ev9.noc.edgeBeat →
      Runs (.autoSleepIdle n) s fun u => OnlyPortOut n s u ∧ u.ev9.port n = { x with sleepPhase := .requested ls }
        ∧ u.outbox = s.outbox ++ [.sleepReq n ls])
    ∧ (∀ ls own, x.state = .active → x.sleepPhase = .requested own → Runs (.sleepReqReceive n ls) s fun u => OnlyPort n s u
        ∧ u.ev9.port n = enter (if ls = .ls1 ∨ own = .ls1 then .ls1 else .ls2))
    ∧ (∀ ls, x.state = .active → x.sleepPhase = .idle →
      (x.autoSleep = true → x.replayLeft = 0 → s.ev9.queuedFor n = false → s.ev9.maySleep n ls = true → Runs (.sleepReqReceive n ls) s fun u =>
        OnlyPortOut n s u ∧ u.outbox = s.outbox ++ [.sleepAck n ls] ∧ u.ev9.port n = enter ls)
      ∧ (x.autoSleep = false ∨ x.replayLeft ≠ 0 ∨ s.ev9.queuedFor n = true ∨ s.ev9.maySleep n ls = false →
        Runs (.sleepReqReceive n ls) s fun u => u = { s with outbox := s.outbox ++ [.sleepNak n] }))
    ∧ (∀ ls, x.sleepPhase = .requested ls →
      (Runs (.sleepAckReceive n) s fun u => OnlyPort n s u ∧ u.ev9.port n = enter ls)
      ∧ Runs (.sleepNakReceive n) s fun u => ButNotes (OnlyPort n s) s u ∧ u.ev9.port n = { x with sleepPhase := .idle, nak := true })
    ∧ (x.sleepPhase = .cancelled → (Runs (.sleepAckReceive n) s fun u => OnlyPort n s u ∧ u.ev9.port n = { x with sleepPhase := .idle })
      ∧ Runs (.sleepNakReceive n) s fun u => OnlyPort n s u ∧ u.ev9.port n = { x with sleepPhase := .idle })
    ∧ (x.state.inRole = true → Runs (.sleepCancelReceive n) s fun u => ButNotes (OnlyPort n s) s u
      ∧ u.ev9.port n = { x with state := .active, sleepPhase := .idle, nak := true })
    ∧ (x.state = .ls1 ∨ x.state = .ls2 →
      (Runs (.wakeSignalReceive n) s fun u => OnlyPort n s u ∧ u.ev9.port n = { x with sleepPhase := .waking, waived := true })
      ∧ (x.sleepPhase = .waking → (x.waived = true ∨ x.sleptAt + (if x.state = .ls2 then 300000 else 15000) ≤ s.ev9.noc.edgeBeat) →
        (Runs (.wakeComplete n false x.wakeWait) s fun u => OnlyPort n s u
          ∧ u.ev9.port n = { x with state := .active, sleepPhase := .idle, wakeDelay := satAdd x.wakeDelay x.wakeWait, wakeWait := 0 })
        ∧ (s.ev9.hasReplay n = true → s.ev9.chip.trPresent = true → Runs (.wakeComplete n true x.wakeWait) s fun u => OnlyPort n s u
          ∧ (u.ev9.port n).state = .training ∧ (u.ev9.port n).retrain = true ∧ (u.ev9.port n).logical = x.logical)))

/-- A Function Level Reset leaves its tenant no ring, no waiting command and no PENDING, BOUND or COLLECT slot, and no image that it was loading; that of
the physical function leaves no management ring and no session. VF_DISABLE does so for all tenants; a host reset also clears SR-IOV state, the management
ring and the physical function's session. PERST_N_RELEASE starts training where VDD_PCIE is up,
PCIE_LINK_UP notes rate and width, VF_ENABLE the number of functions (R298–R300, R336, R443, R476, R477, R483, R499). Clauses that go beyond the spec's words rest on the model's choices
of log 57, 58. -/
def Obligations.HostResets : Prop :=
  ∀ s : State,
    (∀ (f : Fin 1025) (t : Nat), s.ev9.hostUp = true → f.val = t + 1 → Runs (.functionLevelReset f) s fun u =>
      (∀ e ∈ u.ev9.hif.rings, 65536 ≤ e.1 ∨ tenantOf e.1 ≠ t) ∧ (∀ d ∈ u.ev9.hif.deferred, Carrier.ofTenant t d.via = false)
      ∧ (∀ e ∈ u.ev9.hif.slots, e.2.tenant.toNat = t → e.2.state = .releasing ∨ e.2.state = .free)
      ∧ (∀ d ∈ s.ev9.hif.deferred, Carrier.ofTenant t d.via = true → ∀ k m, d.work = .imageLoad k → u.ev9.member? k.toNat = some m → m.image = none)
      ∧ u.ev9.cores = s.ev9.cores
      ∧ (s.ev9.noCopyIn (fun d => Carrier.ofTenant t d.via) → u.ev9.parts = s.ev9.parts ∧ u.ev9.mem = s.ev9.mem))
    ∧ (s.ev9.hostUp = true → Runs (.functionLevelReset 0) s fun u => u.ev9.ring 65536 = {} ∧ u.ev9.sessPf.role = .operator
      ∧ (∀ d ∈ u.ev9.hif.deferred, d.via ≠ .mgmt) ∧ u.ev9.parts = s.ev9.parts ∧ u.ev9.cores = s.ev9.cores ∧ u.ev9.mem = s.ev9.mem)
    ∧ (s.ev9.hostUp = true → s.ev9.hif.vfEnable = true → Runs .vfDisable s fun u => u.ev9.hif.vfEnable = false
      ∧ (∀ e ∈ u.ev9.hif.rings, 65536 ≤ e.1) ∧ u.ev9.cores = s.ev9.cores
      ∧ (s.ev9.noCopyIn (fun _ => true) → u.ev9.parts = s.ev9.parts ∧ u.ev9.mem = s.ev9.mem))
    ∧ (Runs .hostReset s fun u => u.ev9.hif.rings = [] ∧ u.ev9.hif.numVfs = 0 ∧ u.ev9.hif.vfEnable = false ∧ u.ev9.hif.up = false
      ∧ u.ev9.hif.perst = false ∧ u.ev9.sessPf = {} ∧ u.ev9.hif.errCorr = 0 ∧ u.ev9.hif.errUncorr = 0 ∧ u.ev9.chip.latchPf = none
      ∧ u.ev9.cores = s.ev9.cores ∧ (s.ev9.noCopyIn (fun _ => true) → u.ev9.parts = s.ev9.parts ∧ u.ev9.mem = s.ev9.mem))
    ∧ (Runs .perstNRelease s fun u => u = { s with ev9 := { s.ev9 with hif := { s.ev9.hif with
      perst := true, training := s.ev9.svc.rails.getLsbD 4 && !s.ev9.inRecovery } } })
    ∧ (∀ (rate width : Fin 3) (rev : Bool), s.ev9.hif.perst = true → s.ev9.svc.rails.getLsbD 4 = true → s.ev9.hif.up = false → s.ev9.inRecovery = false →
      Runs (.pcieLinkUp rate width rev) s fun u => u = { s with ev9 := { s.ev9 with hif := { s.ev9.hif with
        up := true, training := false, rate := BitVec.ofNat 3 (4 + rate.val), width := BitVec.ofNat 5 (4 * 2 ^ width.val), flit := rate == 2, reversed := rev } } })
    ∧ ∀ num, s.ev9.hostUp = true → num ≤ 1024 → s.ev9.hif.vfEnable = false → Runs (.vfEnable num) s fun u =>
      u = { s with ev9 := { s.ev9 with hif := { s.ev9.hif with numVfs := BitVec.ofNat 11 num, vfEnable := true } } }

/-- POWER_ON_RESET and CHIP_RESET keep what the SPI NOR and the pins hold, and the latter counts and names its cause; a watchdog reset starts the boot
ROM at once; BOOT_START samples SLOT_ID; FIRMWARE_SELECT runs the valid image of the higher version, else the other, else recovery; RAIL_UP takes the
six rails in order; the edge FLL's lock, whose frequency error is a free value, and the self-test complete boot; a core with a bank that spares cannot
mend is retired; VDD_STBY_REMOVED releases THERMTRIP_N (R47, R385, R477–R482, R532). Clauses that go beyond the spec's words rest on the model's
choices of log 4, 12. -/
def Obligations.BootStages : Prop :=
  ∀ s : State,
    (Runs .powerOnReset s fun u => u = { s with ev9 := {
      chip := { strict := s.ev9.chip.strict }, hif := { perst := s.ev9.hif.perst, hostMem := s.ev9.hif.hostMem }
      svc := { retire := s.ev9.svc.retire, installerKey := s.ev9.svc.installerKey }, dbg := { factoryLow := s.ev9.dbg.factoryLow } } })
    ∧ (s.ev9.svc.vddStby = true → Runs .chipReset s fun u => u.ev9.svc.boot = .down ∧ u.ev9.svc.resetCause = 1
      ∧ u.ev9.svc.resets = satAdd s.ev9.svc.resets 1 ∧ u.ev9.chip = { strict := s.ev9.chip.strict } ∧ u.ev9.svc.retire = s.ev9.svc.retire
      ∧ u.ev9.therm.trip = s.ev9.therm.trip ∧ u.ev9.parts = [] ∧ u.ev9.cores = [] ∧ u.ev9.mem = [] ∧ u.ev9.hif.deferred = [] ∧ u.ev9.hif.rings = []
      ∧ u.nw8 = s.nw8)
    ∧ (s.ev9.svc.boot ≠ .down → Runs .serviceWatchdogExpiry s fun u => u.ev9.svc.boot = .rom ∧ u.ev9.svc.resetCause = 2
      ∧ u.ev9.svc.resets = satAdd s.ev9.svc.resets 1 ∧ u.ev9.parts = [] ∧ u.ev9.mem = [] ∧ u.nw8 = s.nw8
      ∧ ∃ a b, u.ev9.svc.audit = [a, b] ∧ a.kind = 7 ∧ a.detail = 2 ∧ b.kind = 8)
    ∧ (∀ slot, s.ev9.svc.vddStby = true → s.ev9.svc.boot = .down → Runs (.bootStart slot) s fun u => u.ev9.svc.boot = .rom ∧ u.ev9.svc.slotId = slot
      ∧ u.outbox = s.outbox ++ [.bootRom] ∧ u.ev9.svc.rails = s.ev9.svc.rails ∧ u = { s with outbox := u.outbox, ev9 := { s.ev9 with svc := u.ev9.svc } })
    ∧ (∀ a b : FwImage, s.ev9.svc.boot = .rom →
      (∀ (i : Nat) (hi lo : FwImage), (i, hi, lo) = (if a.version < b.version then (1, b, a) else (0, a, b)) →
        (hi.valid = true → Runs (.firmwareSelect a b) s fun u => u = { s with ev9 := { s.ev9 with svc := { s.ev9.svc with
          image := i, major := hi.major, fallback := false, boot := .rails 0 } } })
        ∧ (hi.valid = false → lo.valid = true → Runs (.firmwareSelect a b) s fun u => u = { s with ev9 := { s.ev9 with svc := { s.ev9.svc with
          image := 1 - i, major := lo.major, fallback := true, boot := .rails 0 } } }))
      ∧ (a.valid = false → b.valid = false → Runs (.firmwareSelect a b) s fun u => u.ev9.svc.boot = .recovery ∧ u.ev9.svc.rails = s.ev9.svc.rails))
    ∧ (∀ k r, s.ev9.svc.boot = .rails k → r = railOf k →
      (k < 5 → Runs .railUp s fun u => u.ev9.svc.boot = .rails (k + 1) ∧ u.ev9.svc.rails.getLsbD r = true
        ∧ (∀ j, j ≠ r → u.ev9.svc.rails.getLsbD j = s.ev9.svc.rails.getLsbD j) ∧ (k + 1 = 2 → u.ev9.power.vdd = setpoint s.ev9.chip.strict 7))
      ∧ (5 ≤ k → Runs .railUp s fun u => u.ev9.svc.boot = .fll ∧ u.ev9.svc.rails.getLsbD r = true ∧ u.ev9.hif.training = s.ev9.hif.perst
        ∧ (∀ j, j ≠ r → u.ev9.svc.rails.getLsbD j = s.ev9.svc.rails.getLsbD j))
      ∧ Runs .railStartFail s fun u => u.ev9.svc.boot = .railFail ∧ u.ev9.svc.rails = setBit 0 r ∧ u.ev9.power.vdd = 0)
    ∧ (s.ev9.svc.boot = .fll → Runs .edgeFllLock s fun u => u.ev9.svc.boot = .selfTest ∧ u.ev9.chip = { s.ev9.chip with
      trPresent := true, freqErr := Config.freqErr s.fresh } ∧ u.fresh = s.fresh + 1 ∧ u.ev9.parts = s.ev9.parts)
    ∧ (∀ fs : List SelfTest, s.ev9.svc.boot = .selfTest → Runs (.tierSelfTestComplete fs) s fun u => u.ev9.svc.boot = .complete
      ∧ (fs = [] → u.ev9.svc.selftestFail = 0)
      ∧ (∀ f, fs = [f] → (∃ r ∈ f.rows, 8 < r) ∨ f.obuf = true → u.ev9.svc.selftestFail.getLsbD f.core.val = true) ∧ u.ev9.parts = s.ev9.parts)
    ∧ (Runs .vddStbyRemoved s fun u => u.ev9.svc = { s.ev9.svc with boot := .down, rails := 0, vddStby := false }
      ∧ u.ev9.therm = { s.ev9.therm with trip := false } ∧ u.ev9.hif.up = false ∧ u.ev9.parts = s.ev9.parts ∧ u.ev9.mem = s.ev9.mem ∧ u.nw8 = s.nw8)
    ∧ Runs .vddIoLoss s fun u => u.ev9.svc.rails.getLsbD 5 = false ∧ (∀ j, j ≠ 5 → u.ev9.svc.rails.getLsbD j = s.ev9.svc.rails.getLsbD j)
      ∧ u = { s with ev9 := { s.ev9 with svc := { s.ev9.svc with rails := u.ev9.svc.rails } } }

/-- ENABLE_COMPLETE: an ENABLING partition is ON with BEATCOUNT 0 and its enable completes. DRAIN_COMPLETE, with nothing left: OFF, the seal released,
its member gone. DRAIN_TIMEOUT, once the drain limit has passed, flags it and orders a fence, which discards what the partition's ports hold, returns the
credits and fences them; after the islands' reset it is OFF, its queues empty, its threads halted and its curl ended; a stuck one stays FENCED. Other
partitions and memory stay (R344, R346–R350). Clauses that go beyond the spec's words rest on the model's choices of log 29, 33, 59. -/
def Obligations.PartitionsMove : Prop :=
  ∀ (p : PartId) (s : State) (x : Part), x = s.ev9.part p →
    (s.ev9.up = true → x.state = .enabling → s.ev9.drainPending p = false → Runs (.enableComplete p) s fun u =>
      (u.ev9.part p).state = .on ∧ (u.ev9.part p).clk.beatCount = 0 ∧ (u.ev9.part p).onSince = s.ev9.svc.timeMs
      ∧ (∀ q, q ≠ p.val → u.ev9.part q = s.ev9.part q) ∧ (∀ d ∈ u.ev9.hif.deferred, d.work ≠ .enable p)
      ∧ u.ev9.mem = s.ev9.mem ∧ u.ev9.cores = s.ev9.cores ∧ u.ev9.members = s.ev9.members)
    ∧ (x.state = .draining → x.fencing = false → x.curl.held = false → s.ev9.drained p = true → s.ev9.enablePending p = false →
      Runs (.drainComplete p) s fun u =>
        (u.ev9.part p).state = .off ∧ (u.ev9.part p).tier.sealed = false ∧ (∀ q, q ≠ p.val → u.ev9.part q = s.ev9.part q)
        ∧ (∀ t m, s.ev9.memberOf p = some (t, m) → u.ev9.member? t = none) ∧ (∀ d ∈ u.ev9.hif.deferred, ∀ w, d.work ≠ .drain p w)
        ∧ u.ev9.mem = s.ev9.mem ∧ (∀ c, c ∉ coresOf p → u.ev9.core c = s.ev9.core c)
        ∧ ∀ c, (s.ev9.core c).window = false → u.ev9.core c = s.ev9.core c)
    ∧ (x.state = .draining → x.drainAt + 1500 * max 1 s.ev9.chip.drainLimit.toNat ≤ s.ev9.noc.edgeBeat → Runs (.drainTimeout p) s fun u =>
      ButNotes (OnlyPart p s) s u ∧ u.ev9.part p = { x with drainTimeout := true, fencing := true })
    ∧ (∀ lost spent n ports, x.fencing = true → x.state ≠ .off → x.state ≠ .fenced →
      ports = ((List.range 12).filter fun k => maskBit x.ports k) →
      n = ((s.ev9.heldPlaces ports).map fun h => h.2.2).sum + s.ev9.heldAcross p + s.ev9.peerFlits p ports →
      Runs (.fenceTakesEffect p lost spent) s fun u =>
        (u.ev9.part p).state = .fenced ∧ (u.ev9.part p).fencing = false ∧ (u.ev9.part p).flitsDiscarded.toNat = min (2 ^ 32 - 1) (n + lost)
        ∧ (u.ev9.part p).creditsRestored.toNat = min (2 ^ 32 - 1) (n + spent)
        ∧ (∀ k ∈ ports, (u.ev9.port k).state = .fenced ∧ (u.ev9.port k).eab = [])
        ∧ (s.ev9.noc.bufs = [] → ∀ k, k ∉ ports → u.ev9.port k = s.ev9.port k)
        ∧ (∀ d ∈ u.ev9.hif.deferred, maskBit d.parts p = true → d.work = .fence)
        ∧ u.ev9.cores = s.ev9.cores
        ∧ (s.ev9.noCopyIn (fun d => maskBit d.parts p) → u.ev9.mem = s.ev9.mem ∧ ∀ q, q ≠ p.val → u.ev9.part q = s.ev9.part q))
    ∧ (x.state = .fenced → x.stuck = false → s.ev9.enablePending p = false → Runs (.fenceResetComplete p) s fun u =>
      (u.ev9.part p).state = .off ∧ (u.ev9.part p).curl.curled = false ∧ (u.ev9.part p).curl.held = false
      ∧ (∀ c ∈ coresOf p, (u.ev9.core c).qMatrix = [] ∧ (u.ev9.core c).qVector = [] ∧ (u.ev9.core c).qMover = []
        ∧ ∀ t, t < 4 → ((u.ev9.core c).thread t).regs.state = .halted)
      ∧ (∀ c, c ∉ coresOf p → u.ev9.core c = s.ev9.core c) ∧ (∀ q, q ≠ p.val → u.ev9.part q = s.ev9.part q) ∧ u.ev9.mem = s.ev9.mem)
    ∧ (x.state = .fenced → x.stuck = false → Runs (.partitionStuck p) s fun u => u.ev9.part p = { x with stuck := true }
      ∧ (∀ q, q ≠ p.val → u.ev9.part q = s.ev9.part q) ∧ (∀ d ∈ u.ev9.hif.deferred, d.work.isOn p.val = false)
      ∧ u.ev9.mem = s.ev9.mem ∧ u.ev9.cores = s.ev9.cores)

/-- BRAKE_PIN with no source active: every ENABLING or ON partition curls with cause brake and glides to the slower of PWR_BRAKE and its pace, and the
onset is recorded; with another source active only the source is noted; releases clear their source. A partition at its own request takes it once
VDD_CORE has reached the setpoint (R368, R378, R380, R382). -/
def Obligations.BrakesAndVoltage : Prop :=
  ∀ s : State,
    (s.ev9.up = true → s.ev9.power.brakeSrc = 0 → Runs .brakePin s fun u => u.ev9.power = { s.ev9.power with brakeSrc := 1, braked := true, brakeSeen := true }
      ∧ (∀ p, p < 8 → ((s.ev9.part p).powered = true → (u.ev9.part p).curl.curled = true ∧ CurlCause.brake ∈ (u.ev9.part p).curl.causes
          ∧ (u.ev9.part p).clk.glide = true ∧ (u.ev9.part p).clk.braked = true
          ∧ (u.ev9.part p).clk.pace.val = max s.ev9.power.brakePace.val (s.ev9.part p).clk.pace.val)
        ∧ ((s.ev9.part p).powered = false → u.ev9.part p = s.ev9.part p))
      ∧ (∃ f, tfind u.ev9.svc.faults (s.ev9.svc.faultSeq.toNat % 256) = some f ∧ f.source = 8 ∧ f.cause = 0x0800 ∧ f.part = 0x80 ∧ f.d0 = 1
          ∧ f.d1.toNat = s.ev9.power.brakePace.val)
      ∧ u.ev9.mem = s.ev9.mem ∧ u.ev9.cores = s.ev9.cores)
    ∧ (s.ev9.up = true → s.ev9.power.brakeSrc ≠ 0 → Runs .brakePin s fun u =>
      u = { s with ev9 := { s.ev9 with power := { s.ev9.power with brakeSrc := s.ev9.power.brakeSrc ||| 1 } } })
    ∧ (s.ev9.up = true → s.ev9.power.brakeSrc &&& 14 ≠ 0 → Runs .brakePinRelease s fun u =>
      u = { s with ev9 := { s.ev9 with power := { s.ev9.power with brakeSrc := s.ev9.power.brakeSrc &&& 14 } } })
    ∧ (s.ev9.up = true → s.ev9.power.brakeSrc &&& 14 = 0 → Runs .brakePinRelease s fun u => u.ev9.power.brakeSrc = 0 ∧ u.ev9.mem = s.ev9.mem
      ∧ u.ev9.cores = s.ev9.cores)
    ∧ (s.ev9.up = true → 1000 ≤ s.ev9.therm.brakeCool → Runs .thermalBrakeRelease s fun u => u.ev9.power.brakeSrc = s.ev9.power.brakeSrc &&& 11
      ∧ u.ev9.mem = s.ev9.mem ∧ u.ev9.cores = s.ev9.cores ∧ u.ev9.therm = s.ev9.therm)
    ∧ (s.ev9.power.vddReached = false → (∀ p, p < 8 → s.ev9.ownPace p = true → setpoint s.ev9.chip.strict (s.ev9.part p).request.val ≤ s.ev9.power.vdd) →
      Runs .vddCoreRiseReached s fun u => (∀ p, p < 8 → s.ev9.ownPace p = true → (s.ev9.part p).clk.braked = false →
          (u.ev9.part p).clk.pace = (s.ev9.part p).request ∧ (u.ev9.part p).clk.pending = none)
        ∧ (∀ p, s.ev9.ownPace p = false → u.ev9.part p = s.ev9.part p) ∧ u.ev9.mem = s.ev9.mem ∧ u.ev9.cores = s.ev9.cores)

/-- RAIL_POLL takes each rail's reading, counts a failed poll, and a third sample above 1.05 × the cap is a brake; GOVERNOR_EVALUATION gives every
ENABLING or ON partition a request of its base plus the thermal term, none above 7, and the others no budget; FLAT_WINDOW_END counts flat windows to
600; THERMAL_SAMPLE takes the sensors, Tj is their highest, and 115 °C asserts THERMTRIP_N (R366, R375, R376, R380, R383–R385). Clauses that go beyond
the spec's words rest on the model's choices of log 27. -/
def Obligations.PowerSamples : Prop :=
  ∀ s : State,
    (∀ rs : List (Option RailReading), s.ev9.svc.boot = .complete → rs.length = 6 → Runs (.railPoll rs) s fun u =>
      u.ev9.svc.timeMs = s.ev9.svc.timeMs + 1
      ∧ (∀ r m, rs[r]? = some (some m) → tget 0 u.ev9.power.measPower r = m.power ∧ tget 0 u.ev9.power.measVolts r = m.volts ∧ tget 0 u.ev9.power.fails r = 0)
      ∧ (∀ r, rs[r]? = some none → tget 0 u.ev9.power.measPower r = tget 0 s.ev9.power.measPower r
        ∧ tget 0 u.ev9.power.fails r = tget 0 s.ev9.power.fails r + 1)
      ∧ (2 ≤ s.ev9.power.overRun → 105 * (1000 * s.ev9.power.cap) < 100 * u.ev9.power.measured → u.ev9.power.brakeSrc.getLsbD 1 = true)
      ∧ u.ev9.mem = s.ev9.mem ∧ u.ev9.cores = s.ev9.cores)
    ∧ (s.ev9.up = true → Runs .governorEvaluation s fun u =>
      (∀ p, p < 8 → (s.ev9.part p).powered = true → (u.ev9.part p).request.val = min 7 ((u.ev9.part p).base.val + s.ev9.therm.term))
      ∧ (∀ p, p < 8 → (s.ev9.part p).powered = true → s.ev9.power.fallback = true → (u.ev9.part p).base = (s.ev9.part p).base)
      ∧ (∀ p, p < 8 → (s.ev9.part p).powered = false → u.ev9.part p = { s.ev9.part p with budget := 0 })
      ∧ (s.ev9.therm.throttling = false → 0 < s.ev9.therm.term → u.ev9.therm.throttling = true ∧ Recorded 9 0x0801 0 s u)
      ∧ u.ev9.mem = s.ev9.mem ∧ u.ev9.cores = s.ev9.cores)
    ∧ (s.ev9.svc.boot = .complete → Runs .flatWindowEnd s fun u => u.ev9.power.samples = [] ∧ u.ev9.power.ballastRan = false
      ∧ (s.ev9.power.ballastRan = false → flatSamples s.ev9.power.samples = true → u.ev9.power.flat.toNat = min 600 (s.ev9.power.flat.toNat + 1))
      ∧ (s.ev9.power.ballastRan = true ∨ flatSamples s.ev9.power.samples = false → u.ev9.power.flat = 0)
      ∧ (∀ p, p < 8 → (u.ev9.part p).tier.ceThisSecond = false) ∧ (∀ n, n < 12 → (u.ev9.port n).replayThisSecond = false)
      ∧ u.ev9.mem = s.ev9.mem ∧ u.ev9.cores = s.ev9.cores)
    ∧ ∀ rs : List Int, s.ev9.svc.boot = .complete → rs.length = 82 → (∀ x ∈ rs, -128 ≤ x ∧ x ≤ 127) → Runs (.thermalSample rs) s fun u =>
      (∀ i x, rs[i]? = some x → (tget 0 u.ev9.therm.sensors i).toInt = x) ∧ u.ev9.therm.tj.toInt ∈ rs ∧ (∀ x ∈ rs, x ≤ u.ev9.therm.tj.toInt)
      ∧ ((∃ x ∈ rs, 115 ≤ x) → u.ev9.therm.trip = true) ∧ ((∀ x ∈ rs, x < 115) → u.ev9.therm.trip = s.ev9.therm.trip)
      ∧ u.ev9.mem = s.ev9.mem ∧ u.ev9.cores = s.ev9.cores

/-- A slot's way up and down: VAUX_POWER_UP clears the hold domain but what FRAM and restore_on keep; a channel that may start ramps from the bus
voltage; power good makes it ON and its retries begin anew; a ramp or a discharge that takes too long LATCHES it; held ramps resume; below 36 V every
ramp aborts and the interval of the next retry doubles up to 8 s, counted from the output's fall below 2 V; a retry ramps again (R398–R400, R414, R417, R418). Clauses that go beyond the spec's words rest
on the model's choices of log 35, 59. -/
def Obligations.SlotsPowerUp : Prop :=
  ∀ (n : TraySlot) (s : State) (x : TrayCh) (mv : Nat), s.nw8.inv = true → x = s.nw8.chan n →
    (∀ addr vsel, Runs (.vauxPowerUp addr vsel) s fun u =>
      (∀ k, k < 8 → u.nw8.chan k = { hostOn := (s.nw8.chan k).hostOn, restoreOn := (s.nw8.chan k).restoreOn })
      ∧ u.nw8.hold = {} ∧ u.nw8.running = false ∧ u.nw8.addr = addr ∧ u.nw8.budget = 12000 ∧ u.nw8.audit = s.nw8.audit
      ∧ u.nw8.installerKey = s.nw8.installerKey ∧ u.nw8.sessHost = {} ∧ u.nw8.sessRack = {} ∧ u.ev9 = s.ev9)
    ∧ (s.nw8.running = false → s.nw8.hold.kept = false → Runs .nw8FirmwareRunning s fun u => u.nw8.running = true
      ∧ u.nw8.hold = { s.nw8.hold with autonomous := s.nw8.hold.lastCmd.isNone, lastKick := s.nw8.hold.timeMs } ∧ ∀ k, (u.nw8.chan k).settled = (s.nw8.chan k).settled)
    ∧ (s.nw8.mayStart n = true → Runs (.inrushStart n mv) s fun u => OnlySlot n { x with
        state := .inrush, present := true, fault := .none, resetLow := true, vs := mv, hold := false } s u ∧ u.nw8.busMv = mv)
    ∧ (x.state = .inrush → x.hold = false → Runs (.powerGood n) s (OnlySlot n { x with
        state := .on, aborts := 0, retryNext := 500, identified := false, checked := false, swap := if x.swap = some 6 then some 7 else x.swap } s))
    ∧ (x.state = .inrush → x.hold = false → Runs (.inrushTimeout n) s fun u => OnlySlot n (x.latch .inrushTimeout) s u ∧ Told n s u)
    ∧ (x.state = .on → x.resetLow = true → Runs (.slotResetRelease n) s fun u => u = { s with nw8 := { s.nw8 with chans := u.nw8.chans } }
      ∧ u.nw8.chan n = { x with resetLow := false, upSecs := 0 } ∧ ∀ k, k ≠ n.val → u.nw8.chan k = s.nw8.chan k)
    ∧ (x.state = .discharging → Runs (.dischargeComplete n) s
      (OnlySlot n { x with state := .off, offSecs := 0, swap := if x.swap = some 3 then some 4 else x.swap } s))
    ∧ (x.state = .waitRetry → Runs (.dischargeComplete n) s fun u => u = { s with nw8 := { s.nw8 with chans := u.nw8.chans } }
      ∧ u.nw8.chan n = { x with lowSecs := some (x.lowSecs.getD 0) } ∧ ∀ k, k ≠ n.val → u.nw8.chan k = s.nw8.chan k)
    ∧ (x.state = .discharging ∨ x.state = .waitRetry ∧ x.lowSecs = none → 5 ≤ x.offSecs → Runs (.dischargeFail n) s fun u => OnlySlot n (x.latch .dischargeFail) s u ∧ Told n s u)
    ∧ (Runs (.busSag mv) s fun u => u = { s with nw8 := { s.nw8 with chans := u.nw8.chans, busMv := mv } }
      ∧ ∀ k, k < 8 → u.nw8.chan k = if (s.nw8.chan k).state = .inrush ∧ 100 * mv < 92 * (s.nw8.chan k).vs ∧ 36000 ≤ mv
          then { s.nw8.chan k with hold := true } else s.nw8.chan k)
    ∧ (Runs (.busRecover mv) s fun u => u = { s with nw8 := { s.nw8 with chans := u.nw8.chans, busMv := mv } }
      ∧ ∀ k, k < 8 → u.nw8.chan k = if 92 * (s.nw8.chan k).vs < 100 * mv then { s.nw8.chan k with hold := false } else s.nw8.chan k)
    ∧ (mv < 36000 → Runs (.busUndervoltage mv) s fun u => OnlyTray s u ∧ u.nw8.busMv = mv
      ∧ ∀ k, k < 8 → (u.nw8.chan k).settled = if (s.nw8.chan k).state = .inrush then (TrayCh.settled { (s.nw8.chan k).gateOff with
          state := .waitRetry, aborts := satAdd (s.nw8.chan k).aborts 1
          retryMs := (s.nw8.chan k).retryNext, retryNext := min 8000 (2 * (s.nw8.chan k).retryNext) }) else (s.nw8.chan k).settled)
    ∧ (∀ k, x.state = .waitRetry → x.lowSecs = some k → x.retryMs + 50 * n.val < 1000 * k + 1000 → x.resolved = true → s.nw8.cool.emergency = false → s.nw8.feedReversed = false → 36000 ≤ mv →
      Runs (.retryTimerExpiry n mv) s fun u => OnlySlot n { x with
        state := .inrush, present := true, fault := .none, resetLow := true, vs := mv, hold := false } s u ∧ u.nw8.busMv = mv)

/-- Protection and alerts: a short or breaker trip LATCHES a live channel, a reversed output BLOCKS one until it clears, a removal discharges it, a
removal of 1 s clears a latch; an open output is flagged; a reversed feed turns every live channel off; a thermal trip, or silence below 2 A, LATCHES;
an unanswered cap brakes until its slot obeys (R401–R405, R416, R419, R450, R451). Clauses that go beyond the spec's words rest on the model's choices
of log 35, 59. -/
def Obligations.SlotsProtect : Prop :=
  ∀ (n : TraySlot) (s : State) (x : TrayCh), s.nw8.inv = true → x = s.nw8.chan n →
    (x.state = .inrush ∨ x.state = .on →
      (∀ peak didt, Runs (.shortTrip n peak didt) s fun u => ButNotes (OnlySlot n { x.latch .short with
          tripPeak := BitVec.ofNat 16 (min peak 65535)
          tripDidt := BitVec.ofNat 12 (min didt 4095)
          tripTime := BitVec.ofNat 32 s.nw8.hold.timeMs } s) s u ∧ Told n s u)
      ∧ (Runs (.breakerTrip n) s fun u => OnlySlot n (x.latch .breaker) s u ∧ Told n s u)
      ∧ (Runs (.surpriseRemoval n) s fun u => OnlyTray s u ∧ (u.nw8.chan n).state = .discharging ∧ (u.nw8.chan n).present = false
        ∧ (u.nw8.chan n).retryNext = 500 ∧ ∀ k, k ≠ n.val → (u.nw8.chan k).settled = (s.nw8.chan k).settled)
      ∧ (s.nw8.acts = true →
        (Runs (.slotAlert n .thermalTrip) s fun u => OnlySlot n (x.latch .thermtrip) s u ∧ Told n s u)
        ∧ (Runs (.slotAlert n .other) s fun u => u = { s with nw8 := { s.nw8 with chans := u.nw8.chans } } ∧ u.nw8.chan n = { x with alertLow := true }
          ∧ ∀ k, k ≠ n.val → u.nw8.chan k = s.nw8.chan k)
        ∧ (∀ ma, ma < 2000 → Runs (.alertReplyTimeout n ma) s fun u => OnlySlot n (x.latch .thermtrip) s u ∧ Told n s u)
        ∧ (∀ ma, 2000 ≤ ma → Runs (.alertReplyTimeout n ma) s fun u => u = { s with nw8 := { s.nw8 with chans := u.nw8.chans } }
          ∧ u.nw8.chan n = { x with alertLow := true } ∧ ∀ k, k ≠ n.val → u.nw8.chan k = s.nw8.chan k)
        ∧ (x.capAnswered = false ∨ x.effective ≠ x.written → Runs (.capReplyTimeout n) s fun u => OnlySlot n { x with capBrake := true } s u ∧ (u.nw8.chan n).brakeLow = true)))
    ∧ (x.state ≠ .blocked → x.state ≠ .latched → Runs (.reversedOutput n) s fun u =>
        OnlySlot n { x.latch .reversed with state := .blocked } s u ∧ Told n s u)
    ∧ (x.state = .blocked → Runs (.reverseCleared n) s
        (OnlySlot n { x with state := .off, fault := .none, swap := if x.swap = some 3 then some 4 else x.swap } s))
    ∧ (x.state = .latched → Runs (.removalLatchClear n) s fun u => OnlyTray s u ∧ (u.nw8.chan n).state = .discharging ∧ (u.nw8.chan n).fault = .none
        ∧ (u.nw8.chan n).present = false ∧ (u.nw8.chan n).awaitOrder = true ∧ ∀ k, k ≠ n.val → (u.nw8.chan k).settled = (s.nw8.chan k).settled)
    ∧ (s.nw8.acts = true → x.state = .on → x.present = true → x.opened = false → Runs (.openDetect n) s fun u =>
        OnlyTray s u ∧ u.nw8.chan n = { x with opened := true } ∧ u.nw8.host.news = true ∧ ∀ k, k ≠ n.val → u.nw8.chan k = s.nw8.chan k)
    ∧ (s.nw8.acts = true → x.opened = true → Runs (.openFlagClear n) s fun u => u = { s with nw8 := { s.nw8 with chans := u.nw8.chans } }
        ∧ u.nw8.chan n = { x with opened := false } ∧ ∀ k, k ≠ n.val → u.nw8.chan k = s.nw8.chan k)
    ∧ (s.nw8.feedReversed = false → Runs .feedReversed s fun u => OnlyTray s u ∧ u.nw8.feedReversed = true
        ∧ ∀ k, k < 8 → (u.nw8.chan k).settled = if (s.nw8.chan k).live || (s.nw8.chan k).state == .waitRetry
          then (s.nw8.chan k).gateOff.settled else (s.nw8.chan k).settled)
    ∧ (s.nw8.feedReversed = true → Runs .feedReversedClear s fun u => u = { s with nw8 := { s.nw8 with feedReversed := false } })
    ∧ (∀ watts, s.nw8.acts = true → x.shedBrake = true → x.capAnswered = true → x.effective = x.written → watts ≤ x.effective.toNat → Runs (.shedBrakeRelease n watts) s
        (OnlySlot n { x with shedBrake := false, capBrake := false } s))

/-- SLOT_SWAP's course: stage 1 ends when all eight partitions read OFF and the channel discharges, stage 4 when the module is gone, stage 5 when one
is there again; its timeout ends it with code 4. SLOT_IDENTIFY_POLL: an answer identifies the module, a good one passes its self-check and ends stage
7 with code 0; 30 s without one end it with code 2 (R484, R495). Clauses that go beyond the spec's words rest on the model's choices of log 35, 59. -/
def Obligations.SwapsRun : Prop :=
  ∀ (n : TraySlot) (s : State) (x : TrayCh), x = s.nw8.chan n → s.nw8.acts = true →
    (∀ sts : List Nat, sts.length = 8 → (∀ k ∈ sts, k = 0) → ∀ present, x.swap = some 1 → Runs (.swapPoll n present sts) s fun u => OnlyTray s u
      ∧ (x.live = true → (u.nw8.chan n).state = .discharging ∧ (u.nw8.chan n).swap = some 3)
      ∧ (x.state = .off → (u.nw8.chan n).swap = some 4) ∧ ∀ k, k ≠ n.val → (u.nw8.chan k).settled = (s.nw8.chan k).settled)
    ∧ (∀ sts, x.swap = some 4 → Runs (.swapPoll n false sts) s fun u => OnlyTray s u ∧ (u.nw8.chan n).swap = some 5 ∧ (u.nw8.chan n).present = false
      ∧ ∀ k, k ≠ n.val → (u.nw8.chan k).settled = (s.nw8.chan k).settled)
    ∧ (∀ sts, x.swap = some 5 → x.resolved = true → Runs (.swapPoll n true sts) s fun u => u = { s with nw8 := { s.nw8 with chans := u.nw8.chans } }
      ∧ u.nw8.chan n = { x with present := true, swap := some 6, awaitOrder := false } ∧ ∀ k, k ≠ n.val → u.nw8.chan k = s.nw8.chan k)
    ∧ (∀ d : NwDeferred, s.nw8.deferred = [d] → d.work = .swap n → d.via = .nwHost →
      (x.swap = some 1 → 600 ≤ x.swapSecs → Runs (.swapStage1Timeout n) s fun u => u.nw8.deferred = [] ∧ (u.nw8.chan n).swap = none
        ∧ u.nw8.host.replies = s.nw8.host.replies ++ [{ tag := d.tag, status := 0x13, final := true, result := [4] }])
      ∧ (x.swap = some 7 → x.checked = false → x.resetLow = false → 30 ≤ x.upSecs → Runs (.selfCheckTimeout n) s fun u => u.nw8.deferred = [] ∧ (u.nw8.chan n).swap = none
        ∧ u.nw8.host.replies = s.nw8.host.replies ++ [{ tag := d.tag, status := 0x13, final := true, result := [2] }])
      ∧ (∀ r : ModuleReply, x.swap = some 7 → x.state = .on → x.resetLow = false → x.checked = false → r.major ≠ 0 → r.powerOk = true →
        Runs (.slotIdentifyPoll n (some r)) s fun u => u.nw8.deferred = [] ∧ (u.nw8.chan n).swap = none
          ∧ u.nw8.host.replies = s.nw8.host.replies ++ [{ tag := d.tag, status := 0, final := true, result := [0] }]))
    ∧ (∀ r : ModuleReply, x.swap = none → x.state = .on → x.resetLow = false → x.checked = false → Runs (.slotIdentifyPoll n (some r)) s
      (OnlySlot n { x with identified := true, checked := r.major != 0 && r.powerOk } s))

/-- COOLANT_SAMPLE advances the hold domain by a second and, outside kept mode, derives the derate of R407; five such seconds below 300 W, a leak, or
swapped hoses brake every slot; the delay LATCHES the live channels; the end of an emergency clears it; pump, fan and lamp faults are flagged and told
(R406–R413, R416, R423, R446). Clauses that go beyond the spec's words rest on the model's choices of log 35, 59. -/
def Obligations.CoolantAndLamps : Prop :=
  ∀ (s : State) (c : Coolant), c = s.nw8.cool →
    (∀ r, s.nw8.acts = false → Runs (.coolantSample r) s fun u =>
      u = { s with nw8 := { s.nw8 with
        hold := { s.nw8.hold with timeMs := (s.nw8.hold.timeMs + 1000) % 2 ^ 32 }, chans := u.nw8.chans
        cool := { c with leakSeconds := if c.leak then c.leakSeconds + 1 else 0 }, locTimed := s.nw8.locTimed.map fun x => (x.1, x.2 - 1) } }
      ∧ ∀ k, k < 8 → u.nw8.chan k = { s.nw8.chan k with
        lowSecs := (s.nw8.chan k).lowSecs.map (· + 1), offSecs := (s.nw8.chan k).offSecs + 1
        upSecs := (s.nw8.chan k).upSecs + 1, swapSecs := (s.nw8.chan k).swapSecs + 1 })
    ∧ (∀ (r : CoolantReading) ts raw, s.nw8.acts = true → r.ts = some ts → raw = derateRaw ts r.flow s.nw8.liveCount → Runs (.coolantSample r) s fun u =>
      u.nw8.hold.timeMs = (s.nw8.hold.timeMs + 1000) % 2 ^ 32 ∧ u.nw8.cool.ts = ts ∧ u.nw8.cool.flow = r.flow
      ∧ u.nw8.cool.derate = BitVec.ofNat 10 (if raw < 300 then 300 else if 900 < raw then 900 else raw.toNat)
      ∧ u.nw8.cool.flowLow = decide (r.flow.natAbs < 150 * s.nw8.liveCount) ∧ u.nw8.cool.supplyHot = decide (500 < ts)
      ∧ (raw < 300 → 4 ≤ c.lowSeconds → u.nw8.cool.emergency = true ∧ ∀ k, k < 8 → (u.nw8.chan k).brakeLow = true)
      ∧ (∀ k, (u.nw8.chan k).state = (s.nw8.chan k).state ∧ (u.nw8.chan k).fault = (s.nw8.chan k).fault) ∧ u.ev9 = s.ev9)
    ∧ (s.nw8.acts = true → 5 ≤ c.reverseSeconds → 200 ≤ c.liveWatts → c.tr + 10 ≤ c.ts → Runs .flowReversalFinding s fun u => OnlyTray s u
      ∧ u.nw8.cool = { c with
        swapped := true, emergency := true, alarmSeconds := if c.emergency then c.alarmSeconds else 0
        clearSeconds := if c.emergency then c.clearSeconds else 0 }
      ∧ (c.emergency = false → ∀ k, k < 8 → (u.nw8.chan k).brakeLow = true) ∧ ∀ k, (u.nw8.chan k).settled = (s.nw8.chan k).settled)
    ∧ (s.nw8.acts = true → 5 ≤ c.reverseSeconds → 200 ≤ c.liveWatts → c.ts ≤ c.tr → c.flowReversed = false → Runs .flowReversalFinding s fun u => OnlyTray s u
      ∧ u.nw8.cool = { c with flowReversed := true } ∧ u.nw8.chans = s.nw8.chans ∧ u.nw8.host.news = true)
    ∧ (c.leak = false → Runs .leakDetect s fun u => OnlyTray s u ∧ u.nw8.cool = { c with
        leak := true, leakSeconds := 0, emergency := true, alarmSeconds := if c.emergency then c.alarmSeconds else 0, clearSeconds := 0 } ∧ Told 8 s u
      ∧ (∀ k, k < 8 → (u.nw8.chan k).brakeLow = true) ∧ ∀ k, (u.nw8.chan k).settled = (s.nw8.chan k).settled)
    ∧ (c.emergency = true → s.nw8.acts = true ∧ 10 ≤ c.alarmSeconds ∨ c.leak = true ∧ 2 ≤ c.leakSeconds → Runs .coolantLatchDelay s fun u => OnlyTray s u ∧ u.nw8.cool = c
      ∧ ∀ k, k < 8 → (u.nw8.chan k).settled = if (s.nw8.chan k).live then ((s.nw8.chan k).latch .coolant).settled else (s.nw8.chan k).settled)
    ∧ (s.nw8.acts = true → c.emergency = true → 60 ≤ c.clearSeconds →
      (c.leak = true → ∀ k, k < 8 → (s.nw8.chan k).state = .latched → (s.nw8.chan k).fault ≠ .coolant) → Runs .coolantEmergencyEnd s fun u => OnlyTray s u
      ∧ u.nw8.cool = { c with emergency := false, leak := false, leakSeconds := 0 } ∧ ∀ k, (u.nw8.chan k).settled = (s.nw8.chan k).settled)
    ∧ (s.nw8.acts = true → c.pumpFault = false → Runs .pumpFault s fun u => OnlyTray s u ∧ u.nw8.cool = { c with pumpFault := true }
      ∧ u.nw8.chans = s.nw8.chans ∧ u.nw8.host.news = true)
    ∧ (∀ f : Fin 4, s.nw8.acts = true → 3 ≤ (s.nw8.fan f).slowSeconds → Runs (.fanFault f) s fun u =>
      u.nw8.fan f = { s.nw8.fan f with fault := true } ∧ (∀ k, k ≠ f.val → u.nw8.fan k = s.nw8.fan k) ∧ u.nw8.host.news = true
      ∧ u.nw8.chans = s.nw8.chans ∧ u.nw8.cool = c)
    ∧ (∀ l : Fin 20, s.nw8.acts = true → s.nw8.lampShown l ≠ 0 → (s.nw8.lamp l).short = false → Runs (.lampCheck l .short) s fun u =>
      u.nw8.lamp l = { s.nw8.lamp l with short := true } ∧ (∀ k, k ≠ l.val → u.nw8.lamp k = s.nw8.lamp k) ∧ NwAudited 7 0 (0x200 + 4 * l.val) u
      ∧ u.nw8.host.news = true ∧ u.nw8.chans = s.nw8.chans)
    ∧ (∀ l : Fin 9, s.nw8.acts = true → tfind s.nw8.locTimed l.val = some 0 → Runs (.locateExpiry l) s fun u =>
      (∀ k, k ∈ u.nw8.locates ↔ k ∈ s.nw8.locates ∧ k ≠ l.val) ∧ tfind u.nw8.locTimed l.val = none ∧ (∀ k, k ≠ l.val → tfind u.nw8.locTimed k = tfind s.nw8.locTimed k)
      ∧ u = { s with nw8 := { s.nw8 with locates := u.nw8.locates, locTimed := u.nw8.locTimed } })

/-- The hold domain: a kick notes its time; at the watchdog's expiry the CPU restarts, its sessions end and kept mode holds orders, channels and
outputs; the adoption ends kept mode, counts the restart and records it; autonomous mode begins; SLOT_CTRL's switch needs no role and its other fields
do; HOLD_PEEK selects for an installer, and above 31 only with the jumper fitted (R415–R418, R421, R515). Clauses that go beyond the spec's words rest
on the model's choices of log 35, 59. -/
def Obligations.HoldDomain : Prop :=
  ∀ s : State,
    (∀ path : RegPath, path = .nwHost ∨ path = .nwRack → s.nw8.running = true →
      (Runs (.watchdogKick path) s fun u => u.nw8.hold = { s.nw8.hold with
          lastKick := s.nw8.hold.timeMs, lastCmd := some s.nw8.hold.timeMs, autonomous := false } ∧ u.nw8.chans = s.nw8.chans ∧ u.ev9 = s.ev9)
      ∧ (∀ (n : TraySlot) (v : Word), Runs (.slotIsolateWrite path n v) s fun u => (u.nw8.chan n).isolate = v.getLsbD 12
          ∧ (u.nw8.chan n).breaker = (if s.pathRole path = .operator then (s.nw8.chan n).breaker else v.extractLsb' 0 5)
          ∧ (u.nw8.chan n).restoreOn = (if s.pathRole path = .operator then (s.nw8.chan n).restoreOn else v.getLsbD 8)
          ∧ NwAudited (if s.pathRole path = .operator then 4 else 5) (if s.pathRole path = .operator then 0x12 else 0) (0x100 + 0x20 * n.val) u
          ∧ ∀ k, k ≠ n.val → u.nw8.chan k = s.nw8.chan k)
      ∧ (∀ (n : Fin 2) (v : Word), s.pathRole path ≠ .operator → v.toNat % 64 < 32 ∨ s.nw8.factoryLow = true → Runs (.holdPeekWrite path n v) s fun u =>
          (if n = 0 then u.nw8.hold.peek0 else u.nw8.hold.peek1).toNat = v.toNat % 64 + (if v.getLsbD 7 then 128 else 0)
          ∧ (if n = 0 then u.nw8.hold.peek1 = s.nw8.hold.peek1 else u.nw8.hold.peek0 = s.nw8.hold.peek0)
          ∧ NwAudited 5 0 (0x20 + 4 * n.val) u ∧ u.nw8.chans = s.nw8.chans)
      ∧ (∀ (n : Fin 2) (v : Word), s.pathRole path = .operator ∨ 32 ≤ v.toNat % 64 ∧ s.nw8.factoryLow = false → Runs (.holdPeekWrite path n v) s fun u =>
          u.nw8.hold.peek0 = s.nw8.hold.peek0 ∧ u.nw8.hold.peek1 = s.nw8.hold.peek1 ∧ NwAudited 4 0x12 (0x20 + 4 * n.val) u ∧ u.nw8.chans = s.nw8.chans))
    ∧ (s.nw8.acts = true → s.since .nw8 s.nw8.hold.lastKick s.nw8.hold.wdtMs = true → Runs .watchdogExpiry s fun u => u.nw8.running = false ∧ u.nw8.hold = { s.nw8.hold with kept := true, cause := 1 }
      ∧ u.nw8.sessHost = {} ∧ u.nw8.sessRack = {} ∧ u.nw8.deferred = [] ∧ u.nw8.host.replies = [] ∧ u.nw8.rackPort.replies = []
      ∧ (∀ k, k < 8 → u.nw8.chan k = { s.nw8.chan k with swap := none }) ∧ u.nw8.cool = s.nw8.cool ∧ u.nw8.budget = s.nw8.budget ∧ u.ev9 = s.ev9)
    ∧ (∀ path : RegPath, path = .nwHost ∨ path = .nwRack → s.nw8.hold.kept = true → Runs (.adopt path) s fun u => u.nw8.running = true
      ∧ u.nw8.hold = { s.nw8.hold with kept := false, restarts := satAdd s.nw8.hold.restarts 1, events := [], lastKick := s.nw8.hold.timeMs }
      ∧ (∀ k, (u.nw8.chan k).settled = (s.nw8.chan k).settled) ∧ u.nw8.auditSeq = s.nw8.auditSeq + 1 + BitVec.ofNat 32 s.nw8.hold.events.length
      ∧ (s.nw8.hold.events = [] → ∃ a, u.nw8.audit.getLast? = some a ∧ a.kind = 7 ∧ a.detail.toNat = s.nw8.hold.cause.toNat))
    ∧ (s.nw8.acts = true → s.nw8.hold.autonomous = false → s.since .nw8 (s.nw8.hold.lastCmd.getD 0) s.nw8.hold.autoMs = true → Runs .autonomousEntry s fun u =>
      u = { s with nw8 := { s.nw8 with hold := { s.nw8.hold with autonomous := true } } })

/-- A 0xE1 read sends the oldest reply, takes it off the queue and clears the news; a 0xE4 read sends the last block again and changes nothing. A port
whose word is not zero is told again; the NW8 stores the entries that a slot forwards, under the slot's number. A low clock or data line, a stretched
clock and a lost arbitration set their bit or count; a target then resets and its session ends, and a stuck downstream port begins its ladder, whose
rungs are logged (R428–R437, R454). Clauses that go beyond the spec's words rest on the model's choices of log 35, 59. -/
def Obligations.TwoWirePorts : Prop :=
  ∀ (s : State),
    (∀ (port : TwPort) (q : TwoWire), q = s.port2 port → s.port2Up port = true →
      (port.session?.isSome = true → q.retry = false → Runs (.smbusReplyFetch port) s fun u => u.outbox = s.outbox ++ [.smbBlock port (replyBlock q.replies)]
        ∧ (u.port2 port).replies = q.replies.drop 1 ∧ (u.port2 port).lastBlock = replyBlock q.replies ∧ (u.port2 port).news = false
        ∧ u.ev9.parts = s.ev9.parts ∧ u.nw8.chans = s.nw8.chans)
      ∧ (port.session?.isSome = true → Runs (.smbusReplyReread port) s fun u => u = { s with outbox := s.outbox ++ [.smbBlock port q.lastBlock] })
      ∧ (q.notify = true → s.word2 port ≠ 0 → Runs (.hostNotifyRepeat port) s fun u => u.outbox = s.outbox ++ [.hostNotify port (BitVec.ofNat 16 (s.word2 port))]
        ∧ (u.port2 port).replies = q.replies ∧ u.ev9.parts = s.ev9.parts ∧ u.nw8.chans = s.nw8.chans)
      ∧ (∀ i ∈ port.session?, Runs (.sclLowTimeout port) s fun u => (u.port2 port).sclLow = true ∧ (u.session i).role = .operator ∧ .smbReset port ∈ u.outbox)
      ∧ (∀ i ∈ port.session?, Runs (.sdaLowTimeout port) s fun u => (u.port2 port).sdaLow = true ∧ (u.session i).role = .operator ∧ .smbReset port ∈ u.outbox)
      ∧ (∀ i ∈ port.session?, Runs (.stretchTimeout port) s fun u => (u.port2 port).stretch = true ∧ (u.session i).role = .operator ∧ .smbReset port ∈ u.outbox)
      ∧ (∀ a, port = .smb0 ∨ port = .smb1 → Runs (.arbitrationLoss port a) s fun u => (u.port2 port).arbLosses = satAdd q.arbLosses 1
        ∧ (u.port2 port).retry = (port == .smb0 || q.retry) ∧ (u.port2 port).replies = q.replies ∧ u.ev9.parts = s.ev9.parts ∧ u.nw8 = s.nw8)
      ∧ (∀ a, port ≠ .smb0 → port ≠ .smb1 → Runs (.arbitrationLoss port a) s fun u => u.port2 port = { q with retry := true } ∧ u.ev9 = s.ev9
        ∧ u.nw8.chans = s.nw8.chans))
    ∧ (∀ (n : TraySlot) (q : TwoWire), q = s.nw8.downPort n → s.nw8.acts = true →
      (q.stuck = false → q.failed = false → q.isLocal = false → Runs (.sclLowTimeout (.down n)) s fun u =>
        u.nw8.downPort n = { q with sclLow := true, stuck := true, ladder := 0 } ∧ (∀ k, k ≠ n.val → u.nw8.downPort k = s.nw8.downPort k) ∧ u.ev9 = s.ev9)
      ∧ (q.stuck = true → q.ladder = 0 → Runs (.recoveryRung n .lineLow) s fun u => u.nw8.downPort n = { q with rung := 1, ladder := 1 }
        ∧ .rung (.down n) 1 ∈ u.outbox ∧ NwAudited 10 0 (0x0414 + 8 * n.val) u ∧ u.nw8.host.news = true ∧ u.nw8.chans = s.nw8.chans)
      ∧ (q.stuck = true → q.ladder = 0 → Runs (.recoveryRung n .freed) s fun u => (u.nw8.downPort n).stuck = false
        ∧ (u.nw8.downPort n).recoveries = satAdd q.recoveries 1 ∧ (u.nw8.downPort n).rung = 1 ∧ (u.nw8.chan n).isolate = false)
      ∧ (q.stuck = true → q.ladder = 1 → Runs (.recoveryRung n .nwLow) s fun u => (u.nw8.downPort n).isLocal = true ∧ (u.nw8.downPort n).stuck = false
        ∧ (u.nw8.chan n).isolate = true)
      ∧ (q.stuck = true → 4 ≤ q.ladder → (s.nw8.chan n).state = .on → Runs (.recoveryRung n .lineLow) s fun u => (u.nw8.downPort n).failed = true
        ∧ (u.nw8.downPort n).stuck = false ∧ (u.nw8.chan n).isolate = true)
      ∧ (∀ (w : BitVec 16) e, (s.nw8.chan n).isolate = false → w.getLsbD 15 = true → s.nw8.audit.length < 8192 → Runs (.hostNotifyReceive n w [e]) s fun u =>
        u.nw8.audit = s.nw8.audit ++ [forwardedEntry n e] ∧ u.nw8.logPos = (s.nw8.logPos + 1) % 8192
        ∧ ((forwardedEntry n e).carrier.toNat = (byteAt e 12).toNat % 16 + 16 * n.val + 128) ∧ u.ev9 = s.ev9))

/-- A session falls back to operator at its timeout, and its end is recorded with its role and cause 2; a lockout ends; a nonce expires. A jumper
taken off narrows a full unlock. DBG_OBS_SEL takes a selection in an unlocked set, counts and records it, and refuses one outside (R440–R443,
R511–R514). The test access ports: a reset selects IDCODE, IDCODE reads the chip's number, SAMPLE/PRELOAD and BYPASS need no gate; EXTEST, CLAMP,
HIGHZ and the IEEE 1149.6 pair come into force only with FACTORY_N low and every partition, or slot, OFF, and else load BYPASS, set the refusal bit
and are recorded; on the NW8 the pair is BYPASS (R503–R506, R532). That Test-Logic-Reset selects IDCODE is the model's choice from IEEE 1149.1 (log
9). Clauses that go beyond the spec's words rest on the model's choices of log 31, 59. -/
def Obligations.SessionsAndTestAccess : Prop :=
  (∀ (s : State),
      (∀ i : SessionId, (s.session i).role ≠ .operator → s.since (sessChip i) (s.session i).lastMs 900000 = true → Runs (.sessionTimeout i) s fun u => (u.session i).role = .operator
        ∧ (∀ k, k ≠ i → u.session k = s.session k) ∧ u.ev9.parts = s.ev9.parts ∧ u.nw8.chans = s.nw8.chans
        ∧ (i = .nwHost ∨ i = .nwRack → ∃ a, u.nw8.audit.getLast? = some a ∧ a.kind = 3 ∧ a.detail = 2 ∧ a.role.toNat = (s.session i).role.num))
      ∧ (∀ i : SessionId, (s.session i).locked = true → s.since (sessChip i) ((s.session i).fails.getLastD 0) 600000 = true → Runs (.lockoutEnd i) s fun u => u.session i = { s.session i with locked := false, fails := [] }
        ∧ (∀ k, k ≠ i → u.session k = s.session k) ∧ u.ev9.parts = s.ev9.parts ∧ u.nw8.chans = s.nw8.chans)
      ∧ (∀ i : SessionId, (s.session i).nonce ≠ none → s.since (sessChip i) (s.session i).nonceMs 60000 = true → Runs (.nonceExpiry i) s fun u => u.session i = { s.session i with nonce := none }
        ∧ (∀ k, k ≠ i → u.session k = s.session k) ∧ u.ev9.parts = s.ev9.parts ∧ u.nw8.chans = s.nw8.chans)
      ∧ (∀ high, Runs (.factoryNChange .nw8 high) s fun u => u.nw8.factoryLow = !high
        ∧ (u.nw8.unlockHost = if high ∧ s.nw8.unlockHost = 2 then 1 else s.nw8.unlockHost)
        ∧ (u.nw8.unlockRack = if high ∧ s.nw8.unlockRack = 2 then 1 else s.nw8.unlockRack) ∧ u.ev9 = s.ev9 ∧ u.nw8.chans = s.nw8.chans)
      ∧ (∀ high, Runs (.factoryNChange .ev9 high) s fun u => u.ev9.dbg.factoryLow = !high ∧ (high = true → u.ev9.dbg.unlockPf ≠ 2 ∧ u.ev9.dbg.unlockSmb ≠ 2)
        ∧ u.ev9.parts = s.ev9.parts ∧ u.nw8 = s.nw8)
      ∧ (∀ (n : Fin 8) (v : Dword), s.pathUp .pf = true →
        (s.ev9.dbg.unlockPf = 2 ∨ s.ev9.dbg.unlockPf = 1 ∧ v.toNat % 4096 < 256 → Runs (.dbgObsSelWrite .pf n v) s fun u =>
          u.ev9.dbg.peek n = { index := v.extractLsb' 0 12, enable := v.getLsbD 15, carrier := 0 } ∧ (∀ k, k ≠ n.val → u.ev9.dbg.peek k = s.ev9.dbg.peek k)
          ∧ u.ev9.dbg.changes = satAdd s.ev9.dbg.changes 1 ∧ Audited 5 0 (8 * n.val) u ∧ u.ev9.parts = s.ev9.parts)
        ∧ (s.ev9.dbg.unlockPf = 0 ∨ s.ev9.dbg.unlockPf = 1 ∧ 256 ≤ v.toNat % 4096 → Runs (.dbgObsSelWrite .pf n v) s fun u =>
          u.ev9.dbg = s.ev9.dbg ∧ Audited 4 0x12 (8 * n.val) u ∧ u.ev9.parts = s.ev9.parts)))
  ∧ (∀ (ch : Chip) (s : State) (tap : State → Tap), (tap = fun u => if ch = .ev9 then u.ev9.dbg.tap else u.nw8.tap) →
      (Runs (.tapReset ch) s fun u => tap u = { tap s with held := true, ir := 0x01 } ∧ u.ev9.parts = s.ev9.parts ∧ u.nw8.chans = s.nw8.chans)
      ∧ (s.tapUp ch = true →
        (Runs (.idcode ch) s fun u => u.outbox = s.outbox ++ [.registerRead (if ch = .ev9 then 0x10E904D7 else 0x10A084D7)]
          ∧ tap u = { tap s with held := false, ir := 0x01 } ∧ u.ev9.parts = s.ev9.parts ∧ u.nw8.chans = s.nw8.chans)
        ∧ (∀ d, Runs (.samplePreload ch d) s fun u => tap u = { held := false, ir := 0x02, boundary := d } ∧ u.ev9.parts = s.ev9.parts ∧ u.nw8.chans = s.nw8.chans)
        ∧ (Runs (.bypass ch) s fun u => tap u = { tap s with held := false, ir := 0xFF } ∧ u.ev9.parts = s.ev9.parts ∧ u.nw8.chans = s.nw8.chans)
        ∧ (∀ (d : Boundary) (i : Instr) (ir : BitVec 8) (b : Boundary), (i, ir, b) ∈ [(Instr.extest ch d, (0x00 : BitVec 8), d), (.clamp ch, 0x04, (tap s).boundary),
            (.highz ch, 0x05, (tap s).boundary)] →
          (s.gate ch = true → Runs i s fun u => tap u = { held := false, ir := ir, boundary := b } ∧ u.ev9.parts = s.ev9.parts ∧ u.nw8.chans = s.nw8.chans)
          ∧ (s.gate ch = false → Runs i s fun u => tap u = { tap s with held := false, ir := 0xFF }
            ∧ (if ch = .ev9 then u.ev9.dbg.jtagRefused = true ∧ Audited 4 0 ir.toNat u else u.nw8.hold.jtagRefused = true ∧ NwAudited 4 0 ir.toNat u)
            ∧ u.ev9.parts = s.ev9.parts ∧ u.nw8.chans = s.nw8.chans))
        ∧ (∀ (d : Boundary) (i : Instr) (ir : BitVec 8), (i, ir) ∈ [(Instr.extestPulse ch d, (0x09 : BitVec 8)), (.extestTrain ch d, 0x0A)] →
          (ch = .nw8 → Runs i s fun u => tap u = { tap s with held := false, ir := 0xFF } ∧ u.nw8.hold = s.nw8.hold ∧ u.nw8.audit = s.nw8.audit)
          ∧ (ch = .ev9 → s.gate ch = true → Runs i s fun u => tap u = { held := false, ir := ir, boundary := d } ∧ u.ev9.parts = s.ev9.parts)
          ∧ (ch = .ev9 → s.gate ch = false → Runs i s fun u => tap u = { tap s with held := false, ir := 0xFF } ∧ u.ev9.dbg.jtagRefused = true
            ∧ Audited 4 0 ir.toNat u))))

/-- A DBG_SELECT Update-DR on the EV9: bits 2:0 name the pin, bits 14:3 hold the index and bit 15 the enable bit. With the full set unlocked for
carrier 1 the pin's selection becomes these, is counted and is recorded; with no set unlocked it is ignored and recorded as denied; other pins keep
theirs (R512, R513). -/
def Obligations.DbgSelectSetsAPin : Prop :=
  ∀ (v : BitVec 16) (s : State) (n : Nat), s.tapUp .ev9 = true → n = (v.extractLsb' 0 3).toNat →
    (s.ev9.dbg.unlockSmb = 2 → Runs (.dbgSelect v) s fun u => u.ev9.dbg.peek n = { index := v.extractLsb' 3 12, enable := v.getLsbD 15, carrier := 1 }
      ∧ (∀ k, k ≠ n → u.ev9.dbg.peek k = s.ev9.dbg.peek k) ∧ Audited 5 0 (8 * n) u ∧ u.ev9.dbg.changes = satAdd s.ev9.dbg.changes 1
      ∧ u.ev9.parts = s.ev9.parts ∧ u.nw8 = s.nw8)
    ∧ (s.ev9.dbg.unlockSmb = 0 → Runs (.dbgSelect v) s fun u => u.ev9.dbg.sel = s.ev9.dbg.sel ∧ u.ev9.dbg.changes = s.ev9.dbg.changes
      ∧ Audited 4 0x12 (8 * n) u ∧ u.ev9.parts = s.ev9.parts ∧ u.nw8 = s.nw8)

/-- A packet that is not next on its carrier does nothing; one of an undefined opcode is answered BAD_OPCODE whichever row takes it; a runtime opcode
on a carrier that is no tenant ring, or a management opcode on a tenant ring, BAD_OPCODE; a wrong check word NOT_PERMITTED; a byte out of place
BAD_PARAM; a role too low NOT_PERMITTED, recorded as denied. Only carriers, sessions and logs change (R312, R314, R316, R317). Clauses that go beyond
the spec's words rest on the model's choices of log 11, 32. -/
def Obligations.PacketChecks : Prop :=
  ∀ (i : Instr) (via : Carrier) (pkt : Packet) (s : State),
    (i.packet? = some (via, pkt) →
      (s.packetReady via pkt = false → exec i s = .next s)
      ∧ (s.packetReady via pkt = true → pkt.op ∉ [0x01, 0x02, 0x10, 0x11, 0x12, 0x13, 0x14, 0x20, 0x21, 0x22, 0x23, 0x30, 0x31, 0x50, 0x80, 0x81, 0x82, 0x83,
          0x88, 0x90, 0x91, 0x92, 0x98, 0x99, 0xA0, 0xA1, 0xA8, 0xB0, 0xB1, 0xC0, 0xC8, 0xD0, 0xD1, 0xD4, 0xD5, 0xD8, 0xE0] →
        Runs i s fun u => Answered via pkt 0x10 [] s u ∧ OnlyCarriers s u))
    ∧ (∀ op, (i, op) ∈ [(Instr.nop via pkt, 0x01), (.fence via pkt, 0x02), (.imageLoad via pkt, 0x10), (.imageVerify via pkt, 0x11), (.imageStart via pkt, 0x12),
        (.imageStop via pkt, 0x13), (.stepRerun via pkt, 0x14), (.streamOpen via pkt, 0x20), (.streamFeed via pkt, 0x21), (.streamClose via pkt, 0x23),
        (.copyIn via pkt, 0x30), (.copyOut via pkt, 0x31), (.queryStatus via pkt, 0x50)] → s.packetReady via pkt = true → pkt.op = op →
      (via.isTenant = false → Runs i s fun u => Answered via pkt 0x10 [] s u ∧ OnlyCarriers s u)
      ∧ (via.isTenant = true → s.ev9.inRecovery = false → pkt.check ≠ via.checkWord → Runs i s fun u => Answered via pkt 0x12 [] s u ∧ OnlyCarriers s u)
      ∧ (via.isTenant = true → s.ev9.inRecovery = false → pkt.check = via.checkWord → 4 ≤ pkt.byte 1 → Runs i s fun u => Answered via pkt 0x11 [] s u
        ∧ OnlyCarriers s u))
    ∧ (∀ op, (i, op) ∈ [(Instr.identify via pkt, 0x80), (.roleElevate via pkt, 0x81), (.roleDrop via pkt, 0x82), (.roleChallenge via pkt, 0x83),
        (.powerQuery via pkt, 0xA1), (.logRead via pkt, 0xC0), (.debugUnlock via pkt, 0xC8)] → s.packetReady via pkt = true → pkt.op = op →
      (via.isTenant = true → Runs i s fun u => Answered via pkt 0x10 [] s u ∧ OnlyCarriers s u)
      ∧ (via.isTenant = false → (via.onEv9 = true → s.ev9.inRecovery = false) → pkt.check ≠ via.checkWord → Runs i s fun u => Answered via pkt 0x12 [] s u
        ∧ OnlyCarriers s u))
    ∧ (∀ op used, (i, op, used) ∈ [(Instr.partitionEnable via pkt, 0x90, [(8, 1)]), (.setModeStrict via pkt, 0x88, [(8, 2)])] → via = .mgmt ∨ via = .smb0 →
      Good via pkt op used s → pkt.byte 8 = 1 → pkt.byte 9 ≤ 1 → s.role via = .operator → Runs i s fun u => Answered via pkt 0x12 [] s u
        ∧ Audited 4 0x12 op u ∧ OnlyCarriers s u)

/-- The runtime commands of a tenant ring: NOP and FENCE; IMAGE_LOAD, whose completion writes the plan or fails; IMAGE_VERIFY; IMAGE_START, which
seals the member's partitions and starts it; IMAGE_STOP; STEP_RERUN; QUERY_STATUS; and the completion of a copy (R23, R24, R31, R32, R41, R44, R102, R315,
R318, R331, R489). Clauses that go beyond the spec's words rest on the model's choices of log 34. -/
def Obligations.RuntimeCommands : Prop :=
  ∀ (via : Carrier) (pkt : Packet) (s : State), via.isTenant = true →
    (Good via pkt 0x01 [] s → Runs (.nop via pkt) s fun u => Answered via pkt 0 [] s u ∧ OnlyCarriers s u)
    ∧ (Good via pkt 0x02 [] s → (s.ev9.awaiting via = [] → Runs (.fence via pkt) s fun u => Answered via pkt 0 [] s u ∧ OnlyCarriers s u)
      ∧ (s.ev9.awaiting via ≠ [] → Room via s → Runs (.fence via pkt) s fun u => Waits via pkt .fence 0 [] s u ∧ OnlyCarriers s u))
    ∧ (∀ m : Member, OnTroupe via pkt m s →
      (Good via pkt 0x10 [(8, 2), (16, 16)] s → Room via s → pkt.field 16 8 % 64 = 0 → (∀ p ∈ m.parts, (s.ev9.part p).tier.sealed = false) →
        s.ev9.pendingWork (.imageLoad pkt.troupe) = false → Runs (.imageLoad via pkt) s fun u => Waits via pkt (.imageLoad pkt.troupe) m.mask [] s u
          ∧ .fetchImage (carrierTenant via + 1) (BitVec.ofNat 64 (pkt.field 16 8)) (pkt.field 24 8) ∈ u.outbox ∧ OnlyCarriers s u)
      ∧ (Good via pkt 0x11 [(8, 2)] s → Runs (.imageVerify via pkt) s fun u => OnlyCarriers s u
        ∧ (m.image = none → Answered via pkt 0x13 [] s u)
        ∧ (∀ g, m.image = some g →
          (g.digestsOk = false → Answered via pkt 0x11 [0, 1] s u)
          ∧ (g.digestsOk = true → g.modeOk s.ev9.chip.strict m = false → Answered via pkt 0x14 [0, 2] s u)
          ∧ (g.digestsOk = true → g.modeOk s.ev9.chip.strict m = true → g.placeOk m = true → s.ev9.hopFault m g = none →
            Answered via pkt 0 [byteOf (bit g.nonRepro)] s u)))
      ∧ (∀ g, Good via pkt 0x12 [(8, 2)] s → m.image = some g → m.run = .idle → m.position ≠ 0 → m.badStart = none → g.modeOk s.ev9.chip.strict m = true →
        s.ev9.pendingWork (.imageStart pkt.troupe) = false → Runs (.imageStart via pkt) s fun u => Answered via pkt 0 [] s u
          ∧ (∀ p ∈ m.parts, (u.ev9.part p).tier.sealed = true) ∧ (∀ p, p ∉ m.parts → u.ev9.part p = s.ev9.part p)
          ∧ (∃ m', u.ev9.member? pkt.troupe.toNat = some m' ∧ m'.run = .starting ∧ m'.step = 0 ∧ m'.firstPace = g.startPace)
          ∧ (∃ k, .ready pkt.troupe m.position k ∈ u.outbox) ∧ u.ev9.mem = s.ev9.mem)
      ∧ (Good via pkt 0x13 [(8, 2)] s → Room via s → m.image ≠ none → m.run = .running → s.ev9.anyHeld m = false →
        s.ev9.pendingWork (.imageStop pkt.troupe) = false → m.position ≠ 0 → Runs (.imageStop via pkt) s fun u =>
          Waits via pkt (.imageStop pkt.troupe) m.mask [] s u ∧ .stopForward pkt.troupe m.position ∈ u.outbox ∧ u.ev9.members = s.ev9.members
          ∧ u.ev9.parts = s.ev9.parts ∧ u.ev9.cores = s.ev9.cores ∧ u.ev9.mem = s.ev9.mem)
      ∧ (Good via pkt 0x13 [(8, 2)] s → Room via s → m.image ≠ none → m.run = .starting → s.ev9.anyHeld m = false →
        s.ev9.pendingWork (.imageStop pkt.troupe) = false → m.position ≠ 0 → Runs (.imageStop via pkt) s fun u =>
          (∃ m', u.ev9.member? pkt.troupe.toNat = some m' ∧ m'.run = .stopped) ∧ (∀ d ∈ u.ev9.hif.deferred, d.work ≠ .imageStop pkt.troupe)
          ∧ .stopForward pkt.troupe m.position ∈ u.outbox ∧ u.ev9.parts = s.ev9.parts ∧ u.ev9.cores = s.ev9.cores ∧ u.ev9.mem = s.ev9.mem)
      ∧ (Good via pkt 0x13 [(8, 2)] s → m.image ≠ none → m.run = .stopped → s.ev9.anyHeld m = false → Runs (.imageStop via pkt) s fun u =>
          Answered via pkt 0 [] s u ∧ OnlyCarriers s u)
      ∧ (Good via pkt 0x14 [(8, 2), (16, 6)] s → Room via s → m.rerun = none → s.ev9.mayRerun m (pkt.field 16 6) = true → m.position ≠ 0 →
        Runs (.stepRerun via pkt) s fun u => (∀ d ∈ u.ev9.hif.deferred, d.work ≠ .rerun pkt.troupe)
          ∧ (∃ m', u.ev9.member? pkt.troupe.toNat = some m' ∧ m'.run = .starting ∧ m'.rerun = none ∧ m'.step.toNat = pkt.field 16 6)
          ∧ (∀ p ∈ m.parts, (u.ev9.part p).clk.step.toNat = pkt.field 16 6 ∧ (u.ev9.part p).clk.stepBeat = 0 ∧ (u.ev9.part p).stopped = false)
          ∧ (∀ p, p ∉ m.parts → u.ev9.part p = s.ev9.part p) ∧ u.ev9.mem = s.ev9.mem)
      ∧ (Good via pkt 0x50 [(8, 2)] s → pkt.troupe ≠ 0xFFFF → Runs (.queryStatus via pkt) s fun u => Answered via pkt 0 (s.ev9.memberStatus m) s u ∧ OnlyCarriers s u))
    ∧ (Good via pkt 0x50 [(8, 2)] s → pkt.troupe = 0xFFFF → Runs (.queryStatus via pkt) s fun u => OnlyCarriers s u
      ∧ Answered via pkt 0 (leBytes 2 (s.ev9.quota (carrierTenant via)) ++ leBytes 2 (s.ev9.slotsHeld (carrierTenant via))) s u)
    ∧ (∀ (t : BitVec 16) img m, s.ev9.pendingWork (.imageLoad t) = true → s.ev9.member? t.toNat = some m → m.run ≠ .idle →
      Runs (.imageLoadComplete t img) s fun u => (∃ m', u.ev9.member? t.toNat = some m' ∧ m'.image = none)
        ∧ (∀ d ∈ u.ev9.hif.deferred, d.work ≠ .imageLoad t) ∧ u.ev9.mem = s.ev9.mem ∧ u.ev9.cores = s.ev9.cores ∧ u.ev9.parts = s.ev9.parts)
    ∧ (∀ (t : BitVec 16) img m, s.ev9.pendingWork (.imageLoad t) = true → s.ev9.member? t.toNat = some m → m.run = .idle →
      (∀ st res, parseImage img m.position.toNat m.mask s.ev9.retired (fun n => (s.ev9.port n).plan) = .bad st res → Runs (.imageLoadComplete t img) s fun u =>
        (∃ m', u.ev9.member? t.toNat = some m' ∧ m'.image = none) ∧ (∀ d ∈ u.ev9.hif.deferred, d.work ≠ .imageLoad t) ∧ u.ev9.mem = s.ev9.mem ∧ u.ev9.cores = s.ev9.cores)
      ∧ (∀ p, parseImage img m.position.toNat m.mask s.ev9.retired (fun n => (s.ev9.port n).plan) = .ok p → s.ev9.stationConflict p = none →
        Runs (.imageLoadComplete t img) s fun u => (∃ m', u.ev9.member? t.toNat = some m' ∧ m'.image = some p.image) ∧ (∀ d ∈ u.ev9.hif.deferred, d.work ≠ .imageLoad t)
          ∧ u.ev9.mem = (s.ev9.loadPlan t.toNat m p).mem ∧ u.ev9.cores = (s.ev9.loadPlan t.toNat m p).cores ∧ u.ev9.parts = s.ev9.parts))
    ∧ (∀ (tag : BitVec 16) data a iova n, s.ev9.hif.deferred = [⟨via, tag, false, .copyIn a iova n, 0⟩] → n = 64 → a.toNat % 64 = 0 →
      (∀ k off, placeOf a.toNat = .scratch k off → Runs (.copyComplete via tag data []) s fun u => u.ev9.hif.deferred = []
        ∧ Delivered via { tag := tag, status := 0, final := true, result := [] } s u
        ∧ u.ev9.scr = s.ev9.scr ++ [⟨k, s.ev9.stampBeat k, 64, 0, .write, (upFrom 0 4).map fun w => copyWord a.toNat w (padTo 64 data) fun _ => false⟩]
        ∧ u.ev9.mem = s.ev9.mem ∧ u.ev9.cores = s.ev9.cores)
      ∧ ((∀ k off, placeOf a.toNat ≠ .scratch k off) → s.ev9.sealed a.toNat = false → Runs (.copyComplete via tag data []) s fun u => u.ev9.hif.deferred = []
        ∧ Delivered via { tag := tag, status := 0, final := true, result := [] } s u
        ∧ (∀ k, k < 64 → memRead u.ev9.mem (a.toNat + k) = byteAt (padTo 64 data) k)
        ∧ (∀ x, x < a.toNat ∨ a.toNat + 64 ≤ x → memRead u.ev9.mem x = memRead s.ev9.mem x) ∧ u.ev9.cores = s.ev9.cores))

/-- Streams and copies: STREAM_OPEN takes a FREE slot, whichever it is, and awaits its admission; STREAM_FEED moves the tail of the tenant's own slot;
a bind makes a COLLECT slot, a wait moves its head; STREAM_CLOSE frees a slot that is not bound and answers its position counter, and releases a bound
one; a command on another's slot is NOT_PERMITTED; COPY_IN and COPY_OUT await their transfer. An open or a feed rung in time for the cut that has
passed counts for that cut (R33, R39, R318–R332, R334). Clauses that go beyond the spec's words rest on the model's choices of log 4, 53. -/
def Obligations.StreamsAndCopies : Prop :=
  ∀ (via : Carrier) (pkt : Packet) (s : State) (n rung : Nat) (g : StreamSlot), via.isTenant = true → n = pkt.field 8 2 → g = s.ev9.slot n →
    rung = ((s.ev9.ring ((via.ring?).getD 0)).fetchedAt.headD (0, 0)).2 →
    (∀ m, Good via pkt 0x20 [(8, 3), (16, 8)] s → Room via s → OnTroupe via pkt m s → 4 ≤ pkt.byte 10 → pkt.byte 10 ≤ 12 → pkt.field 16 8 % 4096 = 0 →
      m.isEntry = true → m.run ≠ .stopped → s.ev9.slotsHeld (carrierTenant via) < s.ev9.quota (carrierTenant via) → s.ev9.freeSlots ≠ [] →
      (m.missedCut rung = false → Runs (.streamOpen via pkt) s fun u => ∃ k, k < 4096 ∧ (s.ev9.slot k).state = .free ∧ Waits via pkt (.streamOpen k) m.mask (leBytes 2 k) s u
        ∧ (u.ev9.slot k).state = .pending ∧ (u.ev9.slot k).tenant.toNat = carrierTenant via % 1024 ∧ (u.ev9.slot k).troupe = pkt.troupe
        ∧ (u.ev9.slot k).base.toNat = pkt.field 16 8 ∧ (u.ev9.slot k).order = pkt.byte 10 ∧ (∀ j, j ≠ k → u.ev9.slot j = s.ev9.slot j)
        ∧ u.ev9.parts = s.ev9.parts ∧ u.ev9.mem = s.ev9.mem)
      ∧ (∀ x lane rest, m.missedCut rung = true → m.entryOf = some x → s.ev9.freeLanes pkt.troupe.toNat x = lane :: rest →
        Runs (.streamOpen via pkt) s fun u => ∃ k, k < 4096 ∧ (s.ev9.slot k).state = .free ∧ (u.ev9.slot k).state = .bound
          ∧ (u.ev9.slot k).lane = BitVec.ofNat 9 lane ∧ (∀ d ∈ u.ev9.hif.deferred, d.work ≠ .streamOpen k)
          ∧ (∀ j, j ≠ k → u.ev9.slot j = s.ev9.slot j) ∧ u.ev9.parts = s.ev9.parts ∧ u.ev9.mem = s.ev9.mem))
    ∧ (g.state = .free ∨ g.tenant.toNat ≠ carrierTenant via →
      (Good via pkt 0x21 [(8, 4)] s → Runs (.streamFeed via pkt) s fun u => Answered via pkt 0x12 [] s u ∧ OnlyCarriers s u)
      ∧ (Good via pkt 0x23 [(8, 2)] s → Runs (.streamClose via pkt) s fun u => Answered via pkt 0x12 [] s u ∧ OnlyCarriers s u))
    ∧ (g.state ≠ .free → g.tenant.toNat = carrierTenant via → s.ev9.slotClosing n = false →
      (Good via pkt 0x21 [(8, 4)] s → g.state = .pending ∨ g.state = .bound → tailOk g.order g.head.toNat g.tail.toNat (pkt.field 10 2) = true →
        ((∀ m, s.ev9.member? g.troupe.toNat = some m → m.missedCut rung = false) → Runs (.streamFeed via pkt) s fun u =>
          Answered via pkt 0 (leBytes 2 g.head.toNat) s u ∧ u.ev9.slot n = { g with tail := BitVec.ofNat 16 (pkt.field 10 2) }
          ∧ (∀ j, j ≠ n → u.ev9.slot j = s.ev9.slot j) ∧ u.ev9.parts = s.ev9.parts ∧ u.ev9.mem = s.ev9.mem)
        ∧ (∀ m, s.ev9.member? g.troupe.toNat = some m → m.missedCut rung = true → g.state = .bound → g.starvedIn (m.step + 1) = true →
          g.head ≠ BitVec.ofNat 16 (pkt.field 10 2) → Runs (.streamFeed via pkt) s fun u => Answered via pkt 0 (leBytes 2 g.head.toNat) s u
          ∧ (u.ev9.slot n).count = g.count - 1 ∧ (u.ev9.slot n).head = BitVec.ofNat 16 ((g.head.toNat + 1) % 2 ^ g.order)
          ∧ .feedFetch (g.tenant.toNat + 1) n g.head.toNat ∈ u.outbox ∧ (∀ j, j ≠ n → u.ev9.slot j = s.ev9.slot j) ∧ u.ev9.parts = s.ev9.parts
          ∧ u.ev9.mem = s.ev9.mem))
      ∧ (Good via pkt 0x22 [(8, 6)] s → Room via s → n ≠ 0xFFFF → 1 ≤ pkt.field 10 2 → pkt.field 10 2 ≤ 4095 → g.state = .collect → s.ev9.waitPending n = false →
        pkt.field 12 2 < 2 ^ g.order → Runs (.streamCollectWait via pkt) s fun u => Waits via pkt (.collectWait n (pkt.field 10 2)) (s.ev9.slotMask n) [] s u
          ∧ u.ev9.slot n = { g with tail := BitVec.ofNat 16 (pkt.field 12 2) } ∧ (∀ j, j ≠ n → u.ev9.slot j = s.ev9.slot j) ∧ u.ev9.mem = s.ev9.mem)
      ∧ (Good via pkt 0x23 [(8, 2)] s → Room via s → g.state = .bound → Runs (.streamClose via pkt) s fun u => Waits via pkt (.streamClose n) (s.ev9.slotMask n) [] s u
          ∧ u.ev9.slot n = { g with state := .releasing } ∧ (∀ j, j ≠ n → u.ev9.slot j = s.ev9.slot j) ∧ u.ev9.mem = s.ev9.mem)
      ∧ (Good via pkt 0x23 [(8, 2)] s → s.ev9.hif.deferred = [] → g.state = .collect ∨ g.state = .pending → Runs (.streamClose via pkt) s fun u =>
          Answered via pkt 0 (closeResult g) s u ∧ u.ev9.slot n = {} ∧ (∀ j, j ≠ n → u.ev9.slot j = s.ev9.slot j) ∧ u.ev9.mem = s.ev9.mem))
    ∧ (∀ m, Good via pkt 0x22 [(8, 7), (16, 16)] s → n = 0xFFFF → s.ev9.usable (collectTroupe pkt) = some m → s.boundTo via m.parts = true → pkt.field 12 2 < 512 →
      4 ≤ pkt.byte 14 → pkt.byte 14 ≤ 12 → pkt.field 16 8 % 4096 = 0 → pkt.field 28 4 ≠ 0 → m.isExit = true →
      s.ev9.slotsHeld (carrierTenant via) < s.ev9.quota (carrierTenant via) → s.ev9.freeSlots ≠ [] → Runs (.streamCollectBind via pkt) s fun u =>
        ∃ k, k < 4096 ∧ (s.ev9.slot k).state = .free ∧ Answered via pkt 0 (leBytes 2 k) s u ∧ (u.ev9.slot k).state = .collect
          ∧ (u.ev9.slot k).lane.toNat = pkt.field 12 2 ∧ (u.ev9.slot k).identity.toNat = pkt.field 24 8 ∧ (∀ j, j ≠ k → u.ev9.slot j = s.ev9.slot j)
          ∧ u.ev9.parts = s.ev9.parts ∧ u.ev9.mem = s.ev9.mem)
    ∧ (∀ p, copyParams pkt = true → s.ev9.copyPart (pkt.field 8 8) (pkt.field 24 8) = some p → s.boundTo via [p] = true → Room via s →
      (s.ev9.part p).state ≠ .draining → (s.ev9.part p).state ≠ .fenced →
      (Good via pkt 0x30 [(8, 24)] s → s.ev9.overlapsSeal (pkt.field 8 8) (pkt.field 24 8) = false → Runs (.copyIn via pkt) s fun u => OnlyCarriers s u
        ∧ Waits via pkt (.copyIn (BitVec.ofNat 40 (pkt.field 8 8)) (BitVec.ofNat 64 (pkt.field 16 8)) (pkt.field 24 8)) (BitVec.ofNat 8 (2 ^ p)) [] s u)
      ∧ (Good via pkt 0x30 [(8, 24)] s → s.ev9.overlapsSeal (pkt.field 8 8) (pkt.field 24 8) = true → Runs (.copyIn via pkt) s fun u => OnlyCarriers s u
        ∧ Answered via pkt 0x12 [] s u)
      ∧ (Good via pkt 0x31 [(8, 24)] s → Runs (.copyOut via pkt) s fun u => OnlyCarriers s u
        ∧ Waits via pkt (.copyOut (BitVec.ofNat 40 (pkt.field 8 8)) (BitVec.ofNat 64 (pkt.field 16 8)) (pkt.field 24 8)) (BitVec.ofNat 8 (2 ^ p)) [] s u))

/-- Management packets of both chips: IDENTIFY, ROLE_CHALLENGE with a free nonce, ROLE_ELEVATE and ROLE_DROP, the queries, LOG_READ, DEBUG_UNLOCK,
FW_UPDATE and the two items of SET_MODE. A good elevation gives the role, a bad one counts; an image that verifies is written over the one that does
not run (R440–R446, R463, R467). Clauses that go beyond the spec's words rest on the model's choices of log 4, 31, 32. -/
def Obligations.ManagementCommands : Prop :=
  ∀ (via : Carrier) (pkt : Packet) (s : State) (i : SessionId), via.isTenant = false → i = via.session?.getD .pf →
    (Good via pkt 0x80 [] s → Runs (.identify via pkt) s fun u => OnlyCarriers s u
      ∧ Answered via pkt 0 (partBytes via.chip ++ [s.majorOf via.chip] ++ serialBytes via.chip) s u)
    ∧ (Good via pkt 0x83 (via.dataBytes []) s → (via = .mgmt → pkt.field 56 8 % 64 = 0) → (s.session i).locked = false → Runs (.roleChallenge via pkt) s fun u =>
      (u.session i).nonce = some (Config.nonce s.fresh) ∧ (u.session i).nonceMs = s.now via.chip ∧ u.fresh = s.fresh + 1 ∧ (u.session i).role = (s.session i).role ∧ OnlyCarriers s u)
    ∧ (Good via pkt 0x81 [(8, 1), (16, 16)] s → pkt.byte 8 = 1 ∨ pkt.byte 8 = 2 → Runs (.roleElevate via pkt) s fun u => OnlyCarriers s u
      ∧ (u.session i).nonce = none
      ∧ ((s.session i).locked = true → Answered via pkt 0x12 [] s u ∧ (u.session i).role = (s.session i).role)
      ∧ ((s.session i).locked = false → s.elevates via pkt = true → Answered via pkt 0 [] s u
        ∧ (u.session i).role.num = max (s.session i).role.num (pkt.byte 8))
      ∧ ((s.session i).locked = false → s.elevates via pkt = false → Answered via pkt 0x12 [] s u ∧ (u.session i).role = (s.session i).role
        ∧ (u.session i).fails.getLast? = some (s.now via.chip)
        ∧ (u.session i).locked = decide (4 ≤ ((s.session i).fails.filter fun t => decide (s.now via.chip < t + 600000)).length + 1)))
    ∧ (Good via pkt 0x82 [] s → Runs (.roleDrop via pkt) s fun u => (u.session i).role = .operator ∧ Answered via pkt 0 [] s u
      ∧ u.ev9.parts = s.ev9.parts ∧ u.nw8.chans = s.nw8.chans)
    ∧ (∀ p, Good via pkt 0xA1 [(8, 1)] s → p = pkt.byte 8 → p < 8 ∨ p = 0xFF ∧ via.isNw8 = false → Runs (.powerQuery via pkt) s fun u => OnlyCarriers s u
      ∧ Answered via pkt 0 (if via.isNw8 then (s.nw8.chan p).powerResult else s.ev9.powerResult p) s u)
    ∧ (via.isNw8 = false → Good via pkt 0xA8 [] s → Runs (.thermalQuery via pkt) s fun u => OnlyCarriers s u ∧ Answered via pkt 0 [s.ev9.therm.tj,
        byteOf s.ev9.therm.hottest.toNat, byteOf s.ev9.therm.band.toNat, byteOf (bit s.ev9.therm.throttling), s.ev9.therm.throttle, s.ev9.therm.tjMax] s u)
    ∧ (Good via pkt 0xC0 [(8, 6)] s → via = .smb0 → pkt.byte 12 = 1 → pkt.byte 13 = 0 → Runs (.logRead via pkt) s fun u => OnlyCarriers s u
      ∧ ∀ a l, (s.ev9.svc.audit.filter fun x => pkt.field 8 4 == 0xFFFFFFFF || decide (pkt.field 8 4 ≤ x.seq.toNat)) = a :: l →
        ∃ r : Reply, u.ev9.smb0.replies = s.ev9.smb0.replies ++ [r] ∧ r.status = 0 ∧ r.data = a.bytes
          ∧ r.result = leBytes 4 a.seq.toNat ++ [1, 0, 0, 0] ++ leBytes 4 s.ev9.svc.lost.toNat)
    ∧ (Good via pkt 0xC8 [(8, 1)] s → pkt.byte 8 = 1 → s.role via ≠ .operator → via = .mgmt → s.ev9.dbg.unlockPf = 0 → Runs (.debugUnlock via pkt) s fun u =>
      u.ev9.dbg = { s.ev9.dbg with unlockPf := 1 } ∧ Answered via pkt 0 [] s u ∧ u.ev9.parts = s.ev9.parts)
    ∧ (s.role via ≠ .operator → ∀ f, f = s.upload via.chip →
      (Good via pkt 0xE0 [(8, 1), (12, 4)] s → pkt.byte 8 = 0 → Runs (.fwUpdateBegin via pkt) s fun u => Answered via pkt 0 [] s u
        ∧ u.upload via.chip = { f with active := true, owner := i, length := pkt.field 12 4, bytes := [] } ∧ u.ev9.parts = s.ev9.parts ∧ u.nw8.chans = s.nw8.chans)
      ∧ (Good via pkt 0xE0 [(8, 1), (12, 4), (32, 32)] s → pkt.byte 8 = 1 → f.active = true → f.owner = i → Runs (.fwUpdateData via pkt) s fun u =>
        Answered via pkt 0 [] s u ∧ u.upload via.chip = { f with bytes := memWrites f.bytes (pkt.field 12 4) ((slice pkt.bytes 32 32).take (f.length - pkt.field 12 4)) }
        ∧ u.ev9.parts = s.ev9.parts ∧ u.nw8.chans = s.nw8.chans)
      ∧ (Good via pkt 0xE0 [(8, 1)] s → pkt.byte 8 = 2 → f.committing = false → Room via s → Runs (.fwUpdateCommit via pkt) s fun u =>
        (u.upload via.chip).committing = true
        ∧ ((u.upload via.chip).commitOk = (f.active && f.owner == i && decide (f.length ≤ if via.isNw8 then 524288 else 33554432)))
        ∧ Delivered via { tag := pkt.tag, status := 0x01, final := false, result := [] } s u ∧ u.ev9.parts = s.ev9.parts ∧ u.nw8.chans = s.nw8.chans)
      ∧ (Good via pkt 0xE0 [(8, 1)] s → pkt.byte 8 = 3 → f.active = true → f.owner = i → Runs (.fwUpdateAbort via pkt) s fun u => Answered via pkt 0 [] s u
        ∧ u.upload via.chip = { f with active := false, length := 0, bytes := [] } ∧ u.ev9.parts = s.ev9.parts ∧ u.nw8.chans = s.nw8.chans)
      ∧ (Good via pkt 0xE0 [(8, 1), (16, 12)] s → pkt.byte 8 = 4 → via = .mgmt → f.committing = false → Room via s → Runs (.fwUpdateImage via pkt) s fun u =>
        Waits via pkt .fwCommit 0 [] s u ∧ (u.upload .ev9).committing = true ∧ .fetchImage 0 (BitVec.ofNat 64 (pkt.field 16 8)) (pkt.field 24 4) ∈ u.outbox
        ∧ u.ev9.parts = s.ev9.parts ∧ u.nw8 = s.nw8))
    ∧ (∀ v : FwVerdict, s.ev9.svc.fw.committing = true →
      (s.ev9.svc.fw.commitOk = true → v.signature = true → v.versionOk = true → Runs (.fwUpdateComplete .ev9 v) s fun u =>
        .flashWrite (1 - s.ev9.svc.image) v.major ∈ u.outbox ∧ u.ev9.svc.fw = { s.ev9.svc.fw with committing := false, commitOk := false }
        ∧ (∀ d ∈ u.ev9.hif.deferred, d.work ≠ .fwCommit) ∧ u.ev9.svc.major = s.ev9.svc.major ∧ u.ev9.parts = s.ev9.parts)
      ∧ (v.signature = false → s.outbox = [] → s.ev9.hif.deferred = [] → Runs (.fwUpdateComplete .ev9 v) s fun u => u.outbox = []
        ∧ u.ev9.svc.fw = { s.ev9.svc.fw with committing := false, commitOk := false } ∧ u.ev9.parts = s.ev9.parts))
    ∧ (via.isNw8 = false → s.role via ≠ .operator →
      (Good via pkt 0x88 [(8, 2)] s → pkt.byte 8 = 1 → pkt.byte 9 ≤ 1 → (∀ p, p < 8 → (s.ev9.part p).state = .off) → Runs (.setModeStrict via pkt) s fun u =>
        u.ev9.chip.strict = decide (pkt.byte 9 = 1) ∧ Answered via pkt 0 [] s u ∧ u.ev9.parts = s.ev9.parts ∧ u.ev9.mem = s.ev9.mem
        ∧ (s.ev9.chip.strict ≠ decide (pkt.byte 9 = 1) → ∀ n, n < 12 → (s.ev9.port n).state ≠ .disabled →
          (s.ev9.chip.trPresent = true → (u.ev9.port n).state = .training ∧ (u.ev9.port n).stage6 = true)
          ∧ (s.ev9.chip.trPresent = false → (u.ev9.port n).wants = some .six)))
      ∧ (Good via pkt 0x88 [(8, 2)] s → pkt.byte 8 = 1 → pkt.byte 9 ≤ 1 → (∃ p, p < 8 ∧ (s.ev9.part p).state ≠ .off) → Runs (.setModeStrict via pkt) s fun u =>
        u.ev9.chip = s.ev9.chip ∧ Answered via pkt 0x13 [] s u ∧ OnlyCarriers s u)
      ∧ (Good via pkt 0x88 [(8, 1), (16, 48)] s → pkt.byte 8 = 2 → s.keyMac .ev9 (slice pkt.bytes 16 32) = slice pkt.bytes 48 16 → Runs (.setModeInstallerKey via pkt) s fun u =>
        u.ev9.svc.installerKey = some (slice pkt.bytes 16 32) ∧ Answered via pkt 0 [] s u ∧ u.ev9.parts = s.ev9.parts)
      ∧ (Good via pkt 0x88 [(8, 1), (16, 48)] s → pkt.byte 8 = 2 → s.keyMac .ev9 (slice pkt.bytes 16 32) ≠ slice pkt.bytes 48 16 → Runs (.setModeInstallerKey via pkt) s fun u =>
        Answered via pkt 0x11 [] s u ∧ OnlyCarriers s u))

/-- Partition, troupe, link and power commands of the EV9: PARTITION_ENABLE takes an OFF partition to ENABLING with its counters zero and its memory
scrubbed; the disables order a drain or a fence; QUERY reads; TROUPE_JOIN makes a member with its position, joined at once where no port is planned;
TROUPE_LEAVE ends it; LINK_CONFIG writes plan, enable and gen_max and the port trains; LINK_QUERY reads; POWER_CAP_SET stores the host cap or, from
SMB_0, the slot limit, clamped to 300–900 W (R275, R279, R343–R348, R356, R369, R446). Clauses that go beyond the spec's words rest on the model's
choices of log 32, 33. -/
def Obligations.PartitionCommands : Prop :=
  ∀ (via : Carrier) (pkt : Packet) (s : State), via = .mgmt ∨ via = .smb0 →
    (∀ (p : PartId) (x : Part), pkt.byte 8 = p.val → x = s.ev9.part p →
      (Good via pkt 0x90 [(8, 1)] s → Room via s → s.role via ≠ .operator → x.state = .off → x.stuck = false → s.ev9.enablePending p = false →
        Runs (.partitionEnable via pkt) s fun u => Waits via pkt (.enable p) 0 [] s u ∧ (u.ev9.part p).state = .enabling
          ∧ (u.ev9.part p).clk.step = 0 ∧ (u.ev9.part p).clk.stepBeat = 0 ∧ (u.ev9.part p).curl.count = 0 ∧ (u.ev9.part p).curl.beats = 0
          ∧ (∀ q, q ≠ p.val → u.ev9.part q = s.ev9.part q) ∧ (∀ c, c ∉ coresOf p → u.ev9.core c = s.ev9.core c)
          ∧ (∀ c ∈ coresOf p, s.ev9.svc.dead c = false → (u.ev9.core c).threads = [] ∧ (u.ev9.core c).handles = []
            ∧ ∀ o, o < 0x4000000 → memRead u.ev9.mem (tierAddr c o) = 0))
      ∧ (Good via pkt 0x91 [(8, 2)] s → Room via s → pkt.byte 9 = 0 → (via = .smb0 → s.role via ≠ .operator) → x.state = .on → x.fencing = false →
        x.curl.held = false → s.ev9.memberOf p = none → Runs (.partitionDisableDrain via pkt) s fun u => Waits via pkt (.drain p false) 0 [] s u
          ∧ u.ev9.part p = { x with state := .draining, drainAt := s.ev9.noc.edgeBeat }
          ∧ (∀ q, q ≠ p.val → u.ev9.part q = s.ev9.part q) ∧ u.ev9.mem = s.ev9.mem ∧ u.ev9.cores = s.ev9.cores)
      ∧ (Good via pkt 0x91 [(8, 2)] s → Room via s → pkt.byte 9 = 1 → (via = .smb0 → s.role via ≠ .operator) → x.state ≠ .off → x.state ≠ .fenced →
        (∀ d ∈ s.ev9.hif.deferred, d.work ≠ .fencePart p) → Runs (.partitionDisableFence via pkt) s fun u => Waits via pkt (.fencePart p) 0 [] s u
          ∧ u.ev9.part p = { x with fencing := true } ∧ (∀ q, q ≠ p.val → u.ev9.part q = s.ev9.part q) ∧ u.ev9.mem = s.ev9.mem
          ∧ u.ev9.cores = s.ev9.cores)
      ∧ (Good via pkt 0x92 [(8, 1)] s → Runs (.partitionQuery via pkt) s fun u => OnlyCarriers s u ∧ Answered via pkt 0 ([byteOf x.state.code,
          byteOf (bit x.curl.held + 2 * bit x.tier.sealed + 4 * bit (s.ev9.runsImage p) + 8 * bit x.stuck)]
          ++ leBytes 2 (s.ev9.placeInTroupe p).1 ++ leBytes 2 (s.ev9.placeInTroupe p).2 ++ leBytes 2 x.ports.toNat) s u))
    ∧ (via = .mgmt → ∀ (t : BitVec 16) (ps : List Nat), t = pkt.troupe → ps = maskParts (BitVec.ofNat 8 (pkt.byte 12)) →
      (Good via pkt 0x98 [(8, 5)] s → Room via s → pkt.field 10 2 < 1024 → ps ≠ [] → (∀ q ∈ ps, (s.ev9.part q).state = .on ∧ s.ev9.memberOf q = none) →
        s.ev9.member? t.toNat = none →
        ((∃ k, k < 12 ∧ (∃ q ∈ ps, maskBit (s.ev9.part q).ports k = true) ∧ planUsed (s.ev9.port k).plan = true ∧ (s.ev9.port k).state = .training) →
          (∀ k, k < 12 → (s.ev9.port k).state = .training ∨ (s.ev9.port k).state = .disabled) → Runs (.troupeJoin via pkt) s fun u =>
            (∃ m, u.ev9.member? t.toNat = some m ∧ m.position.toNat = pkt.field 10 2 ∧ m.parts = ps ∧ m.joined = false)
            ∧ Waits via pkt (.join t) (BitVec.ofNat 8 (pkt.byte 12)) [] s u ∧ u.ev9.parts = s.ev9.parts ∧ u.ev9.mem = s.ev9.mem)
        ∧ ((∀ k, k < 12 → ∀ q ∈ ps, maskBit (s.ev9.part q).ports k = true → planUsed (s.ev9.port k).plan = false) → Runs (.troupeJoin via pkt) s fun u =>
            (∃ m, u.ev9.member? t.toNat = some m ∧ m.position.toNat = pkt.field 10 2 ∧ m.parts = ps ∧ m.joined = true)
            ∧ (∀ d ∈ u.ev9.hif.deferred, d.work ≠ .join t) ∧ u.ev9.parts = s.ev9.parts ∧ u.ev9.mem = s.ev9.mem))
      ∧ (Good via pkt 0x99 [(8, 2)] s → s.ev9.member? t.toNat = none → Runs (.troupeLeave via pkt) s fun u => Answered via pkt 0x13 [] s u ∧ OnlyCarriers s u)
      ∧ (∀ m, Good via pkt 0x99 [(8, 2)] s → s.ev9.member? t.toNat = some m → (∃ q ∈ m.parts, (s.ev9.part q).state = .draining) →
        Runs (.troupeLeave via pkt) s fun u => Answered via pkt 0x13 [] s u ∧ OnlyCarriers s u)
      ∧ (∀ m, Good via pkt 0x99 [(8, 2)] s → s.ev9.member? t.toNat = some m → m.run = .stopped ∨ m.run = .idle →
        (∀ q ∈ m.parts, (s.ev9.part q).state ≠ .draining) → s.ev9.hif.deferred = [] → s.ev9.hif.slots = [] → Runs (.troupeLeave via pkt) s fun u =>
          Answered via pkt 0 [] s u ∧ u.ev9.member? t.toNat = none ∧ (∀ q, (u.ev9.part q).state = (s.ev9.part q).state)
          ∧ u.ev9.mem = s.ev9.mem ∧ u.ev9.cores = s.ev9.cores))
    ∧ (∀ n : PortId, pkt.byte 8 = n.val →
      (via = .mgmt → ∀ d : BitVec 128, d = BitVec.ofNat 128 (pkt.field 16 16) → Good via pkt 0xB0 [(8, 2), (16, 16)] s → pkt.byte 9 < 8 → planOk d = true →
        s.role via ≠ .operator → s.ev9.groupOk n d = true → s.ev9.portMember n = none → Runs (.linkConfig via pkt) s fun u => Answered via pkt 0 [] s u
          ∧ u.ev9.port n = Port.configured s.ev9.chip.trPresent (decide (pkt.byte 9 % 2 = 1)) (pkt.byte 9 / 2) d (s.ev9.port n)
          ∧ (u.ev9.port n).plan = d ∧ (u.ev9.port n).enable = decide (pkt.byte 9 % 2 = 1) ∧ (u.ev9.port n).genMax.toNat = pkt.byte 9 / 2
          ∧ (∀ k, k ≠ n.val → u.ev9.port k = s.ev9.port k) ∧ u.ev9.parts = s.ev9.parts)
      ∧ (Good via pkt 0xB1 [(8, 1)] s → Runs (.linkQuery via pkt) s fun u => OnlyCarriers s u ∧ Answered via pkt 0 (leBytes 5 (s.ev9.port n).statusBits
          ++ leBytes 2 (s.ev9.port n).hop.toNat ++ leBytes 2 (s.ev9.port n).replay.toNat) s u))
    ∧ (∀ v, v = max 300 (min 900 (pkt.field 8 2)) → Good via pkt 0xA0 [(8, 2)] s → Runs (.powerCapSet via pkt) s fun u =>
      u.ev9.power = (if via = .smb0 then { s.ev9.power with slotLimit := BitVec.ofNat 10 v } else { s.ev9.power with hostCap := BitVec.ofNat 10 v })
      ∧ Answered via pkt (if u.ev9.power.cap = v then 0 else 0x30) (leBytes 2 u.ev9.power.cap ++ [byteOf u.ev9.power.capSource.2]) s u ∧ u.ev9.parts = s.ev9.parts)

/-- Commands of the tray: an ON order of a port sets its order and, where nothing else holds the slot and it is not ON, waits for power good; an OFF
order turns a live slot off and waits for its discharge; a withdrawal, for the rack alone, takes its order away; the caps of scopes 0 and 3 set one
source of the named slots, those of scopes 1 and 2 the budget, from the port that may; LAMP_SET, LOCATE and COOLANT_QUERY; SLOT_SWAP begins at the
stage its channel allows (R412, R446–R451, R495). Clauses that go beyond the spec's words rest on the model's choices of log 32, 35. -/
def Obligations.TrayCommands : Prop :=
  ∀ (via : Carrier) (pkt : Packet) (s : State) (n : TraySlot) (x : TrayCh), via = .nwHost ∨ via = .nwRack → s.nw8.inv = true → s.nw8.hold.kept = false → x = s.nw8.chan n →
    (pkt.byte 8 = 2 ^ n.val → x.populated = true → x.swap = none → Good via pkt 0xD0 [(8, 2)] s →
      (pkt.byte 9 = 1 → s.nw8.deferred = [] → Runs (.slotPowerOn via pkt) s fun u => u.nw8.cool = s.nw8.cool ∧ u.nw8.budget = s.nw8.budget ∧
        (u.nw8.chan n).settled = { x.settled with awaitOrder := false, hostOn := if via = .nwHost then true else x.hostOn, rack := if via = .nwRack then .on else x.rack }
        ∧ (∀ k, k ≠ n.val → (u.nw8.chan k).settled = (s.nw8.chan k).settled) ∧ u.ev9 = s.ev9
        ∧ (via = .nwHost → x.rack ≠ .off → x.state ≠ .on → u.nw8.deferred = [⟨via, pkt.tag, .slotOn (BitVec.ofNat 8 (2 ^ n.val)) 0 0⟩])
        ∧ (x.state = .on → x.hostOn = true → x.rack ≠ .off → u.nw8.deferred = [] ∧ Answered via pkt 0 [0, 0] s u))
      ∧ (pkt.byte 9 = 0 → s.nw8.deferred = [] → x.resolved = true → x.state = .on → Runs (.slotPowerOff via pkt) s fun u =>
        (u.nw8.chan n).state = .discharging ∧ (u.nw8.chan n).hostOn = (if via = .nwHost then false else x.hostOn)
        ∧ (u.nw8.chan n).rack = (if via = .nwRack then .off else x.rack) ∧ u.nw8.deferred = [⟨via, pkt.tag, .slotOff (BitVec.ofNat 8 (2 ^ n.val)) 0 0⟩]
        ∧ (∀ k, k ≠ n.val → (u.nw8.chan k).settled = (s.nw8.chan k).settled) ∧ u.ev9 = s.ev9)
      ∧ (pkt.byte 9 = 2 → via = .nwRack → Runs (.slotPowerWithdraw via pkt) s fun u => (u.nw8.chan n).settled = { x.settled with rack := .none }
        ∧ Answered via pkt 0 [0, 0] s u ∧ (∀ k, k ≠ n.val → (u.nw8.chan k).settled = (s.nw8.chan k).settled) ∧ u.ev9 = s.ev9))
    ∧ (∀ v, v = max 300 (min 900 (pkt.field 8 2)) → pkt.byte 11 = 2 ^ n.val → Good via pkt 0xA0 [(8, 4)] s →
      (pkt.byte 10 = 0 → via = .nwHost → Runs (.powerCapSetHostCap via pkt) s fun u => (u.nw8.chan n).settled = { x.settled with hostCap := BitVec.ofNat 10 v }
        ∧ (∀ k, k ≠ n.val → (u.nw8.chan k).settled = (s.nw8.chan k).settled) ∧ u.ev9 = s.ev9)
      ∧ (pkt.byte 10 = 3 → s.role via ≠ .operator → Runs (.powerCapSetCeiling via pkt) s fun u => (u.nw8.chan n).settled = { x.settled with ceiling := BitVec.ofNat 10 v }
        ∧ (∀ k, k ≠ n.val → (u.nw8.chan k).settled = (s.nw8.chan k).settled) ∧ u.ev9 = s.ev9))
    ∧ (Good via pkt 0xA0 [(8, 3)] s → pkt.field 8 2 ≤ 12000 →
      (pkt.byte 10 = 1 → via = .nwRack → Runs (.powerCapSetBudget via pkt) s fun u => u.nw8.budget.toNat = pkt.field 8 2 ∧ u.nw8.budgetReceived = true
        ∧ (∀ k, (u.nw8.chan k).settled = (s.nw8.chan k).settled) ∧ u.ev9 = s.ev9)
      ∧ (pkt.byte 10 = 1 → via = .nwHost → Runs (.powerCapSetBudget via pkt) s fun u => Answered via pkt 0x12 [] s u ∧ u.nw8.budget = s.nw8.budget ∧ OnlyCarriers s u)
      ∧ (pkt.byte 10 = 2 → via = .nwRack → Runs (.powerCapSetShed via pkt) s fun u => u.nw8.budget.toNat = pkt.field 8 2
        ∧ (∀ k, (u.nw8.chan k).state = (s.nw8.chan k).state ∧ (u.nw8.chan k).hostOn = (s.nw8.chan k).hostOn)
        ∧ (∀ k, k < 8 → (s.nw8.chan k).live = true → (u.nw8.chan k).effective.toNat < (s.nw8.chan k).effective.toNat → (u.nw8.chan k).shedBrake = true
          ∧ (u.nw8.chan k).brakeLow = true) ∧ u.ev9 = s.ev9))
    ∧ (Good via pkt 0xD1 [(8, 1)] s → pkt.byte 8 = n.val → x.swap = none → Runs (.slotSwap via pkt) s fun u =>
      u.nw8.chan n = { x with swapSecs := 0, swap := some (if x.state = .off ∨ x.state = .latched then 4 else if x.state = .discharging then 3 else 1) }
      ∧ u.nw8.deferred = s.nw8.deferred ++ [⟨via, pkt.tag, .swap n⟩] ∧ (∀ k, k ≠ n.val → u.nw8.chan k = s.nw8.chan k) ∧ u.ev9 = s.ev9)
    ∧ (∀ l : Fin 20, Good via pkt 0xD4 [(8, 2)] s → pkt.byte 8 = l.val → pkt.byte 9 ≤ 4 → Runs (.lampSet via pkt) s fun u => Answered via pkt 0 [] s u
      ∧ u.nw8.lamp l = { s.nw8.lamp l with requested := BitVec.ofNat 3 (pkt.byte 9) } ∧ (∀ k, k ≠ l.val → u.nw8.lamp k = s.nw8.lamp k) ∧ u.nw8.chans = s.nw8.chans)
    ∧ (∀ l : Fin 9, Good via pkt 0xD5 [(8, 4)] s → pkt.byte 8 = l.val → pkt.byte 9 ≤ 1 → Runs (.locate via pkt) s fun u => Answered via pkt 0 [] s u
      ∧ (∀ k, k ∈ u.nw8.locates ↔ (if k = l.val then pkt.byte 9 = 1 else k ∈ s.nw8.locates))
      ∧ tfind u.nw8.locTimed l = (if pkt.byte 9 = 1 ∧ pkt.field 10 2 ≠ 0 then some (pkt.field 10 2) else none)
      ∧ u.nw8.chans = s.nw8.chans ∧ u.ev9 = s.ev9)
    ∧ (Good via pkt 0xD8 [] s → Runs (.coolantQuery via pkt) s fun u => OnlyCarriers s u ∧ Answered via pkt 0 (leBytes 2 (signed16 s.nw8.cool.ts)
      ++ leBytes 2 (signed16 s.nw8.cool.tr) ++ leBytes 2 (signed16 s.nw8.cool.flow) ++ leBytes 2 s.nw8.cool.derate.toNat
      ++ [byteOf s.nw8.cool.status, byteOf s.nw8.pumpDuty] ++ leBytes 2 s.nw8.cool.tach.toNat) s u)

/-- TROUPE_JOIN that names a partition which already belongs to a troupe is answered WRONG_STATE, and of the chip only its carriers, sessions and logs
change (R37). -/
def Obligations.JoinOfAMembersPartition : Prop :=
  ∀ (pkt : Packet) (s : State) (p : Nat), Good .mgmt pkt 0x98 [(8, 5)] s → pkt.field 10 2 < 1024 → p < 8 → (BitVec.ofNat 8 (pkt.byte 12)).getLsbD p = true →
    (∃ t m, s.ev9.member? t = some m ∧ m.mask.getLsbD p = true) → Runs (.troupeJoin .mgmt pkt) s fun u => Answered .mgmt pkt 0x13 [] s u ∧ OnlyCarriers s u
end

