-- ==== Sys2Proof/Laws/Table.lean ====
section
/-! SUPPORT. Laws/Table.lean: what the operations over tables, sets and memory do: an entry written reads back, every other entry stands,
and the canonical form is kept. -/

namespace Sys2Proof.Machine

open Sys2Proof

/-! ## Tables -/

@[simp] theorem tfind_nil {α : Type} (k : Nat) : tfind ([] : Table α) k = none := rfl

@[simp] theorem tget_nil {α : Type} (d : α) (k : Nat) : tget d ([] : Table α) k = d := rfl

theorem tfind_tdel {α : Type} (t : Table α) (k j : Nat) : tfind (tdel t k) j = if j = k then none else tfind t j := by
  induction t with
  | nil => simp [tdel]
  | cons e r ih =>
    obtain ⟨i, v⟩ := e
    by_cases hik : i = k
    · subst hik
      simp only [tdel, beq_self_eq_true, if_true, ih, tfind]
      by_cases hj : j = i
      · simp [hj]
      · have : (i == j) = false := by simpa using fun h => hj h.symm
        simp [hj, this]
    · have hik' : (i == k) = false := by simpa using hik
      simp only [tdel, hik', tfind]
      by_cases hij : i = j
      · subst hij; simp [hik, tfind]
      · have hij' : (i == j) = false := by simpa using hij
        simp [hij', ih, tfind]

theorem tfind_tins {α : Type} (t : Table α) (k j : Nat) (v : α) :
    tfind (tins t k v) j = if j = k then some v else tfind t j := by
  induction t with
  | nil =>
    by_cases h : j = k
    · simp [tins, tfind, h]
    · have : (k == j) = false := by simpa using fun e => h e.symm
      simp [tins, tfind, h, this]
  | cons e r ih =>
    obtain ⟨i, w⟩ := e
    by_cases hlt : k < i
    · by_cases h : j = k
      · simp [tins, hlt, tfind, h]
      · have : (k == j) = false := by simpa using fun e => h e.symm
        simp [tins, hlt, tfind, h, this]
    · by_cases hik : i = k
      · subst hik
        by_cases h : j = i
        · simp [tins, tfind, h]
        · have : (i == j) = false := by simpa using fun e => h e.symm
          simp [tins, tfind, h, this]
      · have hik' : (i == k) = false := by simpa using hik
        by_cases hij : i = j
        · subst hij; simp [tins, hlt, tfind, hik]
        · have hij' : (i == j) = false := by simpa using hij
          simp [tins, hlt, hik', tfind, hij', ih]

@[simp] theorem tfind_tins_same {α : Type} (t : Table α) (k : Nat) (v : α) : tfind (tins t k v) k = some v := by
  simp [tfind_tins]

theorem tfind_tins_other {α : Type} (t : Table α) {k j : Nat} (v : α) (h : j ≠ k) : tfind (tins t k v) j = tfind t j := by
  simp [tfind_tins, h]

theorem tget_tput {α : Type} [DecidableEq α] (d : α) (t : Table α) (k j : Nat) (v : α) :
    tget d (tput d t k v) j = if j = k then v else tget d t j := by
  unfold tget tput
  by_cases hv : v = d
  · rw [if_pos hv, tfind_tdel]
    by_cases h : j = k <;> simp [h, hv]
  · rw [if_neg hv, tfind_tins]
    by_cases h : j = k <;> simp [h]

@[simp] theorem tget_tput_same {α : Type} [DecidableEq α] (d : α) (t : Table α) (k : Nat) (v : α) : tget d (tput d t k v) k = v := by
  simp [tget_tput]

theorem tget_tput_other {α : Type} [DecidableEq α] (d : α) (t : Table α) {k j : Nat} (v : α) (h : j ≠ k) :
    tget d (tput d t k v) j = tget d t j := by simp [tget_tput, h]

theorem tget_tmod {α : Type} [DecidableEq α] (d : α) (t : Table α) (k j : Nat) (f : α → α) :
    tget d (tmod d t k f) j = if j = k then f (tget d t k) else tget d t j := by simp [tmod, tget_tput]

@[simp] theorem tget_tmod_same {α : Type} [DecidableEq α] (d : α) (t : Table α) (k : Nat) (f : α → α) :
    tget d (tmod d t k f) k = f (tget d t k) := by simp [tget_tmod]

theorem tget_tmod_other {α : Type} [DecidableEq α] (d : α) (t : Table α) {k j : Nat} (f : α → α) (h : j ≠ k) :
    tget d (tmod d t k f) j = tget d t j := by simp [tget_tmod, h]

/-! ## The canonical form -/

theorem tdel_all {α : Type} (p : Nat × α → Bool) (t : Table α) (k : Nat) (h : t.all p = true) : (tdel t k).all p = true := by
  induction t with
  | nil => rfl
  | cons e r ih =>
    obtain ⟨i, v⟩ := e
    simp only [List.all_cons, Bool.and_eq_true] at h
    by_cases hik : i = k
    · simp [tdel, hik, ih h.2]
    · simp [tdel, hik, ih h.2, h.1]

theorem tins_all {α : Type} (p : Nat × α → Bool) (t : Table α) (k : Nat) (v : α) (h : t.all p = true) (hk : p (k, v) = true) :
    (tins t k v).all p = true := by
  induction t with
  | nil => simp [tins, hk]
  | cons e r ih =>
    obtain ⟨i, w⟩ := e
    have h' := h
    simp only [List.all_cons, Bool.and_eq_true] at h
    simp only [tins]
    split
    · rw [List.all_cons, hk, h']; rfl
    · split
      · rw [List.all_cons, hk, h.2]; rfl
      · rw [List.all_cons, h.1, ih h.2]; rfl

theorem twf_tdel {α : Type} [DecidableEq α] (d : α) (t : Table α) (k : Nat) (h : twf d t = true) : twf d (tdel t k) = true := by
  induction t with
  | nil => rfl
  | cons e r ih =>
    obtain ⟨i, v⟩ := e
    simp only [twf, Bool.and_eq_true] at h
    by_cases hik : i = k
    · simp [tdel, hik, ih h.2]
    · have hik' : (i == k) = false := by simpa using hik
      simp only [tdel, hik', Bool.false_eq_true, if_false, twf, Bool.and_eq_true]
      exact ⟨⟨h.1.1, tdel_all _ r k h.1.2⟩, ih h.2⟩

theorem twf_tins {α : Type} [DecidableEq α] (d : α) (t : Table α) (k : Nat) (v : α) (hv : v ≠ d) (h : twf d t = true) :
    twf d (tins t k v) = true := by
  induction t with
  | nil => simp [tins, twf, hv]
  | cons e r ih =>
    obtain ⟨i, w⟩ := e
    have h' := h
    simp only [twf, Bool.and_eq_true] at h
    simp only [tins]
    split
    · rename_i hlt
      simp only [twf, Bool.and_eq_true] at h' ⊢
      refine ⟨⟨by simpa using hv, ?_⟩, h'⟩
      rw [List.all_cons]
      simp only [Bool.and_eq_true, decide_eq_true_eq]
      refine ⟨hlt, ?_⟩
      have := h'.1.2
      rw [List.all_eq_true] at this ⊢
      intro x hx
      have := this x hx
      simp only [decide_eq_true_eq] at this ⊢
      omega
    · rename_i hlt
      split
      · rename_i heq
        have heq : i = k := by simpa using heq
        subst heq
        simp only [twf, Bool.and_eq_true]
        exact ⟨⟨by simpa using hv, h.1.2⟩, h.2⟩
      · rename_i hne
        have hne : i ≠ k := by simpa using hne
        simp only [twf, Bool.and_eq_true]
        refine ⟨⟨h.1.1, tins_all _ r k v h.1.2 ?_⟩, ih h.2⟩
        simp only [decide_eq_true_eq]
        omega

/-- Writing an entry keeps the canonical form. -/
theorem twf_tput {α : Type} [DecidableEq α] (d : α) (t : Table α) (k : Nat) (v : α) (h : twf d t = true) : twf d (tput d t k v) = true := by
  unfold tput
  split
  · exact twf_tdel d t k h
  · rename_i hv; exact twf_tins d t k v hv h

theorem twf_tmod {α : Type} [DecidableEq α] (d : α) (t : Table α) (k : Nat) (f : α → α) (h : twf d t = true) :
    twf d (tmod d t k f) = true := twf_tput d t k _ h

theorem tput_all {α : Type} [DecidableEq α] (p : Nat × α → Bool) (d : α) (t : Table α) (k : Nat) (v : α) (h : t.all p = true)
    (hk : p (k, v) = true) : (tput d t k v).all p = true := by
  unfold tput
  split
  · exact tdel_all p t k h
  · exact tins_all p t k v h hk

/-! ## Memory -/

theorem memRead_memWrite (m : List Host.Cell) (a b : Nat) (v : Byte) : memRead (memWrite m a v) b = if b = a then v else memRead m b := by
  simp [memRead, memWrite, tget_tput]

/-- A byte written reads back. -/
@[simp] theorem memRead_memWrite_same (m : List Host.Cell) (a : Nat) (v : Byte) : memRead (memWrite m a v) a = v := by
  simp [memRead_memWrite]

/-- A write leaves every other byte. -/
theorem memRead_memWrite_other (m : List Host.Cell) {a b : Nat} (v : Byte) (h : b ≠ a) : memRead (memWrite m a v) b = memRead m b := by
  simp [memRead_memWrite, h]

/-- What a byte string written from `a` leaves at an address. -/
theorem memRead_memWrites (m : List Host.Cell) (a : Nat) (l : List Byte) (b : Nat) :
    memRead (memWrites m a l) b = if a ≤ b ∧ b < a + l.length then byteAt l (b - a) else memRead m b := by
  induction l generalizing m a with
  | nil =>
    have h : ¬(a ≤ b ∧ b < a + ([] : List Byte).length) := by simp only [List.length_nil]; omega
    rw [if_neg h]; rfl
  | cons x r ih =>
    simp only [memWrites, ih, memRead_memWrite, List.length_cons]
    by_cases h1 : b = a
    · subst h1
      have : ¬ (b + 1 ≤ b ∧ b < b + 1 + r.length) := by omega
      have h2 : b ≤ b ∧ b < b + (r.length + 1) := by omega
      rw [if_neg this, if_pos h2]
      simp [byteAt]
    · by_cases h2 : a + 1 ≤ b ∧ b < a + 1 + r.length
      · have h3 : a ≤ b ∧ b < a + (r.length + 1) := by omega
        have h4 : b - a = (b - (a + 1)) + 1 := by omega
        rw [if_pos h2, if_pos h3, h4]
        simp [byteAt]
      · have h3 : ¬ (a ≤ b ∧ b < a + (r.length + 1)) := by omega
        rw [if_neg h2, if_neg h3, if_neg h1]

/-- A byte string written leaves the bytes before and after it. -/
theorem memRead_memWrites_outside (m : List Host.Cell) (a : Nat) (l : List Byte) (b : Nat) (h : b < a ∨ a + l.length ≤ b) :
    memRead (memWrites m a l) b = memRead m b := by
  rw [memRead_memWrites, if_neg]; omega

/-- A byte string written reads back. -/
theorem memReads_memWrites (m : List Host.Cell) (a : Nat) (l : List Byte) : memReads (memWrites m a l) a l.length = l := by
  apply List.ext_getElem
  · simp [memReads, upFrom]
  · intro i h1 h2
    simp only [memReads, upFrom, List.getElem_map, List.getElem_range, memRead_memWrites]
    rw [if_pos (by omega)]
    simp [byteAt, h2]

/-- Every memory operation keeps the canonical form. -/
theorem memWrite_wf (m : List Host.Cell) (a : Nat) (v : Byte) (h : Memory.wf m = true) : Memory.wf (memWrite m a v) = true :=
  twf_tput 0 m a v h

theorem memWrites_wf (m : List Host.Cell) (a : Nat) (l : List Byte) (h : Memory.wf m = true) : Memory.wf (memWrites m a l) = true := by
  induction l generalizing m a with
  | nil => exact h
  | cons b r ih => exact ih _ _ (memWrite_wf m a b h)

/-! ## Byte strings -/

@[simp] theorem leBytes_length (n x : Nat) : (leBytes n x).length = n := by
  induction n generalizing x with
  | zero => rfl
  | succ n ih => simp [leBytes, ih]

theorem leNat_leBytes (n x : Nat) : leNat (leBytes n x) = x % 256 ^ n := by
  induction n generalizing x with
  | zero => simp [leBytes, leNat, Nat.mod_one]
  | succ n ih =>
    simp only [leBytes, leNat, ih, BitVec.toNat_ofNat, show (2 : Nat) ^ 8 = 256 from rfl]
    rw [Nat.pow_succ, Nat.mul_comm (256 ^ n) 256, Nat.mod_mul]

theorem leNat_lt (l : List Byte) : leNat l < 256 ^ l.length := by
  induction l with
  | nil => simp [leNat]
  | cons b r ih =>
    simp only [leNat, List.length_cons, Nat.pow_succ]
    have := b.isLt
    omega

theorem leBytes_leNat (l : List Byte) : leBytes l.length (leNat l) = l := by
  induction l with
  | nil => rfl
  | cons b r ih =>
    simp only [leNat, List.length_cons, leBytes]
    have h1 : (b.toNat + 256 * leNat r) / 256 = leNat r := by have := b.isLt; omega
    have h2 : BitVec.ofNat 8 (b.toNat + 256 * leNat r) = b := by
      apply BitVec.eq_of_toNat_eq
      simp [BitVec.toNat_ofNat]
      have := b.isLt; omega
    rw [h1, h2, ih]

@[simp] theorem memReads_length (m : List Host.Cell) (a n : Nat) : (memReads m a n).length = n := by simp [memReads, upFrom]

/-- The bytes from an address, one by one. -/
theorem byteAt_memReads (m : List Host.Cell) (a n k : Nat) (h : k < n) : byteAt (memReads m a n) k = memRead m (a + k) := by
  simp [byteAt, memReads, upFrom, h]

end Sys2Proof.Machine
end

