-- ==== Sys2Proof/Laws/State.lean ====
section
/-! SUPPORT. Laws/State.lean: one lemma for each field of the state and each named update: the update's new field, or the field as it
was; and what the accessors read after an update. -/

namespace Sys2Proof.Machine

open Sys2Proof

/-! ## Outputs and free values -/

@[simp] theorem emit_pending (o : Out) (s : State) : (emit o s).pending = s.pending := rfl
@[simp] theorem emit_ev9 (o : Out) (s : State) : (emit o s).ev9 = s.ev9 := rfl
@[simp] theorem emit_nw8 (o : Out) (s : State) : (emit o s).nw8 = s.nw8 := rfl
@[simp] theorem emit_outbox (o : Out) (s : State) : (emit o s).outbox = s.outbox ++ [o] := rfl
@[simp] theorem emit_fresh (o : Out) (s : State) : (emit o s).fresh = s.fresh := rfl
@[simp] theorem emit_w1cNow (o : Out) (s : State) : (emit o s).w1cNow = s.w1cNow := rfl
@[simp] theorem emit_pulses (o : Out) (s : State) : (emit o s).pulses = s.pulses := rfl

/-! ## Free values -/

@[simp] theorem drawn_pending (s : State) : (drawn s).pending = s.pending := rfl
@[simp] theorem drawn_ev9 (s : State) : (drawn s).ev9 = s.ev9 := rfl
@[simp] theorem drawn_nw8 (s : State) : (drawn s).nw8 = s.nw8 := rfl
@[simp] theorem drawn_outbox (s : State) : (drawn s).outbox = s.outbox := rfl
@[simp] theorem drawn_fresh (s : State) : (drawn s).fresh = s.fresh + 1 := rfl
@[simp] theorem drawn_w1cNow (s : State) : (drawn s).w1cNow = s.w1cNow := rfl
@[simp] theorem drawn_pulses (s : State) : (drawn s).pulses = s.pulses := rfl

/-! ## The EV9 -/

@[simp] theorem onEv9_pending (f : Ev9 → Ev9) (s : State) : (onEv9 f s).pending = s.pending := rfl
@[simp] theorem onEv9_ev9 (f : Ev9 → Ev9) (s : State) : (onEv9 f s).ev9 = f s.ev9 := rfl
@[simp] theorem onEv9_nw8 (f : Ev9 → Ev9) (s : State) : (onEv9 f s).nw8 = s.nw8 := rfl
@[simp] theorem onEv9_outbox (f : Ev9 → Ev9) (s : State) : (onEv9 f s).outbox = s.outbox := rfl
@[simp] theorem onEv9_fresh (f : Ev9 → Ev9) (s : State) : (onEv9 f s).fresh = s.fresh := rfl
@[simp] theorem onEv9_w1cNow (f : Ev9 → Ev9) (s : State) : (onEv9 f s).w1cNow = s.w1cNow := rfl
@[simp] theorem onEv9_pulses (f : Ev9 → Ev9) (s : State) : (onEv9 f s).pulses = s.pulses := rfl

/-! ## The NW8 -/

@[simp] theorem onNw8_pending (f : Nw8 → Nw8) (s : State) : (onNw8 f s).pending = s.pending := rfl
@[simp] theorem onNw8_ev9 (f : Nw8 → Nw8) (s : State) : (onNw8 f s).ev9 = s.ev9 := rfl
@[simp] theorem onNw8_nw8 (f : Nw8 → Nw8) (s : State) : (onNw8 f s).nw8 = f s.nw8 := rfl
@[simp] theorem onNw8_outbox (f : Nw8 → Nw8) (s : State) : (onNw8 f s).outbox = s.outbox := rfl
@[simp] theorem onNw8_fresh (f : Nw8 → Nw8) (s : State) : (onNw8 f s).fresh = s.fresh := rfl
@[simp] theorem onNw8_w1cNow (f : Nw8 → Nw8) (s : State) : (onNw8 f s).w1cNow = s.w1cNow := rfl
@[simp] theorem onNw8_pulses (f : Nw8 → Nw8) (s : State) : (onNw8 f s).pulses = s.pulses := rfl

/-! ## Parts of the EV9, changed from the state -/

@[simp] theorem onPart_pending (p : Nat) (f : Part → Part) (s : State) : (onPart p f s).pending = s.pending := rfl
@[simp] theorem onPart_ev9 (p : Nat) (f : Part → Part) (s : State) : (onPart p f s).ev9 = s.ev9.onPart p f := rfl
@[simp] theorem onPart_nw8 (p : Nat) (f : Part → Part) (s : State) : (onPart p f s).nw8 = s.nw8 := rfl
@[simp] theorem onPart_outbox (p : Nat) (f : Part → Part) (s : State) : (onPart p f s).outbox = s.outbox := rfl
@[simp] theorem onPart_fresh (p : Nat) (f : Part → Part) (s : State) : (onPart p f s).fresh = s.fresh := rfl
@[simp] theorem onPart_w1cNow (p : Nat) (f : Part → Part) (s : State) : (onPart p f s).w1cNow = s.w1cNow := rfl
@[simp] theorem onPart_pulses (p : Nat) (f : Part → Part) (s : State) : (onPart p f s).pulses = s.pulses := rfl
@[simp] theorem onCore_pending (c : Nat) (f : Core → Core) (s : State) : (onCore c f s).pending = s.pending := rfl
@[simp] theorem onCore_ev9 (c : Nat) (f : Core → Core) (s : State) : (onCore c f s).ev9 = s.ev9.onCore c f := rfl
@[simp] theorem onCore_nw8 (c : Nat) (f : Core → Core) (s : State) : (onCore c f s).nw8 = s.nw8 := rfl
@[simp] theorem onCore_outbox (c : Nat) (f : Core → Core) (s : State) : (onCore c f s).outbox = s.outbox := rfl
@[simp] theorem onCore_fresh (c : Nat) (f : Core → Core) (s : State) : (onCore c f s).fresh = s.fresh := rfl
@[simp] theorem onCore_w1cNow (c : Nat) (f : Core → Core) (s : State) : (onCore c f s).w1cNow = s.w1cNow := rfl
@[simp] theorem onCore_pulses (c : Nat) (f : Core → Core) (s : State) : (onCore c f s).pulses = s.pulses := rfl
@[simp] theorem onPort_pending (n : Nat) (f : Port → Port) (s : State) : (onPort n f s).pending = s.pending := rfl
@[simp] theorem onPort_ev9 (n : Nat) (f : Port → Port) (s : State) : (onPort n f s).ev9 = s.ev9.onPort n f := rfl
@[simp] theorem onPort_nw8 (n : Nat) (f : Port → Port) (s : State) : (onPort n f s).nw8 = s.nw8 := rfl
@[simp] theorem onPort_outbox (n : Nat) (f : Port → Port) (s : State) : (onPort n f s).outbox = s.outbox := rfl
@[simp] theorem onPort_fresh (n : Nat) (f : Port → Port) (s : State) : (onPort n f s).fresh = s.fresh := rfl
@[simp] theorem onPort_w1cNow (n : Nat) (f : Port → Port) (s : State) : (onPort n f s).w1cNow = s.w1cNow := rfl
@[simp] theorem onPort_pulses (n : Nat) (f : Port → Port) (s : State) : (onPort n f s).pulses = s.pulses := rfl
@[simp] theorem onMember_pending (t : Nat) (f : Member → Member) (s : State) : (onMember t f s).pending = s.pending := rfl
@[simp] theorem onMember_ev9 (t : Nat) (f : Member → Member) (s : State) : (onMember t f s).ev9 = s.ev9.onMember t f := rfl
@[simp] theorem onMember_nw8 (t : Nat) (f : Member → Member) (s : State) : (onMember t f s).nw8 = s.nw8 := rfl
@[simp] theorem onMember_outbox (t : Nat) (f : Member → Member) (s : State) : (onMember t f s).outbox = s.outbox := rfl
@[simp] theorem onMember_fresh (t : Nat) (f : Member → Member) (s : State) : (onMember t f s).fresh = s.fresh := rfl
@[simp] theorem onMember_w1cNow (t : Nat) (f : Member → Member) (s : State) : (onMember t f s).w1cNow = s.w1cNow := rfl
@[simp] theorem onMember_pulses (t : Nat) (f : Member → Member) (s : State) : (onMember t f s).pulses = s.pulses := rfl

@[simp] theorem onChan_pending (n : Nat) (f : TrayCh → TrayCh) (s : State) : (onChan n f s).pending = s.pending := rfl
@[simp] theorem onChan_ev9 (n : Nat) (f : TrayCh → TrayCh) (s : State) : (onChan n f s).ev9 = s.ev9 := rfl
@[simp] theorem onChan_nw8 (n : Nat) (f : TrayCh → TrayCh) (s : State) : (onChan n f s).nw8 = s.nw8.onChan n f := rfl
@[simp] theorem onChan_outbox (n : Nat) (f : TrayCh → TrayCh) (s : State) : (onChan n f s).outbox = s.outbox := rfl
@[simp] theorem onChan_fresh (n : Nat) (f : TrayCh → TrayCh) (s : State) : (onChan n f s).fresh = s.fresh := rfl
@[simp] theorem onChan_w1cNow (n : Nat) (f : TrayCh → TrayCh) (s : State) : (onChan n f s).w1cNow = s.w1cNow := rfl
@[simp] theorem onChan_pulses (n : Nat) (f : TrayCh → TrayCh) (s : State) : (onChan n f s).pulses = s.pulses := rfl
@[simp] theorem onHold_pending (f : Hold → Hold) (s : State) : (onHold f s).pending = s.pending := rfl
@[simp] theorem onHold_ev9 (f : Hold → Hold) (s : State) : (onHold f s).ev9 = s.ev9 := rfl
@[simp] theorem onHold_nw8 (f : Hold → Hold) (s : State) : (onHold f s).nw8 = { s.nw8 with hold := f s.nw8.hold } := rfl
@[simp] theorem onHold_outbox (f : Hold → Hold) (s : State) : (onHold f s).outbox = s.outbox := rfl
@[simp] theorem onHold_fresh (f : Hold → Hold) (s : State) : (onHold f s).fresh = s.fresh := rfl
@[simp] theorem onHold_w1cNow (f : Hold → Hold) (s : State) : (onHold f s).w1cNow = s.w1cNow := rfl
@[simp] theorem onHold_pulses (f : Hold → Hold) (s : State) : (onHold f s).pulses = s.pulses := rfl

/-! ### onPart -/

@[simp] theorem Ev9.onPart_chip (p : Nat) (f : Part → Part) (e : Ev9) : (e.onPart p f).chip = e.chip := rfl
@[simp] theorem Ev9.onPart_parts (p : Nat) (f : Part → Part) (e : Ev9) : (e.onPart p f).parts = tmod {} e.parts p f := rfl
@[simp] theorem Ev9.onPart_cores (p : Nat) (f : Part → Part) (e : Ev9) : (e.onPart p f).cores = e.cores := rfl
@[simp] theorem Ev9.onPart_clusters (p : Nat) (f : Part → Part) (e : Ev9) : (e.onPart p f).clusters = e.clusters := rfl
@[simp] theorem Ev9.onPart_banks (p : Nat) (f : Part → Part) (e : Ev9) : (e.onPart p f).banks = e.banks := rfl
@[simp] theorem Ev9.onPart_scr (p : Nat) (f : Part → Part) (e : Ev9) : (e.onPart p f).scr = e.scr := rfl
@[simp] theorem Ev9.onPart_mem (p : Nat) (f : Part → Part) (e : Ev9) : (e.onPart p f).mem = e.mem := rfl
@[simp] theorem Ev9.onPart_poison (p : Nat) (f : Part → Part) (e : Ev9) : (e.onPart p f).poison = e.poison := rfl
@[simp] theorem Ev9.onPart_members (p : Nat) (f : Part → Part) (e : Ev9) : (e.onPart p f).members = e.members := rfl
@[simp] theorem Ev9.onPart_noc (p : Nat) (f : Part → Part) (e : Ev9) : (e.onPart p f).noc = e.noc := rfl
@[simp] theorem Ev9.onPart_ports (p : Nat) (f : Part → Part) (e : Ev9) : (e.onPart p f).ports = e.ports := rfl
@[simp] theorem Ev9.onPart_hif (p : Nat) (f : Part → Part) (e : Ev9) : (e.onPart p f).hif = e.hif := rfl
@[simp] theorem Ev9.onPart_power (p : Nat) (f : Part → Part) (e : Ev9) : (e.onPart p f).power = e.power := rfl
@[simp] theorem Ev9.onPart_therm (p : Nat) (f : Part → Part) (e : Ev9) : (e.onPart p f).therm = e.therm := rfl
@[simp] theorem Ev9.onPart_svc (p : Nat) (f : Part → Part) (e : Ev9) : (e.onPart p f).svc = e.svc := rfl
@[simp] theorem Ev9.onPart_sessPf (p : Nat) (f : Part → Part) (e : Ev9) : (e.onPart p f).sessPf = e.sessPf := rfl
@[simp] theorem Ev9.onPart_sessSmb (p : Nat) (f : Part → Part) (e : Ev9) : (e.onPart p f).sessSmb = e.sessSmb := rfl
@[simp] theorem Ev9.onPart_smb0 (p : Nat) (f : Part → Part) (e : Ev9) : (e.onPart p f).smb0 = e.smb0 := rfl
@[simp] theorem Ev9.onPart_smb1 (p : Nat) (f : Part → Part) (e : Ev9) : (e.onPart p f).smb1 = e.smb1 := rfl
@[simp] theorem Ev9.onPart_dbg (p : Nat) (f : Part → Part) (e : Ev9) : (e.onPart p f).dbg = e.dbg := rfl

/-! ### onCore -/

@[simp] theorem Ev9.onCore_chip (c : Nat) (f : Core → Core) (e : Ev9) : (e.onCore c f).chip = e.chip := rfl
@[simp] theorem Ev9.onCore_parts (c : Nat) (f : Core → Core) (e : Ev9) : (e.onCore c f).parts = e.parts := rfl
@[simp] theorem Ev9.onCore_cores (c : Nat) (f : Core → Core) (e : Ev9) : (e.onCore c f).cores = tmod {} e.cores c f := rfl
@[simp] theorem Ev9.onCore_clusters (c : Nat) (f : Core → Core) (e : Ev9) : (e.onCore c f).clusters = e.clusters := rfl
@[simp] theorem Ev9.onCore_banks (c : Nat) (f : Core → Core) (e : Ev9) : (e.onCore c f).banks = e.banks := rfl
@[simp] theorem Ev9.onCore_scr (c : Nat) (f : Core → Core) (e : Ev9) : (e.onCore c f).scr = e.scr := rfl
@[simp] theorem Ev9.onCore_mem (c : Nat) (f : Core → Core) (e : Ev9) : (e.onCore c f).mem = e.mem := rfl
@[simp] theorem Ev9.onCore_poison (c : Nat) (f : Core → Core) (e : Ev9) : (e.onCore c f).poison = e.poison := rfl
@[simp] theorem Ev9.onCore_members (c : Nat) (f : Core → Core) (e : Ev9) : (e.onCore c f).members = e.members := rfl
@[simp] theorem Ev9.onCore_noc (c : Nat) (f : Core → Core) (e : Ev9) : (e.onCore c f).noc = e.noc := rfl
@[simp] theorem Ev9.onCore_ports (c : Nat) (f : Core → Core) (e : Ev9) : (e.onCore c f).ports = e.ports := rfl
@[simp] theorem Ev9.onCore_hif (c : Nat) (f : Core → Core) (e : Ev9) : (e.onCore c f).hif = e.hif := rfl
@[simp] theorem Ev9.onCore_power (c : Nat) (f : Core → Core) (e : Ev9) : (e.onCore c f).power = e.power := rfl
@[simp] theorem Ev9.onCore_therm (c : Nat) (f : Core → Core) (e : Ev9) : (e.onCore c f).therm = e.therm := rfl
@[simp] theorem Ev9.onCore_svc (c : Nat) (f : Core → Core) (e : Ev9) : (e.onCore c f).svc = e.svc := rfl
@[simp] theorem Ev9.onCore_sessPf (c : Nat) (f : Core → Core) (e : Ev9) : (e.onCore c f).sessPf = e.sessPf := rfl
@[simp] theorem Ev9.onCore_sessSmb (c : Nat) (f : Core → Core) (e : Ev9) : (e.onCore c f).sessSmb = e.sessSmb := rfl
@[simp] theorem Ev9.onCore_smb0 (c : Nat) (f : Core → Core) (e : Ev9) : (e.onCore c f).smb0 = e.smb0 := rfl
@[simp] theorem Ev9.onCore_smb1 (c : Nat) (f : Core → Core) (e : Ev9) : (e.onCore c f).smb1 = e.smb1 := rfl
@[simp] theorem Ev9.onCore_dbg (c : Nat) (f : Core → Core) (e : Ev9) : (e.onCore c f).dbg = e.dbg := rfl

/-! ### onCluster -/

@[simp] theorem Ev9.onCluster_chip (k : Nat) (f : Cluster → Cluster) (e : Ev9) : (e.onCluster k f).chip = e.chip := rfl
@[simp] theorem Ev9.onCluster_parts (k : Nat) (f : Cluster → Cluster) (e : Ev9) : (e.onCluster k f).parts = e.parts := rfl
@[simp] theorem Ev9.onCluster_cores (k : Nat) (f : Cluster → Cluster) (e : Ev9) : (e.onCluster k f).cores = e.cores := rfl
@[simp] theorem Ev9.onCluster_clusters (k : Nat) (f : Cluster → Cluster) (e : Ev9) : (e.onCluster k f).clusters = tmod {} e.clusters k f := rfl
@[simp] theorem Ev9.onCluster_banks (k : Nat) (f : Cluster → Cluster) (e : Ev9) : (e.onCluster k f).banks = e.banks := rfl
@[simp] theorem Ev9.onCluster_scr (k : Nat) (f : Cluster → Cluster) (e : Ev9) : (e.onCluster k f).scr = e.scr := rfl
@[simp] theorem Ev9.onCluster_mem (k : Nat) (f : Cluster → Cluster) (e : Ev9) : (e.onCluster k f).mem = e.mem := rfl
@[simp] theorem Ev9.onCluster_poison (k : Nat) (f : Cluster → Cluster) (e : Ev9) : (e.onCluster k f).poison = e.poison := rfl
@[simp] theorem Ev9.onCluster_members (k : Nat) (f : Cluster → Cluster) (e : Ev9) : (e.onCluster k f).members = e.members := rfl
@[simp] theorem Ev9.onCluster_noc (k : Nat) (f : Cluster → Cluster) (e : Ev9) : (e.onCluster k f).noc = e.noc := rfl
@[simp] theorem Ev9.onCluster_ports (k : Nat) (f : Cluster → Cluster) (e : Ev9) : (e.onCluster k f).ports = e.ports := rfl
@[simp] theorem Ev9.onCluster_hif (k : Nat) (f : Cluster → Cluster) (e : Ev9) : (e.onCluster k f).hif = e.hif := rfl
@[simp] theorem Ev9.onCluster_power (k : Nat) (f : Cluster → Cluster) (e : Ev9) : (e.onCluster k f).power = e.power := rfl
@[simp] theorem Ev9.onCluster_therm (k : Nat) (f : Cluster → Cluster) (e : Ev9) : (e.onCluster k f).therm = e.therm := rfl
@[simp] theorem Ev9.onCluster_svc (k : Nat) (f : Cluster → Cluster) (e : Ev9) : (e.onCluster k f).svc = e.svc := rfl
@[simp] theorem Ev9.onCluster_sessPf (k : Nat) (f : Cluster → Cluster) (e : Ev9) : (e.onCluster k f).sessPf = e.sessPf := rfl
@[simp] theorem Ev9.onCluster_sessSmb (k : Nat) (f : Cluster → Cluster) (e : Ev9) : (e.onCluster k f).sessSmb = e.sessSmb := rfl
@[simp] theorem Ev9.onCluster_smb0 (k : Nat) (f : Cluster → Cluster) (e : Ev9) : (e.onCluster k f).smb0 = e.smb0 := rfl
@[simp] theorem Ev9.onCluster_smb1 (k : Nat) (f : Cluster → Cluster) (e : Ev9) : (e.onCluster k f).smb1 = e.smb1 := rfl
@[simp] theorem Ev9.onCluster_dbg (k : Nat) (f : Cluster → Cluster) (e : Ev9) : (e.onCluster k f).dbg = e.dbg := rfl

/-! ### onPort -/

@[simp] theorem Ev9.onPort_chip (n : Nat) (f : Port → Port) (e : Ev9) : (e.onPort n f).chip = e.chip := rfl
@[simp] theorem Ev9.onPort_parts (n : Nat) (f : Port → Port) (e : Ev9) : (e.onPort n f).parts = e.parts := rfl
@[simp] theorem Ev9.onPort_cores (n : Nat) (f : Port → Port) (e : Ev9) : (e.onPort n f).cores = e.cores := rfl
@[simp] theorem Ev9.onPort_clusters (n : Nat) (f : Port → Port) (e : Ev9) : (e.onPort n f).clusters = e.clusters := rfl
@[simp] theorem Ev9.onPort_banks (n : Nat) (f : Port → Port) (e : Ev9) : (e.onPort n f).banks = e.banks := rfl
@[simp] theorem Ev9.onPort_scr (n : Nat) (f : Port → Port) (e : Ev9) : (e.onPort n f).scr = e.scr := rfl
@[simp] theorem Ev9.onPort_mem (n : Nat) (f : Port → Port) (e : Ev9) : (e.onPort n f).mem = e.mem := rfl
@[simp] theorem Ev9.onPort_poison (n : Nat) (f : Port → Port) (e : Ev9) : (e.onPort n f).poison = e.poison := rfl
@[simp] theorem Ev9.onPort_members (n : Nat) (f : Port → Port) (e : Ev9) : (e.onPort n f).members = e.members := rfl
@[simp] theorem Ev9.onPort_noc (n : Nat) (f : Port → Port) (e : Ev9) : (e.onPort n f).noc = e.noc := rfl
@[simp] theorem Ev9.onPort_ports (n : Nat) (f : Port → Port) (e : Ev9) : (e.onPort n f).ports = tmod {} e.ports n f := rfl
@[simp] theorem Ev9.onPort_hif (n : Nat) (f : Port → Port) (e : Ev9) : (e.onPort n f).hif = e.hif := rfl
@[simp] theorem Ev9.onPort_power (n : Nat) (f : Port → Port) (e : Ev9) : (e.onPort n f).power = e.power := rfl
@[simp] theorem Ev9.onPort_therm (n : Nat) (f : Port → Port) (e : Ev9) : (e.onPort n f).therm = e.therm := rfl
@[simp] theorem Ev9.onPort_svc (n : Nat) (f : Port → Port) (e : Ev9) : (e.onPort n f).svc = e.svc := rfl
@[simp] theorem Ev9.onPort_sessPf (n : Nat) (f : Port → Port) (e : Ev9) : (e.onPort n f).sessPf = e.sessPf := rfl
@[simp] theorem Ev9.onPort_sessSmb (n : Nat) (f : Port → Port) (e : Ev9) : (e.onPort n f).sessSmb = e.sessSmb := rfl
@[simp] theorem Ev9.onPort_smb0 (n : Nat) (f : Port → Port) (e : Ev9) : (e.onPort n f).smb0 = e.smb0 := rfl
@[simp] theorem Ev9.onPort_smb1 (n : Nat) (f : Port → Port) (e : Ev9) : (e.onPort n f).smb1 = e.smb1 := rfl
@[simp] theorem Ev9.onPort_dbg (n : Nat) (f : Port → Port) (e : Ev9) : (e.onPort n f).dbg = e.dbg := rfl

/-! ### onHif -/

@[simp] theorem Ev9.onHif_chip (f : Hif → Hif) (e : Ev9) : (e.onHif f).chip = e.chip := rfl
@[simp] theorem Ev9.onHif_parts (f : Hif → Hif) (e : Ev9) : (e.onHif f).parts = e.parts := rfl
@[simp] theorem Ev9.onHif_cores (f : Hif → Hif) (e : Ev9) : (e.onHif f).cores = e.cores := rfl
@[simp] theorem Ev9.onHif_clusters (f : Hif → Hif) (e : Ev9) : (e.onHif f).clusters = e.clusters := rfl
@[simp] theorem Ev9.onHif_banks (f : Hif → Hif) (e : Ev9) : (e.onHif f).banks = e.banks := rfl
@[simp] theorem Ev9.onHif_scr (f : Hif → Hif) (e : Ev9) : (e.onHif f).scr = e.scr := rfl
@[simp] theorem Ev9.onHif_mem (f : Hif → Hif) (e : Ev9) : (e.onHif f).mem = e.mem := rfl
@[simp] theorem Ev9.onHif_poison (f : Hif → Hif) (e : Ev9) : (e.onHif f).poison = e.poison := rfl
@[simp] theorem Ev9.onHif_members (f : Hif → Hif) (e : Ev9) : (e.onHif f).members = e.members := rfl
@[simp] theorem Ev9.onHif_noc (f : Hif → Hif) (e : Ev9) : (e.onHif f).noc = e.noc := rfl
@[simp] theorem Ev9.onHif_ports (f : Hif → Hif) (e : Ev9) : (e.onHif f).ports = e.ports := rfl
@[simp] theorem Ev9.onHif_hif (f : Hif → Hif) (e : Ev9) : (e.onHif f).hif = f e.hif := rfl
@[simp] theorem Ev9.onHif_power (f : Hif → Hif) (e : Ev9) : (e.onHif f).power = e.power := rfl
@[simp] theorem Ev9.onHif_therm (f : Hif → Hif) (e : Ev9) : (e.onHif f).therm = e.therm := rfl
@[simp] theorem Ev9.onHif_svc (f : Hif → Hif) (e : Ev9) : (e.onHif f).svc = e.svc := rfl
@[simp] theorem Ev9.onHif_sessPf (f : Hif → Hif) (e : Ev9) : (e.onHif f).sessPf = e.sessPf := rfl
@[simp] theorem Ev9.onHif_sessSmb (f : Hif → Hif) (e : Ev9) : (e.onHif f).sessSmb = e.sessSmb := rfl
@[simp] theorem Ev9.onHif_smb0 (f : Hif → Hif) (e : Ev9) : (e.onHif f).smb0 = e.smb0 := rfl
@[simp] theorem Ev9.onHif_smb1 (f : Hif → Hif) (e : Ev9) : (e.onHif f).smb1 = e.smb1 := rfl
@[simp] theorem Ev9.onHif_dbg (f : Hif → Hif) (e : Ev9) : (e.onHif f).dbg = e.dbg := rfl

/-! ### onSvc -/

@[simp] theorem Ev9.onSvc_chip (f : Svc → Svc) (e : Ev9) : (e.onSvc f).chip = e.chip := rfl
@[simp] theorem Ev9.onSvc_parts (f : Svc → Svc) (e : Ev9) : (e.onSvc f).parts = e.parts := rfl
@[simp] theorem Ev9.onSvc_cores (f : Svc → Svc) (e : Ev9) : (e.onSvc f).cores = e.cores := rfl
@[simp] theorem Ev9.onSvc_clusters (f : Svc → Svc) (e : Ev9) : (e.onSvc f).clusters = e.clusters := rfl
@[simp] theorem Ev9.onSvc_banks (f : Svc → Svc) (e : Ev9) : (e.onSvc f).banks = e.banks := rfl
@[simp] theorem Ev9.onSvc_scr (f : Svc → Svc) (e : Ev9) : (e.onSvc f).scr = e.scr := rfl
@[simp] theorem Ev9.onSvc_mem (f : Svc → Svc) (e : Ev9) : (e.onSvc f).mem = e.mem := rfl
@[simp] theorem Ev9.onSvc_poison (f : Svc → Svc) (e : Ev9) : (e.onSvc f).poison = e.poison := rfl
@[simp] theorem Ev9.onSvc_members (f : Svc → Svc) (e : Ev9) : (e.onSvc f).members = e.members := rfl
@[simp] theorem Ev9.onSvc_noc (f : Svc → Svc) (e : Ev9) : (e.onSvc f).noc = e.noc := rfl
@[simp] theorem Ev9.onSvc_ports (f : Svc → Svc) (e : Ev9) : (e.onSvc f).ports = e.ports := rfl
@[simp] theorem Ev9.onSvc_hif (f : Svc → Svc) (e : Ev9) : (e.onSvc f).hif = e.hif := rfl
@[simp] theorem Ev9.onSvc_power (f : Svc → Svc) (e : Ev9) : (e.onSvc f).power = e.power := rfl
@[simp] theorem Ev9.onSvc_therm (f : Svc → Svc) (e : Ev9) : (e.onSvc f).therm = e.therm := rfl
@[simp] theorem Ev9.onSvc_svc (f : Svc → Svc) (e : Ev9) : (e.onSvc f).svc = f e.svc := rfl
@[simp] theorem Ev9.onSvc_sessPf (f : Svc → Svc) (e : Ev9) : (e.onSvc f).sessPf = e.sessPf := rfl
@[simp] theorem Ev9.onSvc_sessSmb (f : Svc → Svc) (e : Ev9) : (e.onSvc f).sessSmb = e.sessSmb := rfl
@[simp] theorem Ev9.onSvc_smb0 (f : Svc → Svc) (e : Ev9) : (e.onSvc f).smb0 = e.smb0 := rfl
@[simp] theorem Ev9.onSvc_smb1 (f : Svc → Svc) (e : Ev9) : (e.onSvc f).smb1 = e.smb1 := rfl
@[simp] theorem Ev9.onSvc_dbg (f : Svc → Svc) (e : Ev9) : (e.onSvc f).dbg = e.dbg := rfl

/-! ### onSessPf -/

@[simp] theorem Ev9.onSessPf_chip (f : Session → Session) (e : Ev9) : (e.onSessPf f).chip = e.chip := rfl
@[simp] theorem Ev9.onSessPf_parts (f : Session → Session) (e : Ev9) : (e.onSessPf f).parts = e.parts := rfl
@[simp] theorem Ev9.onSessPf_cores (f : Session → Session) (e : Ev9) : (e.onSessPf f).cores = e.cores := rfl
@[simp] theorem Ev9.onSessPf_clusters (f : Session → Session) (e : Ev9) : (e.onSessPf f).clusters = e.clusters := rfl
@[simp] theorem Ev9.onSessPf_banks (f : Session → Session) (e : Ev9) : (e.onSessPf f).banks = e.banks := rfl
@[simp] theorem Ev9.onSessPf_scr (f : Session → Session) (e : Ev9) : (e.onSessPf f).scr = e.scr := rfl
@[simp] theorem Ev9.onSessPf_mem (f : Session → Session) (e : Ev9) : (e.onSessPf f).mem = e.mem := rfl
@[simp] theorem Ev9.onSessPf_poison (f : Session → Session) (e : Ev9) : (e.onSessPf f).poison = e.poison := rfl
@[simp] theorem Ev9.onSessPf_members (f : Session → Session) (e : Ev9) : (e.onSessPf f).members = e.members := rfl
@[simp] theorem Ev9.onSessPf_noc (f : Session → Session) (e : Ev9) : (e.onSessPf f).noc = e.noc := rfl
@[simp] theorem Ev9.onSessPf_ports (f : Session → Session) (e : Ev9) : (e.onSessPf f).ports = e.ports := rfl
@[simp] theorem Ev9.onSessPf_hif (f : Session → Session) (e : Ev9) : (e.onSessPf f).hif = e.hif := rfl
@[simp] theorem Ev9.onSessPf_power (f : Session → Session) (e : Ev9) : (e.onSessPf f).power = e.power := rfl
@[simp] theorem Ev9.onSessPf_therm (f : Session → Session) (e : Ev9) : (e.onSessPf f).therm = e.therm := rfl
@[simp] theorem Ev9.onSessPf_svc (f : Session → Session) (e : Ev9) : (e.onSessPf f).svc = e.svc := rfl
@[simp] theorem Ev9.onSessPf_sessPf (f : Session → Session) (e : Ev9) : (e.onSessPf f).sessPf = f e.sessPf := rfl
@[simp] theorem Ev9.onSessPf_sessSmb (f : Session → Session) (e : Ev9) : (e.onSessPf f).sessSmb = e.sessSmb := rfl
@[simp] theorem Ev9.onSessPf_smb0 (f : Session → Session) (e : Ev9) : (e.onSessPf f).smb0 = e.smb0 := rfl
@[simp] theorem Ev9.onSessPf_smb1 (f : Session → Session) (e : Ev9) : (e.onSessPf f).smb1 = e.smb1 := rfl
@[simp] theorem Ev9.onSessPf_dbg (f : Session → Session) (e : Ev9) : (e.onSessPf f).dbg = e.dbg := rfl

/-! ### onSessSmb -/

@[simp] theorem Ev9.onSessSmb_chip (f : Session → Session) (e : Ev9) : (e.onSessSmb f).chip = e.chip := rfl
@[simp] theorem Ev9.onSessSmb_parts (f : Session → Session) (e : Ev9) : (e.onSessSmb f).parts = e.parts := rfl
@[simp] theorem Ev9.onSessSmb_cores (f : Session → Session) (e : Ev9) : (e.onSessSmb f).cores = e.cores := rfl
@[simp] theorem Ev9.onSessSmb_clusters (f : Session → Session) (e : Ev9) : (e.onSessSmb f).clusters = e.clusters := rfl
@[simp] theorem Ev9.onSessSmb_banks (f : Session → Session) (e : Ev9) : (e.onSessSmb f).banks = e.banks := rfl
@[simp] theorem Ev9.onSessSmb_scr (f : Session → Session) (e : Ev9) : (e.onSessSmb f).scr = e.scr := rfl
@[simp] theorem Ev9.onSessSmb_mem (f : Session → Session) (e : Ev9) : (e.onSessSmb f).mem = e.mem := rfl
@[simp] theorem Ev9.onSessSmb_poison (f : Session → Session) (e : Ev9) : (e.onSessSmb f).poison = e.poison := rfl
@[simp] theorem Ev9.onSessSmb_members (f : Session → Session) (e : Ev9) : (e.onSessSmb f).members = e.members := rfl
@[simp] theorem Ev9.onSessSmb_noc (f : Session → Session) (e : Ev9) : (e.onSessSmb f).noc = e.noc := rfl
@[simp] theorem Ev9.onSessSmb_ports (f : Session → Session) (e : Ev9) : (e.onSessSmb f).ports = e.ports := rfl
@[simp] theorem Ev9.onSessSmb_hif (f : Session → Session) (e : Ev9) : (e.onSessSmb f).hif = e.hif := rfl
@[simp] theorem Ev9.onSessSmb_power (f : Session → Session) (e : Ev9) : (e.onSessSmb f).power = e.power := rfl
@[simp] theorem Ev9.onSessSmb_therm (f : Session → Session) (e : Ev9) : (e.onSessSmb f).therm = e.therm := rfl
@[simp] theorem Ev9.onSessSmb_svc (f : Session → Session) (e : Ev9) : (e.onSessSmb f).svc = e.svc := rfl
@[simp] theorem Ev9.onSessSmb_sessPf (f : Session → Session) (e : Ev9) : (e.onSessSmb f).sessPf = e.sessPf := rfl
@[simp] theorem Ev9.onSessSmb_sessSmb (f : Session → Session) (e : Ev9) : (e.onSessSmb f).sessSmb = f e.sessSmb := rfl
@[simp] theorem Ev9.onSessSmb_smb0 (f : Session → Session) (e : Ev9) : (e.onSessSmb f).smb0 = e.smb0 := rfl
@[simp] theorem Ev9.onSessSmb_smb1 (f : Session → Session) (e : Ev9) : (e.onSessSmb f).smb1 = e.smb1 := rfl
@[simp] theorem Ev9.onSessSmb_dbg (f : Session → Session) (e : Ev9) : (e.onSessSmb f).dbg = e.dbg := rfl

/-! ### Members, rings and slots -/

@[simp] theorem Ev9.onMember_chip (t : Nat) (f : Member → Member) (e : Ev9) : (e.onMember t f).chip = e.chip := by
  unfold Ev9.onMember; split <;> rfl
@[simp] theorem Ev9.onRing_chip (r : Nat) (f : Ring → Ring) (e : Ev9) : (e.onRing r f).chip = e.chip := rfl
@[simp] theorem Ev9.onSlot_chip (n : Nat) (f : StreamSlot → StreamSlot) (e : Ev9) : (e.onSlot n f).chip = e.chip := rfl
@[simp] theorem Ev9.onMember_parts (t : Nat) (f : Member → Member) (e : Ev9) : (e.onMember t f).parts = e.parts := by
  unfold Ev9.onMember; split <;> rfl
@[simp] theorem Ev9.onRing_parts (r : Nat) (f : Ring → Ring) (e : Ev9) : (e.onRing r f).parts = e.parts := rfl
@[simp] theorem Ev9.onSlot_parts (n : Nat) (f : StreamSlot → StreamSlot) (e : Ev9) : (e.onSlot n f).parts = e.parts := rfl
@[simp] theorem Ev9.onMember_cores (t : Nat) (f : Member → Member) (e : Ev9) : (e.onMember t f).cores = e.cores := by
  unfold Ev9.onMember; split <;> rfl
@[simp] theorem Ev9.onRing_cores (r : Nat) (f : Ring → Ring) (e : Ev9) : (e.onRing r f).cores = e.cores := rfl
@[simp] theorem Ev9.onSlot_cores (n : Nat) (f : StreamSlot → StreamSlot) (e : Ev9) : (e.onSlot n f).cores = e.cores := rfl
@[simp] theorem Ev9.onMember_clusters (t : Nat) (f : Member → Member) (e : Ev9) : (e.onMember t f).clusters = e.clusters := by
  unfold Ev9.onMember; split <;> rfl
@[simp] theorem Ev9.onRing_clusters (r : Nat) (f : Ring → Ring) (e : Ev9) : (e.onRing r f).clusters = e.clusters := rfl
@[simp] theorem Ev9.onSlot_clusters (n : Nat) (f : StreamSlot → StreamSlot) (e : Ev9) : (e.onSlot n f).clusters = e.clusters := rfl
@[simp] theorem Ev9.onMember_banks (t : Nat) (f : Member → Member) (e : Ev9) : (e.onMember t f).banks = e.banks := by
  unfold Ev9.onMember; split <;> rfl
@[simp] theorem Ev9.onMember_scr (t : Nat) (f : Member → Member) (e : Ev9) : (e.onMember t f).scr = e.scr := by
  unfold Ev9.onMember; split <;> rfl
@[simp] theorem Ev9.onRing_banks (r : Nat) (f : Ring → Ring) (e : Ev9) : (e.onRing r f).banks = e.banks := rfl
@[simp] theorem Ev9.onRing_scr (r : Nat) (f : Ring → Ring) (e : Ev9) : (e.onRing r f).scr = e.scr := rfl
@[simp] theorem Ev9.onSlot_banks (n : Nat) (f : StreamSlot → StreamSlot) (e : Ev9) : (e.onSlot n f).banks = e.banks := rfl
@[simp] theorem Ev9.onSlot_scr (n : Nat) (f : StreamSlot → StreamSlot) (e : Ev9) : (e.onSlot n f).scr = e.scr := rfl
@[simp] theorem Ev9.onMember_mem (t : Nat) (f : Member → Member) (e : Ev9) : (e.onMember t f).mem = e.mem := by
  unfold Ev9.onMember; split <;> rfl
@[simp] theorem Ev9.onRing_mem (r : Nat) (f : Ring → Ring) (e : Ev9) : (e.onRing r f).mem = e.mem := rfl
@[simp] theorem Ev9.onSlot_mem (n : Nat) (f : StreamSlot → StreamSlot) (e : Ev9) : (e.onSlot n f).mem = e.mem := rfl
@[simp] theorem Ev9.onMember_poison (t : Nat) (f : Member → Member) (e : Ev9) : (e.onMember t f).poison = e.poison := by
  unfold Ev9.onMember; split <;> rfl
@[simp] theorem Ev9.onRing_poison (r : Nat) (f : Ring → Ring) (e : Ev9) : (e.onRing r f).poison = e.poison := rfl
@[simp] theorem Ev9.onSlot_poison (n : Nat) (f : StreamSlot → StreamSlot) (e : Ev9) : (e.onSlot n f).poison = e.poison := rfl
@[simp] theorem Ev9.onRing_members (r : Nat) (f : Ring → Ring) (e : Ev9) : (e.onRing r f).members = e.members := rfl
@[simp] theorem Ev9.onSlot_members (n : Nat) (f : StreamSlot → StreamSlot) (e : Ev9) : (e.onSlot n f).members = e.members := rfl
@[simp] theorem Ev9.onMember_noc (t : Nat) (f : Member → Member) (e : Ev9) : (e.onMember t f).noc = e.noc := by
  unfold Ev9.onMember; split <;> rfl
@[simp] theorem Ev9.onRing_noc (r : Nat) (f : Ring → Ring) (e : Ev9) : (e.onRing r f).noc = e.noc := rfl
@[simp] theorem Ev9.onSlot_noc (n : Nat) (f : StreamSlot → StreamSlot) (e : Ev9) : (e.onSlot n f).noc = e.noc := rfl
@[simp] theorem Ev9.onMember_ports (t : Nat) (f : Member → Member) (e : Ev9) : (e.onMember t f).ports = e.ports := by
  unfold Ev9.onMember; split <;> rfl
@[simp] theorem Ev9.onRing_ports (r : Nat) (f : Ring → Ring) (e : Ev9) : (e.onRing r f).ports = e.ports := rfl
@[simp] theorem Ev9.onSlot_ports (n : Nat) (f : StreamSlot → StreamSlot) (e : Ev9) : (e.onSlot n f).ports = e.ports := rfl
@[simp] theorem Ev9.onMember_hif (t : Nat) (f : Member → Member) (e : Ev9) : (e.onMember t f).hif = e.hif := by
  unfold Ev9.onMember; split <;> rfl
@[simp] theorem Ev9.onMember_power (t : Nat) (f : Member → Member) (e : Ev9) : (e.onMember t f).power = e.power := by
  unfold Ev9.onMember; split <;> rfl
@[simp] theorem Ev9.onRing_power (r : Nat) (f : Ring → Ring) (e : Ev9) : (e.onRing r f).power = e.power := rfl
@[simp] theorem Ev9.onSlot_power (n : Nat) (f : StreamSlot → StreamSlot) (e : Ev9) : (e.onSlot n f).power = e.power := rfl
@[simp] theorem Ev9.onMember_therm (t : Nat) (f : Member → Member) (e : Ev9) : (e.onMember t f).therm = e.therm := by
  unfold Ev9.onMember; split <;> rfl
@[simp] theorem Ev9.onRing_therm (r : Nat) (f : Ring → Ring) (e : Ev9) : (e.onRing r f).therm = e.therm := rfl
@[simp] theorem Ev9.onSlot_therm (n : Nat) (f : StreamSlot → StreamSlot) (e : Ev9) : (e.onSlot n f).therm = e.therm := rfl
@[simp] theorem Ev9.onMember_svc (t : Nat) (f : Member → Member) (e : Ev9) : (e.onMember t f).svc = e.svc := by
  unfold Ev9.onMember; split <;> rfl
@[simp] theorem Ev9.onRing_svc (r : Nat) (f : Ring → Ring) (e : Ev9) : (e.onRing r f).svc = e.svc := rfl
@[simp] theorem Ev9.onSlot_svc (n : Nat) (f : StreamSlot → StreamSlot) (e : Ev9) : (e.onSlot n f).svc = e.svc := rfl
@[simp] theorem Ev9.onMember_sessPf (t : Nat) (f : Member → Member) (e : Ev9) : (e.onMember t f).sessPf = e.sessPf := by
  unfold Ev9.onMember; split <;> rfl
@[simp] theorem Ev9.onRing_sessPf (r : Nat) (f : Ring → Ring) (e : Ev9) : (e.onRing r f).sessPf = e.sessPf := rfl
@[simp] theorem Ev9.onSlot_sessPf (n : Nat) (f : StreamSlot → StreamSlot) (e : Ev9) : (e.onSlot n f).sessPf = e.sessPf := rfl
@[simp] theorem Ev9.onMember_sessSmb (t : Nat) (f : Member → Member) (e : Ev9) : (e.onMember t f).sessSmb = e.sessSmb := by
  unfold Ev9.onMember; split <;> rfl
@[simp] theorem Ev9.onRing_sessSmb (r : Nat) (f : Ring → Ring) (e : Ev9) : (e.onRing r f).sessSmb = e.sessSmb := rfl
@[simp] theorem Ev9.onSlot_sessSmb (n : Nat) (f : StreamSlot → StreamSlot) (e : Ev9) : (e.onSlot n f).sessSmb = e.sessSmb := rfl
@[simp] theorem Ev9.onMember_smb0 (t : Nat) (f : Member → Member) (e : Ev9) : (e.onMember t f).smb0 = e.smb0 := by
  unfold Ev9.onMember; split <;> rfl
@[simp] theorem Ev9.onRing_smb0 (r : Nat) (f : Ring → Ring) (e : Ev9) : (e.onRing r f).smb0 = e.smb0 := rfl
@[simp] theorem Ev9.onSlot_smb0 (n : Nat) (f : StreamSlot → StreamSlot) (e : Ev9) : (e.onSlot n f).smb0 = e.smb0 := rfl
@[simp] theorem Ev9.onMember_smb1 (t : Nat) (f : Member → Member) (e : Ev9) : (e.onMember t f).smb1 = e.smb1 := by
  unfold Ev9.onMember; split <;> rfl
@[simp] theorem Ev9.onRing_smb1 (r : Nat) (f : Ring → Ring) (e : Ev9) : (e.onRing r f).smb1 = e.smb1 := rfl
@[simp] theorem Ev9.onSlot_smb1 (n : Nat) (f : StreamSlot → StreamSlot) (e : Ev9) : (e.onSlot n f).smb1 = e.smb1 := rfl
@[simp] theorem Ev9.onMember_dbg (t : Nat) (f : Member → Member) (e : Ev9) : (e.onMember t f).dbg = e.dbg := by
  unfold Ev9.onMember; split <;> rfl
@[simp] theorem Ev9.onRing_dbg (r : Nat) (f : Ring → Ring) (e : Ev9) : (e.onRing r f).dbg = e.dbg := rfl
@[simp] theorem Ev9.onSlot_dbg (n : Nat) (f : StreamSlot → StreamSlot) (e : Ev9) : (e.onSlot n f).dbg = e.dbg := rfl

/-! ## What the accessors read -/

theorem Ev9.onPart_part (p j : Nat) (f : Part → Part) (e : Ev9) :
    (e.onPart p f).part j = if j = p then f (e.part p) else e.part j := tget_tmod _ _ _ _ _
@[simp] theorem Ev9.onPart_part_same (p : Nat) (f : Part → Part) (e : Ev9) : (e.onPart p f).part p = f (e.part p) :=
  tget_tmod_same _ _ _ _
theorem Ev9.onPart_part_other {p j : Nat} (f : Part → Part) (e : Ev9) (h : j ≠ p) : (e.onPart p f).part j = e.part j :=
  tget_tmod_other _ _ _ h

theorem Ev9.onCore_core (c j : Nat) (f : Core → Core) (e : Ev9) :
    (e.onCore c f).core j = if j = c then f (e.core c) else e.core j := tget_tmod _ _ _ _ _
@[simp] theorem Ev9.onCore_core_same (c : Nat) (f : Core → Core) (e : Ev9) : (e.onCore c f).core c = f (e.core c) :=
  tget_tmod_same _ _ _ _
theorem Ev9.onCore_core_other {c j : Nat} (f : Core → Core) (e : Ev9) (h : j ≠ c) : (e.onCore c f).core j = e.core j :=
  tget_tmod_other _ _ _ h

theorem Ev9.onCluster_cluster (k j : Nat) (f : Cluster → Cluster) (e : Ev9) :
    (e.onCluster k f).cluster j = if j = k then f (e.cluster k) else e.cluster j := tget_tmod _ _ _ _ _
@[simp] theorem Ev9.onCluster_cluster_same (k : Nat) (f : Cluster → Cluster) (e : Ev9) : (e.onCluster k f).cluster k = f (e.cluster k) :=
  tget_tmod_same _ _ _ _
theorem Ev9.onCluster_cluster_other {k j : Nat} (f : Cluster → Cluster) (e : Ev9) (h : j ≠ k) : (e.onCluster k f).cluster j = e.cluster j :=
  tget_tmod_other _ _ _ h

theorem Ev9.onPort_port (n j : Nat) (f : Port → Port) (e : Ev9) :
    (e.onPort n f).port j = if j = n then f (e.port n) else e.port j := tget_tmod _ _ _ _ _
@[simp] theorem Ev9.onPort_port_same (n : Nat) (f : Port → Port) (e : Ev9) : (e.onPort n f).port n = f (e.port n) :=
  tget_tmod_same _ _ _ _
theorem Ev9.onPort_port_other {n j : Nat} (f : Port → Port) (e : Ev9) (h : j ≠ n) : (e.onPort n f).port j = e.port j :=
  tget_tmod_other _ _ _ h

theorem Ev9.onRing_ring (r j : Nat) (f : Ring → Ring) (e : Ev9) :
    (e.onRing r f).ring j = if j = r then f (e.ring r) else e.ring j := tget_tmod _ _ _ _ _
@[simp] theorem Ev9.onRing_ring_same (r : Nat) (f : Ring → Ring) (e : Ev9) : (e.onRing r f).ring r = f (e.ring r) :=
  tget_tmod_same _ _ _ _
theorem Ev9.onRing_ring_other {r j : Nat} (f : Ring → Ring) (e : Ev9) (h : j ≠ r) : (e.onRing r f).ring j = e.ring j :=
  tget_tmod_other _ _ _ h

theorem Ev9.onSlot_slot (n j : Nat) (f : StreamSlot → StreamSlot) (e : Ev9) :
    (e.onSlot n f).slot j = if j = n then f (e.slot n) else e.slot j := tget_tmod _ _ _ _ _
@[simp] theorem Ev9.onSlot_slot_same (n : Nat) (f : StreamSlot → StreamSlot) (e : Ev9) : (e.onSlot n f).slot n = f (e.slot n) :=
  tget_tmod_same _ _ _ _
theorem Ev9.onSlot_slot_other {n j : Nat} (f : StreamSlot → StreamSlot) (e : Ev9) (h : j ≠ n) : (e.onSlot n f).slot j = e.slot j :=
  tget_tmod_other _ _ _ h

@[simp] theorem Ev9.onPart_core_of (p : Nat) (f : Part → Part) (e : Ev9) (j : Nat) : (e.onPart p f).core j = e.core j := rfl
@[simp] theorem Ev9.onPart_cluster_of (p : Nat) (f : Part → Part) (e : Ev9) (j : Nat) : (e.onPart p f).cluster j = e.cluster j := rfl
@[simp] theorem Ev9.onPart_port_of (p : Nat) (f : Part → Part) (e : Ev9) (j : Nat) : (e.onPart p f).port j = e.port j := rfl
@[simp] theorem Ev9.onPart_ring_of (p : Nat) (f : Part → Part) (e : Ev9) (j : Nat) : (e.onPart p f).ring j = e.ring j := rfl
@[simp] theorem Ev9.onPart_slot_of (p : Nat) (f : Part → Part) (e : Ev9) (j : Nat) : (e.onPart p f).slot j = e.slot j := rfl
@[simp] theorem Ev9.onPart_member_of (p : Nat) (f : Part → Part) (e : Ev9) (j : Nat) : (e.onPart p f).member? j = e.member? j := rfl
@[simp] theorem Ev9.onPart_memberOf_of (p : Nat) (f : Part → Part) (e : Ev9) (j : Nat) : (e.onPart p f).memberOf j = e.memberOf j := rfl
@[simp] theorem Ev9.onPart_retired_of (p : Nat) (f : Part → Part) (e : Ev9) (j : Nat) : (e.onPart p f).retired j = e.retired j := rfl
@[simp] theorem Ev9.onCore_part_of (c : Nat) (f : Core → Core) (e : Ev9) (j : Nat) : (e.onCore c f).part j = e.part j := rfl
@[simp] theorem Ev9.onCore_cluster_of (c : Nat) (f : Core → Core) (e : Ev9) (j : Nat) : (e.onCore c f).cluster j = e.cluster j := rfl
@[simp] theorem Ev9.onCore_port_of (c : Nat) (f : Core → Core) (e : Ev9) (j : Nat) : (e.onCore c f).port j = e.port j := rfl
@[simp] theorem Ev9.onCore_ring_of (c : Nat) (f : Core → Core) (e : Ev9) (j : Nat) : (e.onCore c f).ring j = e.ring j := rfl
@[simp] theorem Ev9.onCore_slot_of (c : Nat) (f : Core → Core) (e : Ev9) (j : Nat) : (e.onCore c f).slot j = e.slot j := rfl
@[simp] theorem Ev9.onCore_member_of (c : Nat) (f : Core → Core) (e : Ev9) (j : Nat) : (e.onCore c f).member? j = e.member? j := rfl
@[simp] theorem Ev9.onCore_memberOf_of (c : Nat) (f : Core → Core) (e : Ev9) (j : Nat) : (e.onCore c f).memberOf j = e.memberOf j := rfl
@[simp] theorem Ev9.onCluster_part_of (k : Nat) (f : Cluster → Cluster) (e : Ev9) (j : Nat) : (e.onCluster k f).part j = e.part j := rfl
@[simp] theorem Ev9.onCluster_core_of (k : Nat) (f : Cluster → Cluster) (e : Ev9) (j : Nat) : (e.onCluster k f).core j = e.core j := rfl
@[simp] theorem Ev9.onCluster_port_of (k : Nat) (f : Cluster → Cluster) (e : Ev9) (j : Nat) : (e.onCluster k f).port j = e.port j := rfl
@[simp] theorem Ev9.onCluster_ring_of (k : Nat) (f : Cluster → Cluster) (e : Ev9) (j : Nat) : (e.onCluster k f).ring j = e.ring j := rfl
@[simp] theorem Ev9.onCluster_slot_of (k : Nat) (f : Cluster → Cluster) (e : Ev9) (j : Nat) : (e.onCluster k f).slot j = e.slot j := rfl
@[simp] theorem Ev9.onCluster_member_of (k : Nat) (f : Cluster → Cluster) (e : Ev9) (j : Nat) : (e.onCluster k f).member? j = e.member? j := rfl
@[simp] theorem Ev9.onCluster_memberOf_of (k : Nat) (f : Cluster → Cluster) (e : Ev9) (j : Nat) : (e.onCluster k f).memberOf j = e.memberOf j := rfl
@[simp] theorem Ev9.onCluster_retired_of (k : Nat) (f : Cluster → Cluster) (e : Ev9) (j : Nat) : (e.onCluster k f).retired j = e.retired j := rfl
@[simp] theorem Ev9.onPort_part_of (n : Nat) (f : Port → Port) (e : Ev9) (j : Nat) : (e.onPort n f).part j = e.part j := rfl
@[simp] theorem Ev9.onPort_core_of (n : Nat) (f : Port → Port) (e : Ev9) (j : Nat) : (e.onPort n f).core j = e.core j := rfl
@[simp] theorem Ev9.onPort_cluster_of (n : Nat) (f : Port → Port) (e : Ev9) (j : Nat) : (e.onPort n f).cluster j = e.cluster j := rfl
@[simp] theorem Ev9.onPort_ring_of (n : Nat) (f : Port → Port) (e : Ev9) (j : Nat) : (e.onPort n f).ring j = e.ring j := rfl
@[simp] theorem Ev9.onPort_slot_of (n : Nat) (f : Port → Port) (e : Ev9) (j : Nat) : (e.onPort n f).slot j = e.slot j := rfl
@[simp] theorem Ev9.onPort_member_of (n : Nat) (f : Port → Port) (e : Ev9) (j : Nat) : (e.onPort n f).member? j = e.member? j := rfl
@[simp] theorem Ev9.onPort_memberOf_of (n : Nat) (f : Port → Port) (e : Ev9) (j : Nat) : (e.onPort n f).memberOf j = e.memberOf j := rfl
@[simp] theorem Ev9.onPort_retired_of (n : Nat) (f : Port → Port) (e : Ev9) (j : Nat) : (e.onPort n f).retired j = e.retired j := rfl
@[simp] theorem Ev9.onHif_part_of (f : Hif → Hif) (e : Ev9) (j : Nat) : (e.onHif f).part j = e.part j := rfl
@[simp] theorem Ev9.onHif_core_of (f : Hif → Hif) (e : Ev9) (j : Nat) : (e.onHif f).core j = e.core j := rfl
@[simp] theorem Ev9.onHif_cluster_of (f : Hif → Hif) (e : Ev9) (j : Nat) : (e.onHif f).cluster j = e.cluster j := rfl
@[simp] theorem Ev9.onHif_port_of (f : Hif → Hif) (e : Ev9) (j : Nat) : (e.onHif f).port j = e.port j := rfl
@[simp] theorem Ev9.onHif_member_of (f : Hif → Hif) (e : Ev9) (j : Nat) : (e.onHif f).member? j = e.member? j := rfl
@[simp] theorem Ev9.onHif_memberOf_of (f : Hif → Hif) (e : Ev9) (j : Nat) : (e.onHif f).memberOf j = e.memberOf j := rfl
@[simp] theorem Ev9.onHif_retired_of (f : Hif → Hif) (e : Ev9) (j : Nat) : (e.onHif f).retired j = e.retired j := rfl
@[simp] theorem Ev9.onSvc_part_of (f : Svc → Svc) (e : Ev9) (j : Nat) : (e.onSvc f).part j = e.part j := rfl
@[simp] theorem Ev9.onSvc_core_of (f : Svc → Svc) (e : Ev9) (j : Nat) : (e.onSvc f).core j = e.core j := rfl
@[simp] theorem Ev9.onSvc_cluster_of (f : Svc → Svc) (e : Ev9) (j : Nat) : (e.onSvc f).cluster j = e.cluster j := rfl
@[simp] theorem Ev9.onSvc_port_of (f : Svc → Svc) (e : Ev9) (j : Nat) : (e.onSvc f).port j = e.port j := rfl
@[simp] theorem Ev9.onSvc_ring_of (f : Svc → Svc) (e : Ev9) (j : Nat) : (e.onSvc f).ring j = e.ring j := rfl
@[simp] theorem Ev9.onSvc_slot_of (f : Svc → Svc) (e : Ev9) (j : Nat) : (e.onSvc f).slot j = e.slot j := rfl
@[simp] theorem Ev9.onSvc_member_of (f : Svc → Svc) (e : Ev9) (j : Nat) : (e.onSvc f).member? j = e.member? j := rfl
@[simp] theorem Ev9.onSvc_memberOf_of (f : Svc → Svc) (e : Ev9) (j : Nat) : (e.onSvc f).memberOf j = e.memberOf j := rfl
@[simp] theorem Ev9.onSvc_retired_of (f : Svc → Svc) (e : Ev9) (j : Nat) : (e.onSvc f).retired j = e.retired j := rfl
@[simp] theorem Ev9.onMember_part_of (t : Nat) (f : Member → Member) (e : Ev9) (j : Nat) : (e.onMember t f).part j = e.part j := by simp [Ev9.part]
@[simp] theorem Ev9.onMember_core_of (t : Nat) (f : Member → Member) (e : Ev9) (j : Nat) : (e.onMember t f).core j = e.core j := by simp [Ev9.core]
@[simp] theorem Ev9.onMember_cluster_of (t : Nat) (f : Member → Member) (e : Ev9) (j : Nat) : (e.onMember t f).cluster j = e.cluster j := by simp [Ev9.cluster]
@[simp] theorem Ev9.onMember_port_of (t : Nat) (f : Member → Member) (e : Ev9) (j : Nat) : (e.onMember t f).port j = e.port j := by simp [Ev9.port]
@[simp] theorem Ev9.onMember_ring_of (t : Nat) (f : Member → Member) (e : Ev9) (j : Nat) : (e.onMember t f).ring j = e.ring j := by simp [Ev9.ring]
@[simp] theorem Ev9.onMember_slot_of (t : Nat) (f : Member → Member) (e : Ev9) (j : Nat) : (e.onMember t f).slot j = e.slot j := by simp [Ev9.slot]
@[simp] theorem Ev9.onMember_retired_of (t : Nat) (f : Member → Member) (e : Ev9) (j : Nat) : (e.onMember t f).retired j = e.retired j := by simp [Ev9.retired, Ev9.core]
@[simp] theorem Ev9.onRing_part_of (r : Nat) (f : Ring → Ring) (e : Ev9) (j : Nat) : (e.onRing r f).part j = e.part j := rfl
@[simp] theorem Ev9.onRing_core_of (r : Nat) (f : Ring → Ring) (e : Ev9) (j : Nat) : (e.onRing r f).core j = e.core j := rfl
@[simp] theorem Ev9.onRing_cluster_of (r : Nat) (f : Ring → Ring) (e : Ev9) (j : Nat) : (e.onRing r f).cluster j = e.cluster j := rfl
@[simp] theorem Ev9.onRing_port_of (r : Nat) (f : Ring → Ring) (e : Ev9) (j : Nat) : (e.onRing r f).port j = e.port j := rfl
@[simp] theorem Ev9.onRing_slot_of (r : Nat) (f : Ring → Ring) (e : Ev9) (j : Nat) : (e.onRing r f).slot j = e.slot j := rfl
@[simp] theorem Ev9.onRing_member_of (r : Nat) (f : Ring → Ring) (e : Ev9) (j : Nat) : (e.onRing r f).member? j = e.member? j := rfl
@[simp] theorem Ev9.onRing_memberOf_of (r : Nat) (f : Ring → Ring) (e : Ev9) (j : Nat) : (e.onRing r f).memberOf j = e.memberOf j := rfl
@[simp] theorem Ev9.onRing_retired_of (r : Nat) (f : Ring → Ring) (e : Ev9) (j : Nat) : (e.onRing r f).retired j = e.retired j := rfl
@[simp] theorem Ev9.onSlot_part_of (n : Nat) (f : StreamSlot → StreamSlot) (e : Ev9) (j : Nat) : (e.onSlot n f).part j = e.part j := rfl
@[simp] theorem Ev9.onSlot_core_of (n : Nat) (f : StreamSlot → StreamSlot) (e : Ev9) (j : Nat) : (e.onSlot n f).core j = e.core j := rfl
@[simp] theorem Ev9.onSlot_cluster_of (n : Nat) (f : StreamSlot → StreamSlot) (e : Ev9) (j : Nat) : (e.onSlot n f).cluster j = e.cluster j := rfl
@[simp] theorem Ev9.onSlot_port_of (n : Nat) (f : StreamSlot → StreamSlot) (e : Ev9) (j : Nat) : (e.onSlot n f).port j = e.port j := rfl
@[simp] theorem Ev9.onSlot_ring_of (n : Nat) (f : StreamSlot → StreamSlot) (e : Ev9) (j : Nat) : (e.onSlot n f).ring j = e.ring j := rfl
@[simp] theorem Ev9.onSlot_member_of (n : Nat) (f : StreamSlot → StreamSlot) (e : Ev9) (j : Nat) : (e.onSlot n f).member? j = e.member? j := rfl
@[simp] theorem Ev9.onSlot_memberOf_of (n : Nat) (f : StreamSlot → StreamSlot) (e : Ev9) (j : Nat) : (e.onSlot n f).memberOf j = e.memberOf j := rfl
@[simp] theorem Ev9.onSlot_retired_of (n : Nat) (f : StreamSlot → StreamSlot) (e : Ev9) (j : Nat) : (e.onSlot n f).retired j = e.retired j := rfl
@[simp] theorem Ev9.onSessPf_part_of (f : Session → Session) (e : Ev9) (j : Nat) : (e.onSessPf f).part j = e.part j := rfl
@[simp] theorem Ev9.onSessPf_core_of (f : Session → Session) (e : Ev9) (j : Nat) : (e.onSessPf f).core j = e.core j := rfl
@[simp] theorem Ev9.onSessPf_cluster_of (f : Session → Session) (e : Ev9) (j : Nat) : (e.onSessPf f).cluster j = e.cluster j := rfl
@[simp] theorem Ev9.onSessPf_port_of (f : Session → Session) (e : Ev9) (j : Nat) : (e.onSessPf f).port j = e.port j := rfl
@[simp] theorem Ev9.onSessPf_ring_of (f : Session → Session) (e : Ev9) (j : Nat) : (e.onSessPf f).ring j = e.ring j := rfl
@[simp] theorem Ev9.onSessPf_slot_of (f : Session → Session) (e : Ev9) (j : Nat) : (e.onSessPf f).slot j = e.slot j := rfl
@[simp] theorem Ev9.onSessPf_member_of (f : Session → Session) (e : Ev9) (j : Nat) : (e.onSessPf f).member? j = e.member? j := rfl
@[simp] theorem Ev9.onSessPf_memberOf_of (f : Session → Session) (e : Ev9) (j : Nat) : (e.onSessPf f).memberOf j = e.memberOf j := rfl
@[simp] theorem Ev9.onSessPf_retired_of (f : Session → Session) (e : Ev9) (j : Nat) : (e.onSessPf f).retired j = e.retired j := rfl
@[simp] theorem Ev9.onSessSmb_part_of (f : Session → Session) (e : Ev9) (j : Nat) : (e.onSessSmb f).part j = e.part j := rfl
@[simp] theorem Ev9.onSessSmb_core_of (f : Session → Session) (e : Ev9) (j : Nat) : (e.onSessSmb f).core j = e.core j := rfl
@[simp] theorem Ev9.onSessSmb_cluster_of (f : Session → Session) (e : Ev9) (j : Nat) : (e.onSessSmb f).cluster j = e.cluster j := rfl
@[simp] theorem Ev9.onSessSmb_port_of (f : Session → Session) (e : Ev9) (j : Nat) : (e.onSessSmb f).port j = e.port j := rfl
@[simp] theorem Ev9.onSessSmb_ring_of (f : Session → Session) (e : Ev9) (j : Nat) : (e.onSessSmb f).ring j = e.ring j := rfl
@[simp] theorem Ev9.onSessSmb_slot_of (f : Session → Session) (e : Ev9) (j : Nat) : (e.onSessSmb f).slot j = e.slot j := rfl
@[simp] theorem Ev9.onSessSmb_member_of (f : Session → Session) (e : Ev9) (j : Nat) : (e.onSessSmb f).member? j = e.member? j := rfl
@[simp] theorem Ev9.onSessSmb_memberOf_of (f : Session → Session) (e : Ev9) (j : Nat) : (e.onSessSmb f).memberOf j = e.memberOf j := rfl
@[simp] theorem Ev9.onSessSmb_retired_of (f : Session → Session) (e : Ev9) (j : Nat) : (e.onSessSmb f).retired j = e.retired j := rfl

theorem Ev9.onMember_member (t j : Nat) (f : Member → Member) (e : Ev9) :
    (e.onMember t f).member? j = if j = t then (e.member? t).map f else e.member? j := by
  unfold Ev9.onMember Ev9.member?
  split
  · rename_i h; by_cases hj : j = t <;> simp [hj, h]
  · rename_i m h; simp only [tfind_tins]; by_cases hj : j = t <;> simp [hj, h]
@[simp] theorem Ev9.onMember_member_same (t : Nat) (f : Member → Member) (e : Ev9) : (e.onMember t f).member? t = (e.member? t).map f := by
  simp [Ev9.onMember_member]
theorem Ev9.onMember_member_other {t j : Nat} (f : Member → Member) (e : Ev9) (h : j ≠ t) : (e.onMember t f).member? j = e.member? j := by
  simp [Ev9.onMember_member, h]

/-! ## Threads and queues of a core -/

@[simp] theorem Core.onThread_threads (t : Nat) (f : Thread → Thread) (x : Core) : (x.onThread t f).threads = tmod {} x.threads t f := rfl
@[simp] theorem Core.onThread_handles (t : Nat) (f : Thread → Thread) (x : Core) : (x.onThread t f).handles = x.handles := rfl
@[simp] theorem Core.onThread_loops (t : Nat) (f : Thread → Thread) (x : Core) : (x.onThread t f).loops = x.loops := rfl
@[simp] theorem Core.onThread_acorns (t : Nat) (f : Thread → Thread) (x : Core) : (x.onThread t f).acorns = x.acorns := rfl
@[simp] theorem Core.onThread_timers (t : Nat) (f : Thread → Thread) (x : Core) : (x.onThread t f).timers = x.timers := rfl
@[simp] theorem Core.onThread_acornOverflow (t : Nat) (f : Thread → Thread) (x : Core) : (x.onThread t f).acornOverflow = x.acornOverflow := rfl
@[simp] theorem Core.onThread_bounds (t : Nat) (f : Thread → Thread) (x : Core) : (x.onThread t f).bounds = x.bounds := rfl
@[simp] theorem Core.onThread_waitstall (t : Nat) (f : Thread → Thread) (x : Core) : (x.onThread t f).waitstall = x.waitstall := rfl
@[simp] theorem Core.onThread_waitlock (t : Nat) (f : Thread → Thread) (x : Core) : (x.onThread t f).waitlock = x.waitlock := rfl
@[simp] theorem Core.onThread_lockBeats (t : Nat) (f : Thread → Thread) (x : Core) : (x.onThread t f).lockBeats = x.lockBeats := rfl
@[simp] theorem Core.onThread_waitLimit (t : Nat) (f : Thread → Thread) (x : Core) : (x.onThread t f).waitLimit = x.waitLimit := rfl
@[simp] theorem Core.onThread_lastIssuer (t : Nat) (f : Thread → Thread) (x : Core) : (x.onThread t f).lastIssuer = x.lastIssuer := rfl
@[simp] theorem Core.onThread_portBusy (t : Nat) (f : Thread → Thread) (x : Core) : (x.onThread t f).portBusy = x.portBusy := rfl
@[simp] theorem Core.onThread_nextId (t : Nat) (f : Thread → Thread) (x : Core) : (x.onThread t f).nextId = x.nextId := rfl
@[simp] theorem Core.onThread_qMatrix (t : Nat) (f : Thread → Thread) (x : Core) : (x.onThread t f).qMatrix = x.qMatrix := rfl
@[simp] theorem Core.onThread_qVector (t : Nat) (f : Thread → Thread) (x : Core) : (x.onThread t f).qVector = x.qVector := rfl
@[simp] theorem Core.onThread_qMover (t : Nat) (f : Thread → Thread) (x : Core) : (x.onThread t f).qMover = x.qMover := rfl
@[simp] theorem Core.onThread_halfA (t : Nat) (f : Thread → Thread) (x : Core) : (x.onThread t f).halfA = x.halfA := rfl
@[simp] theorem Core.onThread_halfB (t : Nat) (f : Thread → Thread) (x : Core) : (x.onThread t f).halfB = x.halfB := rfl
@[simp] theorem Core.onThread_bufs (t : Nat) (f : Thread → Thread) (x : Core) : (x.onThread t f).bufs = x.bufs := rfl
@[simp] theorem Core.onThread_sendq (t : Nat) (f : Thread → Thread) (x : Core) : (x.onThread t f).sendq = x.sendq := rfl
@[simp] theorem Core.onThread_inbox (t : Nat) (f : Thread → Thread) (x : Core) : (x.onThread t f).inbox = x.inbox := rfl
@[simp] theorem Core.onThread_sendCarry (t : Nat) (f : Thread → Thread) (x : Core) : (x.onThread t f).sendCarry = x.sendCarry := rfl
@[simp] theorem Core.onThread_rx (t : Nat) (f : Thread → Thread) (x : Core) : (x.onThread t f).rx = x.rx := rfl
@[simp] theorem Core.onThread_vec (t : Nat) (f : Thread → Thread) (x : Core) : (x.onThread t f).vec = x.vec := rfl
@[simp] theorem Core.onThread_abft (t : Nat) (f : Thread → Thread) (x : Core) : (x.onThread t f).abft = x.abft := rfl
@[simp] theorem Core.onThread_snaps (t : Nat) (f : Thread → Thread) (x : Core) : (x.onThread t f).snaps = x.snaps := rfl
@[simp] theorem Core.onThread_sealValid (t : Nat) (f : Thread → Thread) (x : Core) : (x.onThread t f).sealValid = x.sealValid := rfl
@[simp] theorem Core.onThread_sealBase (t : Nat) (f : Thread → Thread) (x : Core) : (x.onThread t f).sealBase = x.sealBase := rfl
@[simp] theorem Core.onThread_sealLimit (t : Nat) (f : Thread → Thread) (x : Core) : (x.onThread t f).sealLimit = x.sealLimit := rfl
@[simp] theorem Core.onThread_refreshWait (t : Nat) (f : Thread → Thread) (x : Core) : (x.onThread t f).refreshWait = x.refreshWait := rfl
@[simp] theorem Core.onThread_window (t : Nat) (f : Thread → Thread) (x : Core) : (x.onThread t f).window = x.window := rfl
@[simp] theorem Core.onThread_windowLeft (t : Nat) (f : Thread → Thread) (x : Core) : (x.onThread t f).windowLeft = x.windowLeft := rfl
@[simp] theorem Core.onThread_retired (t : Nat) (f : Thread → Thread) (x : Core) : (x.onThread t f).retired = x.retired := rfl

theorem Core.onThread_thread (t j : Nat) (f : Thread → Thread) (x : Core) :
    (x.onThread t f).thread j = if j = t then f (x.thread t) else x.thread j := tget_tmod _ _ _ _ _
@[simp] theorem Core.onThread_thread_same (t : Nat) (f : Thread → Thread) (x : Core) : (x.onThread t f).thread t = f (x.thread t) :=
  tget_tmod_same _ _ _ _
theorem Core.onThread_thread_other {t j : Nat} (f : Thread → Thread) (x : Core) (h : j ≠ t) : (x.onThread t f).thread j = x.thread j :=
  tget_tmod_other _ _ _ h

@[simp] theorem Thread.onRegs_regs (f : ThreadRegs → ThreadRegs) (th : Thread) : (th.onRegs f).regs = f th.regs := rfl
@[simp] theorem Thread.onRegs_stall (f : ThreadRegs → ThreadRegs) (th : Thread) : (th.onRegs f).stall = th.stall := rfl
@[simp] theorem Thread.onRegs_sync (f : ThreadRegs → ThreadRegs) (th : Thread) : (th.onRegs f).sync = th.sync := rfl
@[simp] theorem Thread.onRegs_waitBeats (f : ThreadRegs → ThreadRegs) (th : Thread) : (th.onRegs f).waitBeats = th.waitBeats := rfl
@[simp] theorem Thread.onRegs_code (f : ThreadRegs → ThreadRegs) (th : Thread) : (th.onRegs f).code = th.code := rfl
@[simp] theorem Thread.onRegs_codeLen (f : ThreadRegs → ThreadRegs) (th : Thread) : (th.onRegs f).codeLen = th.codeLen := rfl

@[simp] theorem Core.onQueue_threads (e : Engine) (f : List QEntry → List QEntry) (x : Core) : (x.onQueue e f).threads = x.threads := by
  cases e <;> rfl
@[simp] theorem Core.onQueue_handles (e : Engine) (f : List QEntry → List QEntry) (x : Core) : (x.onQueue e f).handles = x.handles := by
  cases e <;> rfl
@[simp] theorem Core.onQueue_loops (e : Engine) (f : List QEntry → List QEntry) (x : Core) : (x.onQueue e f).loops = x.loops := by
  cases e <;> rfl
@[simp] theorem Core.onQueue_acorns (e : Engine) (f : List QEntry → List QEntry) (x : Core) : (x.onQueue e f).acorns = x.acorns := by
  cases e <;> rfl
@[simp] theorem Core.onQueue_timers (e : Engine) (f : List QEntry → List QEntry) (x : Core) : (x.onQueue e f).timers = x.timers := by
  cases e <;> rfl
@[simp] theorem Core.onQueue_acornOverflow (e : Engine) (f : List QEntry → List QEntry) (x : Core) : (x.onQueue e f).acornOverflow = x.acornOverflow := by
  cases e <;> rfl
@[simp] theorem Core.onQueue_bounds (e : Engine) (f : List QEntry → List QEntry) (x : Core) : (x.onQueue e f).bounds = x.bounds := by
  cases e <;> rfl
@[simp] theorem Core.onQueue_waitstall (e : Engine) (f : List QEntry → List QEntry) (x : Core) : (x.onQueue e f).waitstall = x.waitstall := by
  cases e <;> rfl
@[simp] theorem Core.onQueue_waitlock (e : Engine) (f : List QEntry → List QEntry) (x : Core) : (x.onQueue e f).waitlock = x.waitlock := by
  cases e <;> rfl
@[simp] theorem Core.onQueue_lockBeats (e : Engine) (f : List QEntry → List QEntry) (x : Core) : (x.onQueue e f).lockBeats = x.lockBeats := by
  cases e <;> rfl
@[simp] theorem Core.onQueue_waitLimit (e : Engine) (f : List QEntry → List QEntry) (x : Core) : (x.onQueue e f).waitLimit = x.waitLimit := by
  cases e <;> rfl
@[simp] theorem Core.onQueue_lastIssuer (e : Engine) (f : List QEntry → List QEntry) (x : Core) : (x.onQueue e f).lastIssuer = x.lastIssuer := by
  cases e <;> rfl
@[simp] theorem Core.onQueue_portBusy (e : Engine) (f : List QEntry → List QEntry) (x : Core) : (x.onQueue e f).portBusy = x.portBusy := by
  cases e <;> rfl
@[simp] theorem Core.onQueue_nextId (e : Engine) (f : List QEntry → List QEntry) (x : Core) : (x.onQueue e f).nextId = x.nextId := by
  cases e <;> rfl
@[simp] theorem Core.onQueue_halfA (e : Engine) (f : List QEntry → List QEntry) (x : Core) : (x.onQueue e f).halfA = x.halfA := by
  cases e <;> rfl
@[simp] theorem Core.onQueue_halfB (e : Engine) (f : List QEntry → List QEntry) (x : Core) : (x.onQueue e f).halfB = x.halfB := by
  cases e <;> rfl
@[simp] theorem Core.onQueue_bufs (e : Engine) (f : List QEntry → List QEntry) (x : Core) : (x.onQueue e f).bufs = x.bufs := by
  cases e <;> rfl
@[simp] theorem Core.onQueue_sendq (e : Engine) (f : List QEntry → List QEntry) (x : Core) : (x.onQueue e f).sendq = x.sendq := by
  cases e <;> rfl
@[simp] theorem Core.onQueue_inbox (e : Engine) (f : List QEntry → List QEntry) (x : Core) : (x.onQueue e f).inbox = x.inbox := by
  cases e <;> rfl
@[simp] theorem Core.onQueue_sendCarry (e : Engine) (f : List QEntry → List QEntry) (x : Core) : (x.onQueue e f).sendCarry = x.sendCarry := by
  cases e <;> rfl
@[simp] theorem Core.onQueue_rx (e : Engine) (f : List QEntry → List QEntry) (x : Core) : (x.onQueue e f).rx = x.rx := by
  cases e <;> rfl
@[simp] theorem Core.onQueue_vec (e : Engine) (f : List QEntry → List QEntry) (x : Core) : (x.onQueue e f).vec = x.vec := by
  cases e <;> rfl
@[simp] theorem Core.onQueue_abft (e : Engine) (f : List QEntry → List QEntry) (x : Core) : (x.onQueue e f).abft = x.abft := by
  cases e <;> rfl
@[simp] theorem Core.onQueue_snaps (e : Engine) (f : List QEntry → List QEntry) (x : Core) : (x.onQueue e f).snaps = x.snaps := by
  cases e <;> rfl
@[simp] theorem Core.onQueue_sealValid (e : Engine) (f : List QEntry → List QEntry) (x : Core) : (x.onQueue e f).sealValid = x.sealValid := by
  cases e <;> rfl
@[simp] theorem Core.onQueue_sealBase (e : Engine) (f : List QEntry → List QEntry) (x : Core) : (x.onQueue e f).sealBase = x.sealBase := by
  cases e <;> rfl
@[simp] theorem Core.onQueue_sealLimit (e : Engine) (f : List QEntry → List QEntry) (x : Core) : (x.onQueue e f).sealLimit = x.sealLimit := by
  cases e <;> rfl
@[simp] theorem Core.onQueue_refreshWait (e : Engine) (f : List QEntry → List QEntry) (x : Core) : (x.onQueue e f).refreshWait = x.refreshWait := by
  cases e <;> rfl
@[simp] theorem Core.onQueue_window (e : Engine) (f : List QEntry → List QEntry) (x : Core) : (x.onQueue e f).window = x.window := by
  cases e <;> rfl
@[simp] theorem Core.onQueue_windowLeft (e : Engine) (f : List QEntry → List QEntry) (x : Core) : (x.onQueue e f).windowLeft = x.windowLeft := by
  cases e <;> rfl
@[simp] theorem Core.onQueue_retired (e : Engine) (f : List QEntry → List QEntry) (x : Core) : (x.onQueue e f).retired = x.retired := by
  cases e <;> rfl
@[simp] theorem Core.onQueue_queue_same (e : Engine) (f : List QEntry → List QEntry) (x : Core) : (x.onQueue e f).queue e = f (x.queue e) := by
  cases e <;> rfl
theorem Core.onQueue_queue_other {e k : Engine} (f : List QEntry → List QEntry) (x : Core) (h : k ≠ e) : (x.onQueue e f).queue k = x.queue k := by
  cases e <;> cases k <;> first | rfl | exact absurd rfl h

@[simp] theorem Core.onHalf_threads (h : Half2) (f : AccHalf → AccHalf) (x : Core) : (x.onHalf h f).threads = x.threads := by
  cases h <;> rfl
@[simp] theorem Core.onHalf_handles (h : Half2) (f : AccHalf → AccHalf) (x : Core) : (x.onHalf h f).handles = x.handles := by
  cases h <;> rfl
@[simp] theorem Core.onHalf_loops (h : Half2) (f : AccHalf → AccHalf) (x : Core) : (x.onHalf h f).loops = x.loops := by
  cases h <;> rfl
@[simp] theorem Core.onHalf_acorns (h : Half2) (f : AccHalf → AccHalf) (x : Core) : (x.onHalf h f).acorns = x.acorns := by
  cases h <;> rfl
@[simp] theorem Core.onHalf_timers (h : Half2) (f : AccHalf → AccHalf) (x : Core) : (x.onHalf h f).timers = x.timers := by
  cases h <;> rfl
@[simp] theorem Core.onHalf_acornOverflow (h : Half2) (f : AccHalf → AccHalf) (x : Core) : (x.onHalf h f).acornOverflow = x.acornOverflow := by
  cases h <;> rfl
@[simp] theorem Core.onHalf_bounds (h : Half2) (f : AccHalf → AccHalf) (x : Core) : (x.onHalf h f).bounds = x.bounds := by
  cases h <;> rfl
@[simp] theorem Core.onHalf_waitstall (h : Half2) (f : AccHalf → AccHalf) (x : Core) : (x.onHalf h f).waitstall = x.waitstall := by
  cases h <;> rfl
@[simp] theorem Core.onHalf_waitlock (h : Half2) (f : AccHalf → AccHalf) (x : Core) : (x.onHalf h f).waitlock = x.waitlock := by
  cases h <;> rfl
@[simp] theorem Core.onHalf_lockBeats (h : Half2) (f : AccHalf → AccHalf) (x : Core) : (x.onHalf h f).lockBeats = x.lockBeats := by
  cases h <;> rfl
@[simp] theorem Core.onHalf_waitLimit (h : Half2) (f : AccHalf → AccHalf) (x : Core) : (x.onHalf h f).waitLimit = x.waitLimit := by
  cases h <;> rfl
@[simp] theorem Core.onHalf_lastIssuer (h : Half2) (f : AccHalf → AccHalf) (x : Core) : (x.onHalf h f).lastIssuer = x.lastIssuer := by
  cases h <;> rfl
@[simp] theorem Core.onHalf_portBusy (h : Half2) (f : AccHalf → AccHalf) (x : Core) : (x.onHalf h f).portBusy = x.portBusy := by
  cases h <;> rfl
@[simp] theorem Core.onHalf_nextId (h : Half2) (f : AccHalf → AccHalf) (x : Core) : (x.onHalf h f).nextId = x.nextId := by
  cases h <;> rfl
@[simp] theorem Core.onHalf_qMatrix (h : Half2) (f : AccHalf → AccHalf) (x : Core) : (x.onHalf h f).qMatrix = x.qMatrix := by
  cases h <;> rfl
@[simp] theorem Core.onHalf_qVector (h : Half2) (f : AccHalf → AccHalf) (x : Core) : (x.onHalf h f).qVector = x.qVector := by
  cases h <;> rfl
@[simp] theorem Core.onHalf_qMover (h : Half2) (f : AccHalf → AccHalf) (x : Core) : (x.onHalf h f).qMover = x.qMover := by
  cases h <;> rfl
@[simp] theorem Core.onHalf_bufs (h : Half2) (f : AccHalf → AccHalf) (x : Core) : (x.onHalf h f).bufs = x.bufs := by
  cases h <;> rfl
@[simp] theorem Core.onHalf_sendq (h : Half2) (f : AccHalf → AccHalf) (x : Core) : (x.onHalf h f).sendq = x.sendq := by
  cases h <;> rfl
@[simp] theorem Core.onHalf_inbox (h : Half2) (f : AccHalf → AccHalf) (x : Core) : (x.onHalf h f).inbox = x.inbox := by
  cases h <;> rfl
@[simp] theorem Core.onHalf_sendCarry (h : Half2) (f : AccHalf → AccHalf) (x : Core) : (x.onHalf h f).sendCarry = x.sendCarry := by
  cases h <;> rfl
@[simp] theorem Core.onHalf_rx (h : Half2) (f : AccHalf → AccHalf) (x : Core) : (x.onHalf h f).rx = x.rx := by
  cases h <;> rfl
@[simp] theorem Core.onHalf_vec (h : Half2) (f : AccHalf → AccHalf) (x : Core) : (x.onHalf h f).vec = x.vec := by
  cases h <;> rfl
@[simp] theorem Core.onHalf_abft (h : Half2) (f : AccHalf → AccHalf) (x : Core) : (x.onHalf h f).abft = x.abft := by
  cases h <;> rfl
@[simp] theorem Core.onHalf_snaps (h : Half2) (f : AccHalf → AccHalf) (x : Core) : (x.onHalf h f).snaps = x.snaps := by
  cases h <;> rfl
@[simp] theorem Core.onHalf_sealValid (h : Half2) (f : AccHalf → AccHalf) (x : Core) : (x.onHalf h f).sealValid = x.sealValid := by
  cases h <;> rfl
@[simp] theorem Core.onHalf_sealBase (h : Half2) (f : AccHalf → AccHalf) (x : Core) : (x.onHalf h f).sealBase = x.sealBase := by
  cases h <;> rfl
@[simp] theorem Core.onHalf_sealLimit (h : Half2) (f : AccHalf → AccHalf) (x : Core) : (x.onHalf h f).sealLimit = x.sealLimit := by
  cases h <;> rfl
@[simp] theorem Core.onHalf_refreshWait (h : Half2) (f : AccHalf → AccHalf) (x : Core) : (x.onHalf h f).refreshWait = x.refreshWait := by
  cases h <;> rfl
@[simp] theorem Core.onHalf_window (h : Half2) (f : AccHalf → AccHalf) (x : Core) : (x.onHalf h f).window = x.window := by
  cases h <;> rfl
@[simp] theorem Core.onHalf_windowLeft (h : Half2) (f : AccHalf → AccHalf) (x : Core) : (x.onHalf h f).windowLeft = x.windowLeft := by
  cases h <;> rfl
@[simp] theorem Core.onHalf_retired (h : Half2) (f : AccHalf → AccHalf) (x : Core) : (x.onHalf h f).retired = x.retired := by
  cases h <;> rfl
@[simp] theorem Core.onHalf_half_same (h : Half2) (f : AccHalf → AccHalf) (x : Core) : (x.onHalf h f).half h = f (x.half h) := by
  cases h <;> rfl
theorem Core.onHalf_half_other {h k : Half2} (f : AccHalf → AccHalf) (x : Core) (n : k ≠ h) : (x.onHalf h f).half k = x.half k := by
  cases h <;> cases k <;> first | rfl | exact absurd rfl n

/-! ## Slot channels and downstream ports of the NW8 -/

@[simp] theorem Nw8.onChan_running (n : Nat) (f : TrayCh → TrayCh) (w : Nw8) : (w.onChan n f).running = w.running := rfl
@[simp] theorem Nw8.onDown_running (n : Nat) (f : TwoWire → TwoWire) (w : Nw8) : (w.onDown n f).running = w.running := rfl
@[simp] theorem Nw8.onChan_hold (n : Nat) (f : TrayCh → TrayCh) (w : Nw8) : (w.onChan n f).hold = w.hold := rfl
@[simp] theorem Nw8.onDown_hold (n : Nat) (f : TwoWire → TwoWire) (w : Nw8) : (w.onDown n f).hold = w.hold := rfl
@[simp] theorem Nw8.onChan_busMv (n : Nat) (f : TrayCh → TrayCh) (w : Nw8) : (w.onChan n f).busMv = w.busMv := rfl
@[simp] theorem Nw8.onDown_busMv (n : Nat) (f : TwoWire → TwoWire) (w : Nw8) : (w.onDown n f).busMv = w.busMv := rfl
@[simp] theorem Nw8.onChan_feedReversed (n : Nat) (f : TrayCh → TrayCh) (w : Nw8) : (w.onChan n f).feedReversed = w.feedReversed := rfl
@[simp] theorem Nw8.onDown_feedReversed (n : Nat) (f : TwoWire → TwoWire) (w : Nw8) : (w.onDown n f).feedReversed = w.feedReversed := rfl
@[simp] theorem Nw8.onChan_chans (n : Nat) (f : TrayCh → TrayCh) (w : Nw8) : (w.onChan n f).chans = tmod {} w.chans n f := rfl
@[simp] theorem Nw8.onDown_chans (n : Nat) (f : TwoWire → TwoWire) (w : Nw8) : (w.onDown n f).chans = w.chans := rfl
@[simp] theorem Nw8.onChan_lamps (n : Nat) (f : TrayCh → TrayCh) (w : Nw8) : (w.onChan n f).lamps = w.lamps := rfl
@[simp] theorem Nw8.onDown_lamps (n : Nat) (f : TwoWire → TwoWire) (w : Nw8) : (w.onDown n f).lamps = w.lamps := rfl
@[simp] theorem Nw8.onChan_locates (n : Nat) (f : TrayCh → TrayCh) (w : Nw8) : (w.onChan n f).locates = w.locates := rfl
@[simp] theorem Nw8.onDown_locates (n : Nat) (f : TwoWire → TwoWire) (w : Nw8) : (w.onDown n f).locates = w.locates := rfl
@[simp] theorem Nw8.onChan_locTimed (n : Nat) (f : TrayCh → TrayCh) (w : Nw8) : (w.onChan n f).locTimed = w.locTimed := rfl
@[simp] theorem Nw8.onDown_locTimed (n : Nat) (f : TwoWire → TwoWire) (w : Nw8) : (w.onDown n f).locTimed = w.locTimed := rfl
@[simp] theorem Nw8.onChan_cool (n : Nat) (f : TrayCh → TrayCh) (w : Nw8) : (w.onChan n f).cool = w.cool := rfl
@[simp] theorem Nw8.onDown_cool (n : Nat) (f : TwoWire → TwoWire) (w : Nw8) : (w.onDown n f).cool = w.cool := rfl
@[simp] theorem Nw8.onChan_fans (n : Nat) (f : TrayCh → TrayCh) (w : Nw8) : (w.onChan n f).fans = w.fans := rfl
@[simp] theorem Nw8.onDown_fans (n : Nat) (f : TwoWire → TwoWire) (w : Nw8) : (w.onDown n f).fans = w.fans := rfl
@[simp] theorem Nw8.onChan_budget (n : Nat) (f : TrayCh → TrayCh) (w : Nw8) : (w.onChan n f).budget = w.budget := rfl
@[simp] theorem Nw8.onDown_budget (n : Nat) (f : TwoWire → TwoWire) (w : Nw8) : (w.onDown n f).budget = w.budget := rfl
@[simp] theorem Nw8.onChan_overhead (n : Nat) (f : TrayCh → TrayCh) (w : Nw8) : (w.onChan n f).overhead = w.overhead := rfl
@[simp] theorem Nw8.onDown_overhead (n : Nat) (f : TwoWire → TwoWire) (w : Nw8) : (w.onDown n f).overhead = w.overhead := rfl
@[simp] theorem Nw8.onChan_budgetReceived (n : Nat) (f : TrayCh → TrayCh) (w : Nw8) : (w.onChan n f).budgetReceived = w.budgetReceived := rfl
@[simp] theorem Nw8.onDown_budgetReceived (n : Nat) (f : TwoWire → TwoWire) (w : Nw8) : (w.onDown n f).budgetReceived = w.budgetReceived := rfl
@[simp] theorem Nw8.onChan_sessHost (n : Nat) (f : TrayCh → TrayCh) (w : Nw8) : (w.onChan n f).sessHost = w.sessHost := rfl
@[simp] theorem Nw8.onDown_sessHost (n : Nat) (f : TwoWire → TwoWire) (w : Nw8) : (w.onDown n f).sessHost = w.sessHost := rfl
@[simp] theorem Nw8.onChan_sessRack (n : Nat) (f : TrayCh → TrayCh) (w : Nw8) : (w.onChan n f).sessRack = w.sessRack := rfl
@[simp] theorem Nw8.onDown_sessRack (n : Nat) (f : TwoWire → TwoWire) (w : Nw8) : (w.onDown n f).sessRack = w.sessRack := rfl
@[simp] theorem Nw8.onChan_host (n : Nat) (f : TrayCh → TrayCh) (w : Nw8) : (w.onChan n f).host = w.host := rfl
@[simp] theorem Nw8.onDown_host (n : Nat) (f : TwoWire → TwoWire) (w : Nw8) : (w.onDown n f).host = w.host := rfl
@[simp] theorem Nw8.onChan_rackPort (n : Nat) (f : TrayCh → TrayCh) (w : Nw8) : (w.onChan n f).rackPort = w.rackPort := rfl
@[simp] theorem Nw8.onDown_rackPort (n : Nat) (f : TwoWire → TwoWire) (w : Nw8) : (w.onDown n f).rackPort = w.rackPort := rfl
@[simp] theorem Nw8.onChan_down (n : Nat) (f : TrayCh → TrayCh) (w : Nw8) : (w.onChan n f).down = w.down := rfl
@[simp] theorem Nw8.onDown_down (n : Nat) (f : TwoWire → TwoWire) (w : Nw8) : (w.onDown n f).down = tmod TwoWire.downstream w.down n f := rfl
@[simp] theorem Nw8.onChan_audit (n : Nat) (f : TrayCh → TrayCh) (w : Nw8) : (w.onChan n f).audit = w.audit := rfl
@[simp] theorem Nw8.onDown_audit (n : Nat) (f : TwoWire → TwoWire) (w : Nw8) : (w.onDown n f).audit = w.audit := rfl
@[simp] theorem Nw8.onChan_auditSeq (n : Nat) (f : TrayCh → TrayCh) (w : Nw8) : (w.onChan n f).auditSeq = w.auditSeq := rfl
@[simp] theorem Nw8.onDown_auditSeq (n : Nat) (f : TwoWire → TwoWire) (w : Nw8) : (w.onDown n f).auditSeq = w.auditSeq := rfl
@[simp] theorem Nw8.onChan_wraps (n : Nat) (f : TrayCh → TrayCh) (w : Nw8) : (w.onChan n f).wraps = w.wraps := rfl
@[simp] theorem Nw8.onDown_wraps (n : Nat) (f : TwoWire → TwoWire) (w : Nw8) : (w.onDown n f).wraps = w.wraps := rfl
@[simp] theorem Nw8.onChan_logPos (n : Nat) (f : TrayCh → TrayCh) (w : Nw8) : (w.onChan n f).logPos = w.logPos := rfl
@[simp] theorem Nw8.onDown_logPos (n : Nat) (f : TwoWire → TwoWire) (w : Nw8) : (w.onDown n f).logPos = w.logPos := rfl
@[simp] theorem Nw8.onChan_deferred (n : Nat) (f : TrayCh → TrayCh) (w : Nw8) : (w.onChan n f).deferred = w.deferred := rfl
@[simp] theorem Nw8.onDown_deferred (n : Nat) (f : TwoWire → TwoWire) (w : Nw8) : (w.onDown n f).deferred = w.deferred := rfl
@[simp] theorem Nw8.onChan_installerKey (n : Nat) (f : TrayCh → TrayCh) (w : Nw8) : (w.onChan n f).installerKey = w.installerKey := rfl
@[simp] theorem Nw8.onDown_installerKey (n : Nat) (f : TwoWire → TwoWire) (w : Nw8) : (w.onDown n f).installerKey = w.installerKey := rfl
@[simp] theorem Nw8.onChan_fw (n : Nat) (f : TrayCh → TrayCh) (w : Nw8) : (w.onChan n f).fw = w.fw := rfl
@[simp] theorem Nw8.onDown_fw (n : Nat) (f : TwoWire → TwoWire) (w : Nw8) : (w.onDown n f).fw = w.fw := rfl
@[simp] theorem Nw8.onChan_major (n : Nat) (f : TrayCh → TrayCh) (w : Nw8) : (w.onChan n f).major = w.major := rfl
@[simp] theorem Nw8.onDown_major (n : Nat) (f : TwoWire → TwoWire) (w : Nw8) : (w.onDown n f).major = w.major := rfl
@[simp] theorem Nw8.onChan_factoryLow (n : Nat) (f : TrayCh → TrayCh) (w : Nw8) : (w.onChan n f).factoryLow = w.factoryLow := rfl
@[simp] theorem Nw8.onDown_factoryLow (n : Nat) (f : TwoWire → TwoWire) (w : Nw8) : (w.onDown n f).factoryLow = w.factoryLow := rfl
@[simp] theorem Nw8.onChan_unlockHost (n : Nat) (f : TrayCh → TrayCh) (w : Nw8) : (w.onChan n f).unlockHost = w.unlockHost := rfl
@[simp] theorem Nw8.onDown_unlockHost (n : Nat) (f : TwoWire → TwoWire) (w : Nw8) : (w.onDown n f).unlockHost = w.unlockHost := rfl
@[simp] theorem Nw8.onChan_unlockRack (n : Nat) (f : TrayCh → TrayCh) (w : Nw8) : (w.onChan n f).unlockRack = w.unlockRack := rfl
@[simp] theorem Nw8.onDown_unlockRack (n : Nat) (f : TwoWire → TwoWire) (w : Nw8) : (w.onDown n f).unlockRack = w.unlockRack := rfl
@[simp] theorem Nw8.onChan_addr (n : Nat) (f : TrayCh → TrayCh) (w : Nw8) : (w.onChan n f).addr = w.addr := rfl
@[simp] theorem Nw8.onDown_addr (n : Nat) (f : TwoWire → TwoWire) (w : Nw8) : (w.onDown n f).addr = w.addr := rfl
@[simp] theorem Nw8.onChan_tap (n : Nat) (f : TrayCh → TrayCh) (w : Nw8) : (w.onChan n f).tap = w.tap := rfl
@[simp] theorem Nw8.onDown_tap (n : Nat) (f : TwoWire → TwoWire) (w : Nw8) : (w.onDown n f).tap = w.tap := rfl

theorem Nw8.onChan_chan (n j : Nat) (f : TrayCh → TrayCh) (w : Nw8) : (w.onChan n f).chan j = if j = n then f (w.chan n) else w.chan j :=
  tget_tmod _ _ _ _ _
@[simp] theorem Nw8.onChan_chan_same (n : Nat) (f : TrayCh → TrayCh) (w : Nw8) : (w.onChan n f).chan n = f (w.chan n) :=
  tget_tmod_same _ _ _ _
theorem Nw8.onChan_chan_other {n j : Nat} (f : TrayCh → TrayCh) (w : Nw8) (h : j ≠ n) : (w.onChan n f).chan j = w.chan j :=
  tget_tmod_other _ _ _ h
theorem Nw8.onDown_downPort (n j : Nat) (f : TwoWire → TwoWire) (w : Nw8) :
    (w.onDown n f).downPort j = if j = n then f (w.downPort n) else w.downPort j := tget_tmod _ _ _ _ _
@[simp] theorem Nw8.onDown_downPort_same (n : Nat) (f : TwoWire → TwoWire) (w : Nw8) : (w.onDown n f).downPort n = f (w.downPort n) :=
  tget_tmod_same _ _ _ _
theorem Nw8.onDown_downPort_other {n j : Nat} (f : TwoWire → TwoWire) (w : Nw8) (h : j ≠ n) : (w.onDown n f).downPort j = w.downPort j :=
  tget_tmod_other _ _ _ h
@[simp] theorem Nw8.onChan_downPort (n j : Nat) (f : TrayCh → TrayCh) (w : Nw8) : (w.onChan n f).downPort j = w.downPort j := rfl
@[simp] theorem Nw8.onDown_chan (n j : Nat) (f : TwoWire → TwoWire) (w : Nw8) : (w.onDown n f).chan j = w.chan j := rfl

/-! ## Pulses and W1C bits of the present beat -/

@[simp] theorem pulse_pending (i : Nat) (s : State) : (pulse i s).pending = s.pending := rfl
@[simp] theorem pulse_ev9 (i : Nat) (s : State) : (pulse i s).ev9 = s.ev9 := rfl
@[simp] theorem pulse_nw8 (i : Nat) (s : State) : (pulse i s).nw8 = s.nw8 := rfl
@[simp] theorem pulse_outbox (i : Nat) (s : State) : (pulse i s).outbox = s.outbox := rfl
@[simp] theorem pulse_fresh (i : Nat) (s : State) : (pulse i s).fresh = s.fresh := rfl
@[simp] theorem pulse_w1cNow (i : Nat) (s : State) : (pulse i s).w1cNow = s.w1cNow := rfl
@[simp] theorem pulse_pulses (i : Nat) (s : State) : (pulse i s).pulses = sadd s.pulses i := rfl
@[simp] theorem noteSet_pending (off i : Nat) (b : Bool) (s : State) : (noteSet off i b s).pending = s.pending := by
  unfold noteSet; split <;> rfl
@[simp] theorem noteSet_ev9 (off i : Nat) (b : Bool) (s : State) : (noteSet off i b s).ev9 = s.ev9 := by
  unfold noteSet; split <;> rfl
@[simp] theorem noteSet_nw8 (off i : Nat) (b : Bool) (s : State) : (noteSet off i b s).nw8 = s.nw8 := by
  unfold noteSet; split <;> rfl
@[simp] theorem noteSet_outbox (off i : Nat) (b : Bool) (s : State) : (noteSet off i b s).outbox = s.outbox := by
  unfold noteSet; split <;> rfl
@[simp] theorem noteSet_fresh (off i : Nat) (b : Bool) (s : State) : (noteSet off i b s).fresh = s.fresh := by
  unfold noteSet; split <;> rfl
@[simp] theorem noteSet_pulses (off i : Nat) (b : Bool) (s : State) : (noteSet off i b s).pulses = s.pulses := by
  unfold noteSet; split <;> rfl

/-- After the note of an event, the bit is among those set in this beat. -/
theorem noteSet_noted (off i : Nat) (b : Bool) (s : State) :
    ((noteSet off i b s).w1cNow.any fun x => x.1 == w1cKey off i) = true := by
  unfold noteSet; split
  · assumption
  · simp

/-- An event of the beat wins over a write of 1 in the same beat (R9). -/
theorem w1c_event_wins (off i : Nat) (b : Bool) (v : Dword) (x : Bool) (s : State) :
    (noteSet off i b s).w1c off v i x = x := by
  unfold State.w1c; rw [noteSet_noted]; simp

end Sys2Proof.Machine
end

