-- ==== Sys2Proof/Laws/Packets.lean ====
section
/-! SUPPORT. Laws/Packets.lean: what taking a packet, a reply and an answer can do: they change carriers, sessions and logs alone, and the
reply reaches its carrier. -/

namespace Sys2Proof.Machine
open Sys2Proof

/-! ## Only carriers, sessions and logs change -/

theorem OnlyCarriers.refl (s : State) : OnlyCarriers s s := rfl
theorem OnlyCarriers.trans {s t u : State} (h1 : OnlyCarriers s t) (h2 : OnlyCarriers t u) : OnlyCarriers s u := by
  unfold OnlyCarriers at *
  rw [h2, h1]
theorem onlyCarriers_emit (o : Out) (s : State) : OnlyCarriers s (emit o s) := rfl
theorem onlyCarriers_callSmb (k : Nat) (s : State) : OnlyCarriers s (callSmb k s) := by
  unfold callSmb; split <;> rfl
theorem onlyCarriers_auditEv9 (a : AuditArgs) (s : State) : OnlyCarriers s (auditEv9 a s) :=
  OnlyCarriers.trans (t := onEv9 (Ev9.onSvc (Svc.addAudit a)) s) rfl (onlyCarriers_callSmb _ _)
theorem onlyCarriers_auditNw8 (a : AuditArgs) (s : State) : OnlyCarriers s (auditNw8 a s) := rfl
theorem onlyCarriers_auditBy (i : SessionId) (a : AuditArgs) (s : State) : OnlyCarriers s (auditBy i a s) := by
  unfold auditBy; split
  · exact onlyCarriers_auditEv9 _ _
  · exact onlyCarriers_auditNw8 _ _
theorem onlyCarriers_onSession (i : SessionId) (f : Session → Session) (s : State) : OnlyCarriers s (onSession i f s) := by
  cases i <;> rfl
theorem onlyCarriers_touch (i : Option SessionId) (s : State) : OnlyCarriers s (touch i s) := by
  unfold touch; split
  · rfl
  · exact onlyCarriers_onSession _ _ _
theorem onlyCarriers_onRing (r : Nat) (f : Ring → Ring) (s : State) : OnlyCarriers s (onEv9 (Ev9.onRing r f) s) := rfl
theorem onlyCarriers_hostWrite (a b : Nat) (l : List Byte) (s : State) : OnlyCarriers s (onEv9 (Ev9.hostWrite a b l) s) := rfl
theorem onlyCarriers_writeReply (r : Nat) (x : Reply) (s : State) : OnlyCarriers s (onEv9 (Ev9.writeReply r x) s) := rfl
theorem onlyCarriers_ringReply (r : Nat) (x : Reply) (s : State) : OnlyCarriers s (ringReply r x s) := by
  unfold ringReply; dsimp only; split
  · split <;> rfl
  · rfl
theorem onlyCarriers_onHostPort (f : TwoWire → TwoWire) (s : State) : OnlyCarriers s (onHostPort f s) := by
  unfold onHostPort; dsimp only; split <;> rfl
theorem onlyCarriers_onRackPort (f : TwoWire → TwoWire) (s : State) : OnlyCarriers s (onRackPort f s) := by
  unfold onRackPort; dsimp only; split <;> rfl
theorem onlyCarriers_sendReply (via : Carrier) (x : Reply) (s : State) : OnlyCarriers s (sendReply via x s) := by
  unfold sendReply; cases via
  · exact onlyCarriers_ringReply _ _ _
  · exact onlyCarriers_ringReply _ _ _
  · exact OnlyCarriers.trans (t := onEv9 (fun e => { e with smb0 := { e.smb0 with replies := e.smb0.replies ++ [x] } }) s) rfl (onlyCarriers_callSmb _ _)
  · exact onlyCarriers_onHostPort _ _
  · exact onlyCarriers_onRackPort _ _
theorem onlyCarriers_takePacket (via : Carrier) (s : State) : OnlyCarriers s (takePacket via s) := by
  refine (onlyCarriers_touch via.session? _).trans ?_
  unfold takePacket; dsimp only
  split
  · rfl
  · split
    · exact .refl _
    · rfl
theorem onlyCarriers_notePrivileged (via : Carrier) (pkt : Packet) (st : Nat) (s : State) : OnlyCarriers s (notePrivileged via pkt st s) := by
  unfold notePrivileged; split
  · split
    · exact onlyCarriers_auditBy _ _ _
    · exact .refl _
  · exact .refl _
theorem onlyCarriers_noteDenied (via : Carrier) (pkt : Packet) (k : PacketRule) (s : State) : OnlyCarriers s (noteDenied via pkt k s) := by
  unfold noteDenied; split
  · split
    · exact .refl _
    · exact onlyCarriers_auditBy _ _ _
  · exact .refl _
theorem onlyCarriers_reject (via : Carrier) (pkt : Packet) (st : Nat) (s : State) : OnlyCarriers s (reject via pkt st s) :=
  onlyCarriers_sendReply _ _ _
theorem onlyCarriers_answerData (via : Carrier) (pkt : Packet) (st : Nat) (r d : List Byte) (s : State) :
    OnlyCarriers s (answerData via pkt st r d s) := (onlyCarriers_notePrivileged _ _ _ _).trans (onlyCarriers_sendReply _ _ _)
theorem onlyCarriers_answer (via : Carrier) (pkt : Packet) (st : Nat) (r : List Byte) (s : State) :
    OnlyCarriers s (answer via pkt st r s) := onlyCarriers_answerData _ _ _ _ _ _
theorem onlyCarriers_answerWithData (via : Carrier) (pkt : Packet) (st : Nat) (r d : List Byte) (s : State) :
    OnlyCarriers s (answerWithData via pkt st r d s) := by
  unfold answerWithData; split
  · exact (onlyCarriers_hostWrite _ _ _ _).trans (onlyCarriers_answer _ _ _ _ _)
  · exact onlyCarriers_answerData _ _ _ _ _ _


/-! ## Delivery -/

/-- Two states agree on what a delivery on the carrier reads. -/
def SameCarrier (via : Carrier) (s t : State) : Prop :=
  match via with
  | .smb0 => s.ev9.smb0.replies = t.ev9.smb0.replies
  | .nwHost => s.nw8.host.replies = t.nw8.host.replies
  | .nwRack => s.nw8.rackPort.replies = t.nw8.rackPort.replies
  | _ =>
    let r := via.ring?.getD 0
    let g := s.ev9.ring r
    let k := t.ev9.ring r
    g.hasRoom = k.hasRoom ∧ g.heldReplies = k.heldReplies ∧ g.cqBase = k.cqBase ∧ g.cqTail = k.cqTail ∧ g.phase = k.phase ∧ g.cqOrder = k.cqOrder
theorem SameCarrier.refl (via : Carrier) (s : State) : SameCarrier via s s := by
  unfold SameCarrier; split <;> simp
theorem SameCarrier.trans {via : Carrier} {s t u : State} (h1 : SameCarrier via s t) (h2 : SameCarrier via t u) : SameCarrier via s u := by
  unfold SameCarrier at *; split at h1 <;> simp_all
theorem Delivered.of_same {via : Carrier} {x : Reply} {s t u : State} (h : SameCarrier via s t) (d : Delivered via x t u) : Delivered via x s u := by
  unfold SameCarrier at h; unfold Delivered at *
  cases via <;> simp_all
theorem byteSize (x : Reply) (p : Bool) : (x.bytes p).length = 16 := by
  simp [Reply.bytes, padTo]; omega
@[simp] theorem Ev9.onHif_ring (f : Hif → Hif) (e : Ev9) (r : Nat) (h : (f e.hif).rings = e.hif.rings) : (e.onHif f).ring r = e.ring r := by
  simp [Ev9.ring, h]
@[simp] theorem Ev9.hostWrite_ring (a b : Nat) (l : List Byte) (e : Ev9) (r : Nat) : (e.hostWrite a b l).ring r = e.ring r := rfl
@[simp] theorem callSmb_replies (k : Nat) (s : State) : (callSmb k s).ev9.smb0.replies = s.ev9.smb0.replies := by
  unfold callSmb; split <;> rfl
@[simp] theorem callSmb_ev9 (k : Nat) (s : State) : (callSmb k s).ev9 = s.ev9 := by
  unfold callSmb; split <;> rfl
@[simp] theorem callSmb_nw8 (k : Nat) (s : State) : (callSmb k s).nw8 = s.nw8 := by
  unfold callSmb; split <;> rfl
theorem delivered_ringReply (r : Nat) (x : Reply) (s : State) :
    let g := s.ev9.ring r
    let u := ringReply r x s
    if (g.hasRoom && g.heldReplies.isEmpty) = true then
      memReads u.ev9.hif.hostMem (hostKey (ringFunction r) (g.cqBase.toNat * 4096 + 16 * g.cqTail.toNat)) 16 = x.bytes g.phase
        ∧ (u.ev9.ring r).cqTail = BitVec.ofNat 15 (ringNext g.cqOrder g.cqTail.toNat)
    else (u.ev9.ring r).heldReplies = g.heldReplies ++ [x] := by
  dsimp only
  unfold ringReply; dsimp only
  split
  · rename_i h
    have e := memReads_memWrites s.ev9.hif.hostMem (hostKey (ringFunction r) ((s.ev9.ring r).cqBase.toNat * 4096 + 16 * (s.ev9.ring r).cqTail.toNat)) (x.bytes (s.ev9.ring r).phase)
    rw [byteSize] at e
    split <;> refine ⟨?_, ?_⟩
    · exact e
    · simp [Ev9.writeReply, Ring.afterReply]
    · exact e
    · simp [Ev9.writeReply, Ring.afterReply]
  · simp
theorem delivered_sendReply (via : Carrier) (x : Reply) (s : State) : Delivered via x s (sendReply via x s) := by
  unfold Delivered sendReply
  cases via
  · exact delivered_ringReply _ _ _
  · exact delivered_ringReply _ _ _
  · simp [withSmb]
  · dsimp only; unfold onHostPort; dsimp only; split <;> rfl
  · dsimp only; unfold onRackPort; dsimp only; split <;> rfl
theorem sameCarrier_auditBy (via : Carrier) (i : SessionId) (a : AuditArgs) (s : State) : SameCarrier via s (auditBy i a s) := by
  unfold auditBy SameCarrier; cases via <;> dsimp only <;> split <;> simp [auditEv9, withSmb, auditNw8, Nw8.addEntry]
theorem sameCarrier_notePrivileged (via v : Carrier) (pkt : Packet) (st : Nat) (s : State) : SameCarrier via s (notePrivileged v pkt st s) := by
  unfold notePrivileged; split
  · split
    · exact sameCarrier_auditBy _ _ _ _
    · exact .refl _ _
  · exact .refl _ _
theorem sameCarrier_onSession (via : Carrier) (i : SessionId) (f : Session → Session) (s : State) : SameCarrier via s (onSession i f s) := by
  unfold SameCarrier; cases via <;> cases i <;> simp [onSession]
theorem sameCarrier_touch (via : Carrier) (i : Option SessionId) (s : State) : SameCarrier via s (touch i s) := by
  unfold touch; split
  · exact .refl _ _
  · exact sameCarrier_onSession _ _ _ _
theorem sameCarrier_takePacket (via : Carrier) (s : State) : SameCarrier via s (takePacket via s) := by
  refine (sameCarrier_touch via via.session? s).trans ?_
  have key : ∀ (r : Nat) (t : State), let g := t.ev9.ring r; let k := (onEv9 (Ev9.onRing r Ring.taken) t).ev9.ring r
      g.hasRoom = k.hasRoom ∧ g.heldReplies = k.heldReplies ∧ g.cqBase = k.cqBase ∧ g.cqTail = k.cqTail ∧ g.phase = k.phase ∧ g.cqOrder = k.cqOrder := by
    intro r t; simp [Ring.taken, Ring.hasRoom]
  unfold takePacket SameCarrier; cases via
  · exact key _ _
  · exact key _ _
  · rfl
  · rfl
  · rfl
theorem answered_answerData (via : Carrier) (pkt : Packet) (st : Nat) (r d : List Byte) (s : State) :
    Delivered via { tag := pkt.tag, status := BitVec.ofNat 8 st, final := false, result := r, data := d, interrupt := pkt.wantsInterrupt } s
      (answerData via pkt st r d s) := by
  unfold answerData
  exact (delivered_sendReply via _ _).of_same (sameCarrier_notePrivileged via via pkt st s)
theorem answered_answer (via : Carrier) (pkt : Packet) (st : Nat) (r : List Byte) (s : State) :
    Answered via pkt (BitVec.ofNat 8 st) r s (answer via pkt st r s) := by
  have h := answered_answerData via pkt st r [] s
  simp only [Answered, answer]
  exact h
/-- A packet in order: it is taken, and its row's effect follows. -/
theorem servePacket_good {via : Carrier} {pkt : Packet} {k : PacketRule} {body : State → State} {s : State}
    (h1 : s.packetReady via pkt = true) (h2 : k.mine = true) (h3 : (takePacket via s).packetFault via pkt k = none) :
    servePacket via pkt k body s = .next (body (takePacket via s)) := by
  simp [servePacket, h1, h2, h3]

/-- Taking a packet changes nothing that its checks read. -/
theorem packetFault_takePacket (via : Carrier) (pkt : Packet) (k : PacketRule) (s : State) :
    (takePacket via s).packetFault via pkt k = s.packetFault via pkt k := by
  have h := onlyCarriers_takePacket via s
  have e : (takePacket via s).ev9.inRecovery = s.ev9.inRecovery := by rw [h]; rfl
  have b : ∀ v ps, (takePacket via s).boundTo v ps = s.boundTo v ps := by intro v ps; rw [h]; unfold State.boundTo; cases v <;> rfl
  have r : (takePacket via s).role via = s.role via := by
    unfold takePacket State.role; cases via <;> rfl
  unfold State.packetFault
  rw [e, b, r]

/-- A packet in order: it is taken, and its row's effect follows. -/
theorem servePacket_runs {via : Carrier} {pkt : Packet} {k : PacketRule} {body : State → State} {s : State} {P : State → Prop}
    (h1 : s.packetReady via pkt = true) (h2 : k.mine = true) (h3 : s.packetFault via pkt k = none) (h4 : P (body (takePacket via s))) :
    ∃ u, servePacket via pkt k body s = .next u ∧ P u := by
  refine ⟨_, servePacket_good h1 h2 ?_, h4⟩
  rw [packetFault_takePacket, h3]

/-- A packet that fails a check of R314 gets the status of the first that it fails, and changes nothing but carriers, sessions and logs. -/
theorem servePacket_fault {via : Carrier} {pkt : Packet} {k : PacketRule} {body : State → State} {s : State} {st : Nat}
    (h1 : s.packetReady via pkt = true) (h2 : k.mine = true ∨ definedOpcodes.contains pkt.op = false) (h3 : s.packetFault via pkt k = some st) :
    ∃ u, servePacket via pkt k body s = .next u ∧ Answered via pkt (BitVec.ofNat 8 st) [] s u ∧ OnlyCarriers s u := by
  have h2' : (k.mine || !definedOpcodes.contains pkt.op) = true := by rcases h2 with h | h <;> rw [h] <;> simp
  have h3' : (takePacket via s).packetFault via pkt k = some st := by rw [packetFault_takePacket, h3]
  have hd : SameCarrier via (takePacket via s) (if st = stNotPermitted then noteDenied via pkt k (takePacket via s) else takePacket via s) := by
    split
    · unfold noteDenied; split
      · split
        · exact .refl _ _
        · exact sameCarrier_auditBy _ _ _ _
      · exact .refl _ _
    · exact .refl _ _
  have ho : OnlyCarriers (takePacket via s) (if st = stNotPermitted then noteDenied via pkt k (takePacket via s) else takePacket via s) := by
    split
    · exact onlyCarriers_noteDenied _ _ _ _
    · exact .refl _
  refine ⟨reject via pkt st (if st = stNotPermitted then noteDenied via pkt k (takePacket via s) else takePacket via s), ?_, ?_, ?_⟩
  · unfold servePacket
    rw [h1, Bool.true_and, if_pos h2']
    simp only [h3']
  · unfold Answered reject
    exact (delivered_sendReply via _ _).of_same ((sameCarrier_takePacket via s).trans hd)
  · exact (onlyCarriers_takePacket via s).trans (ho.trans (onlyCarriers_reject _ _ _ _))

end Sys2Proof.Machine
end

