-- ==== Sys2Proof/Laws/Thread.lean ====
section
/-! SUPPORT. Laws/Thread.lean: what a control instruction can do: it is refused, does nothing, or has its effect on its thread's registers. -/

namespace Sys2Proof.Machine

open Sys2Proof

/-- A thread that issues is ready, and a ready thread does not stall (R121, R135, R192). -/
theorem issues_not_stalls {c : CoreId} {t : ThreadId} {ws : List Dword} {s : State} (h : s.issues c t ws = true) : s.stalls c t ws = false := by
  simp only [State.issues, Bool.and_eq_true] at h
  have hs : (s.ev9.core c).ready t = true := by
    have := h.2
    simp only [Core.serves, beq_iff_eq] at this
    exact List.find?_some this
  have hb : (s.ev9.core c).blocked t = false := by simpa [Core.ready] using (by simpa [Core.ready] using hs : _ ∧ _).2
  simp [State.stalls, hb]

/-- The five courses of a control instruction. -/
theorem controlOp_cases (op : Nat) (c : CoreId) (t : ThreadId) (w : Ctl) (body : State → State) (s : State) :
    (ctlOk op w = false ∧ controlOp op c t w body s = .refused .undefinedWord)
    ∨ (ctlOk op w = true ∧ s.stalls c t [ctlWord (BitVec.ofNat 8 op) w] = true ∧ controlOp op c t w body s = .next (stalled c t s))
    ∨ (ctlOk op w = true ∧ s.stalls c t [ctlWord (BitVec.ofNat 8 op) w] = false ∧ s.issues c t [ctlWord (BitVec.ofNat 8 op) w] = false
        ∧ controlOp op c t w body s = .next s)
    ∨ (ctlOk op w = true ∧ s.issues c t [ctlWord (BitVec.ofNat 8 op) w] = true ∧ guardHolds (s.regs c t) w = false
        ∧ controlOp op c t w body s = .next (issued c t 1 s))
    ∨ (Executes op c t w s ∧ controlOp op c t w body s = .next (body s)) := by
  have := @issues_not_stalls c t [ctlWord (BitVec.ofNat 8 op) w] s
  unfold controlOp Executes
  cases ctlOk op w <;> cases h1 : s.issues c t [ctlWord (BitVec.ofNat 8 op) w] <;> cases h2 : s.stalls c t [ctlWord (BitVec.ofNat 8 op) w]
    <;> cases guardHolds (s.regs c t) w <;> simp_all [stay]

theorem controlOp_executes {op : Nat} {c : CoreId} {t : ThreadId} {w : Ctl} (body : State → State) {s : State} (h : Executes op c t w s) :
    controlOp op c t w body s = .next (body s) := by
  obtain ⟨h1, h2, h3⟩ := h
  simp [controlOp, h1, h2, h3, issues_not_stalls h2]

theorem controlOp_guard_false {op : Nat} {c : CoreId} {t : ThreadId} {w : Ctl} (body : State → State) {s : State} (h1 : ctlOk op w = true)
    (h2 : s.issues c t [ctlWord (BitVec.ofNat 8 op) w] = true) (h3 : guardHolds (s.regs c t) w = false) :
    controlOp op c t w body s = .next (issued c t 1 s) := by simp [controlOp, h1, h2, h3, issues_not_stalls h2]

theorem controlOp_stays {op : Nat} {c : CoreId} {t : ThreadId} {w : Ctl} (body : State → State) {s : State} (h1 : ctlOk op w = true)
    (h2 : s.issues c t [ctlWord (BitVec.ofNat 8 op) w] = false) (h3 : s.stalls c t [ctlWord (BitVec.ofNat 8 op) w] = false) :
    controlOp op c t w body s = .next s := by simp [controlOp, h1, h2, h3, stay]

theorem controlOp_stalls {op : Nat} {c : CoreId} {t : ThreadId} {w : Ctl} (body : State → State) {s : State} (h1 : ctlOk op w = true)
    (h3 : s.stalls c t [ctlWord (BitVec.ofNat 8 op) w] = true) :
    controlOp op c t w body s = .next (stalled c t s) := by simp [controlOp, h1, h3]

/-- The registers of a thread after its instruction has issued and `f` has changed them. -/
@[simp] theorem regs_onRegs_issued (c : CoreId) (t : ThreadId) (f : ThreadRegs → ThreadRegs) (n : Nat) (s : State) :
    (onRegs c t f (issued c t n s)).regs c t = f { s.regs c t with pc := (s.regs c t).pc + BitVec.ofNat 13 n } := by
  simp [State.regs, onRegs, onThread, issued, Core.thread]

/-- An issue of `n` words is the issue of the thread alone. -/
theorem issued_onRegs (c : CoreId) (t : ThreadId) (f : ThreadRegs → ThreadRegs) (n : Nat) (s : State) :
    Issued n c t s (onRegs c t f (issued c t n s)) (f { s.regs c t with pc := (s.regs c t).pc + BitVec.ofNat 13 n }) := by
  refine ⟨⟨rfl, fun k hk => ?_⟩, ?_, fun k hk => ?_, ?_⟩
  · simp [onRegs, onThread, issued, Ev9.onCore_core, hk]
  · simp [onRegs, onThread, issued, Core.onThread]
  · simp [onRegs, onThread, issued, Core.thread, tget_tmod, hk]
  · simp [onRegs, onThread, issued, Core.thread, State.regs, Thread.onRegs, Thread.at]

theorem issued_issued (c : CoreId) (t : ThreadId) (n : Nat) (s : State) :
    Issued n c t s (issued c t n s) { s.regs c t with pc := (s.regs c t).pc + BitVec.ofNat 13 n } := by
  refine ⟨⟨rfl, fun k hk => ?_⟩, ?_, fun k hk => ?_, ?_⟩
  · simp [issued, Ev9.onCore_core, hk]
  · simp [issued, Core.onThread]
  · simp [issued, Core.thread, tget_tmod, hk]
  · simp [issued, Core.thread, State.regs, Thread.at]

/-- A register operation that executes. -/
theorem regOp_runs {op : Nat} {c : CoreId} {t : ThreadId} {w : Ctl} (f : ThreadRegs → ThreadRegs) {s : State} (h : Executes op c t w s) :
    ∃ u, regOp op c t w f s = .next u ∧ Issued 1 c t s u (f { s.regs c t with pc := (s.regs c t).pc + 1 }) :=
  ⟨_, controlOp_executes _ h, issued_onRegs c t f 1 s⟩

theorem ThreadRegs.setG_gr (i j : BitVec 5) (v : Dword) (r : ThreadRegs) :
    (r.setG i v).gr j = if j = i then (if i = 0 then 0 else v) else r.gr j := by
  unfold ThreadRegs.setG ThreadRegs.gr
  by_cases hi : i = 0
  · subst hi
    by_cases hj : j = 0
    · subst hj; rfl
    · rw [if_pos rfl, if_neg hj, if_neg hj]
  · rw [if_neg hi]
    by_cases hj : j = i
    · subst hj
      rw [if_pos rfl, if_neg hi, if_neg hi]; simp
    · have : j.toNat ≠ i.toNat := fun e => hj (BitVec.eq_of_toNat_eq e)
      rw [if_neg hj]; simp [tget_tput_other, this]

theorem ThreadRegs.setA_ar (i j : BitVec 5) (v : Addr) (r : ThreadRegs) : (r.setA i v).ar j = if j = i then v else r.ar j := by
  unfold ThreadRegs.setA ThreadRegs.ar
  by_cases hj : j = i
  · subst hj; simp
  · have : j.toNat ≠ i.toNat := fun e => hj (BitVec.eq_of_toNat_eq e)
    simp [hj, tget_tput_other, this]

/-- A write of g[i] by an instruction. -/
theorem writesG_setG {op : Nat} {c : CoreId} {t : ThreadId} {w : Ctl} (v : ThreadRegs → Dword) {s : State} (i : BitVec 5)
    (h : Executes op c t w s) : ∃ u, regOp op c t w (fun r => r.setG i (v r)) s = .next u
      ∧ WritesG c t i (v { s.regs c t with pc := (s.regs c t).pc + 1 }) s u := by
  obtain ⟨u, h1, h2⟩ := regOp_runs (fun r => r.setG i (v r)) h
  refine ⟨u, h1, _, h2, ?_, ?_, fun j hj => ?_⟩
  · unfold ThreadRegs.setG; split <;> rfl
  · simp [ThreadRegs.setG_gr]
  · rw [ThreadRegs.setG_gr, if_neg hj]; rfl

/-- A write of a[i] by an instruction. -/
theorem writesA_setA {op : Nat} {c : CoreId} {t : ThreadId} {w : Ctl} (v : ThreadRegs → Addr) {s : State} (i : BitVec 5)
    (h : Executes op c t w s) : ∃ u, regOp op c t w (fun r => r.setA i (v r)) s = .next u
      ∧ WritesA c t i (v { s.regs c t with pc := (s.regs c t).pc + 1 }) s u := by
  obtain ⟨u, h1, h2⟩ := regOp_runs (fun r => r.setA i (v r)) h
  refine ⟨u, h1, _, h2, rfl, ?_, fun j hj => ?_⟩
  · simp [ThreadRegs.setA_ar]
  · rw [ThreadRegs.setA_ar, if_neg hj]; rfl

end Sys2Proof.Machine
end

