-- ==== Sys2Proof/Laws/Faults.lean ====
section
/-! SUPPORT. Laws/Faults.lean: what a bounds fault does, in one lemma, and the lemmas about replies, fault records and the
hold that it rests on. -/

namespace Sys2Proof.Machine
open Sys2Proof

/-! ## What the completion of waiting commands changes -/

/-- `u` differs from `s` in what the carriers hold and what waits for its reply. -/
def OnlyHost (s u : State) : Prop :=
  u = { s with outbox := u.outbox, ev9 := { s.ev9 with hif := u.ev9.hif, smb0 := u.ev9.smb0 }, nw8 := { s.nw8 with host := u.nw8.host, rackPort := u.nw8.rackPort } }

theorem OnlyHost.refl (s : State) : OnlyHost s s := rfl

theorem OnlyHost.trans {s t u : State} (h1 : OnlyHost s t) (h2 : OnlyHost t u) : OnlyHost s u := by
  unfold OnlyHost at *; rw [h2, h1]

theorem onlyHost_ringReply (r : Nat) (x : Reply) (s : State) : OnlyHost s (ringReply r x s) := by
  unfold ringReply; dsimp only; split
  · split <;> rfl
  · rfl

/-- A reply is all that `sendReply` does. -/
theorem onlyHost_sendReply (via : Carrier) (x : Reply) (s : State) : OnlyHost s (sendReply via x s) := by
  unfold sendReply; cases via
  · exact onlyHost_ringReply _ _ _
  · exact onlyHost_ringReply _ _ _
  · show OnlyHost s (callSmb _ _)
    unfold callSmb; split <;> rfl
  · simp; unfold onHostPort; dsimp only; split <;> rfl
  · simp; unfold onRackPort; dsimp only; split <;> rfl

theorem onlyHost_foldl {α : Type} (g : State → α → State) (l : List α) (s : State) (h : ∀ t x, OnlyHost t (g t x)) : OnlyHost s (l.foldl g s) := by
  induction l generalizing s with
  | nil => rfl
  | cons a l ih => exact (h s a).trans (ih _)

theorem onlyHost_onHif (f : Hif → Hif) (s : State) : OnlyHost s (onEv9 (Ev9.onHif f) s) := rfl

theorem onlyHost_sweepFences (s : State) : OnlyHost s (sweepFences s) := by
  unfold sweepFences; dsimp only
  exact (onlyHost_onHif _ s).trans (onlyHost_foldl _ _ _ (fun t d => onlyHost_sendReply _ _ _))

/-- Completing commands sends replies and clears what waited. -/
theorem onlyHost_finish (sel : Deferred → Bool) (st : Deferred → Nat) (r : Deferred → List Byte) (s : State) : OnlyHost s (finish sel st r s) := by
  unfold finish; dsimp only
  exact ((onlyHost_onHif _ s).trans (onlyHost_foldl _ _ _ (fun t d => onlyHost_sendReply _ _ _))).trans (onlyHost_sweepFences _)

theorem onlyHost_finishNamed (m : BitVec 8) (st : Nat) (s : State) : OnlyHost s (finishNamed m st s) := onlyHost_finish _ _ _ _
/-! ## Fault records and the hold of a partition -/

/-- A fault record is logged, and SMB_0 has news (R391). -/
theorem faultRecord_ev9 (a : FaultArgs) (s : State) : (faultRecord a s).ev9 = { s.ev9.onSvc (Svc.addRec (s.ev9.mkRec a)) with smb0 := { s.ev9.smb0 with news := true } } := by
  simp [faultRecord, withSmb]

theorem faultRecord_nw8 (a : FaultArgs) (s : State) : (faultRecord a s).nw8 = s.nw8 := by
  simp [faultRecord, withSmb]

@[simp] theorem callSmb_pending (k : Nat) (s : State) : (callSmb k s).pending = s.pending := by unfold callSmb; split <;> rfl

@[simp] theorem callSmb_fresh (k : Nat) (s : State) : (callSmb k s).fresh = s.fresh := by unfold callSmb; split <;> rfl

theorem onMember_only (t : Nat) (f : Member → Member) (s : State) : onMember t f s = { s with ev9 := { s.ev9 with members := (onMember t f s).ev9.members } } := by
  unfold onMember onEv9; dsimp only; unfold Ev9.onMember; cases tfind s.ev9.members t <;> rfl

/-- A partition that enters the hold changes its counter, its troupe member, and what waited. -/
theorem enterHeld_only (p : Nat) (s : State) : ∃ w, OnlyHost (onPart p (onCurl fun c => { c with held := true, curled := true }) s) w ∧
   (enterHeld p s) = { w with ev9 := { w.ev9 with members := (enterHeld p s).ev9.members } } := by
  unfold enterHeld; dsimp only
  split
  · exact ⟨_, .refl _, rfl⟩
  · split
    · rename_i t m _ _
      refine ⟨_, onlyHost_finish (fun d => d.work == .rerun (BitVec.ofNat 16 t)) (fun _ => stWrongState) (fun _ => []) _, ?_⟩
      exact onMember_only _ _ _
    · exact ⟨_, .refl _, rfl⟩

/-- The record stands at its sequence number. -/
theorem addRec_find (r : FaultRec) (v : Svc) (h : r ≠ FaultRec.blank) : tfind (v.addRec r).faults (v.faultSeq.toNat % 256) = some r := by
  simp [Svc.addRec, tput, h]

theorem mkRec_ne (e : Ev9) (a : FaultArgs) (h : BitVec.ofNat 16 a.cause ≠ 0) : e.mkRec a ≠ FaultRec.blank := by
  intro q; have : (e.mkRec a).cause = FaultRec.blank.cause := by rw [q]
  exact h this

theorem mkRec_congr (e f : Ev9) (a : FaultArgs) (h1 : f.parts = e.parts) (h2 : f.svc.timeMs = e.svc.timeMs) (h3 : f.chip.strict = e.chip.strict) : f.mkRec a = e.mkRec a := by
  unfold Ev9.mkRec Ev9.part; rw [h1, h2, h3]

theorem stopFaulted_not (t : Thread) : t.stopFaulted.regs.state ≠ .running ∧ t.stopFaulted.regs.state ≠ .waiting := by
  unfold Thread.stopFaulted; split
  · simp
  · rename_i h; simp only [not_or] at h; exact h

/-- Each thread of a faulted core stops. -/
theorem faultThreads_thread (x : Core) (k : Nat) (hk : k < 4) : (x.faultThreads).thread k = (x.thread k).stopFaulted := by
  unfold Core.faultThreads
  have : k = 0 ∨ k = 1 ∨ k = 2 ∨ k = 3 := by omega
  rcases this with rfl | rfl | rfl | rfl <;> simp [Core.onThread_thread]

/-- Everything a bounds fault of a core does, for any record. -/
theorem boundsFault_gen (c : CoreId) (A : FaultArgs) (hA : BitVec.ofNat 16 A.cause ≠ 0) (m : BitVec 8) (st p : Nat) (s u : State)
  (hu : u = finishNamed m st (enterHeld p (faultRecord A (onCore c (fun x => { x.faultThreads with bounds := true }) s)))) :
   (u.ev9.core c).bounds = true
    ∧ (∀ k, k < 4 → ((u.ev9.core c).thread k).regs.state ≠ .running ∧ ((u.ev9.core c).thread k).regs.state ≠ .waiting)
    ∧ (u.ev9.part p).curl.held = true ∧ (u.ev9.part p).curl.curled = true
    ∧ tfind u.ev9.svc.faults (s.ev9.svc.faultSeq.toNat % 256) = some (s.ev9.mkRec A)
    ∧ u.ev9.svc.faultSeq = s.ev9.svc.faultSeq + 1
    ∧ u.ev9.mem = s.ev9.mem ∧ (∀ k, k ≠ c.val → u.ev9.core k = s.ev9.core k) ∧ u.pending = s.pending := by
  generalize h1 : onCore c (fun x => { x.faultThreads with bounds := true }) s = s1 at hu
  generalize h2 : faultRecord A s1 = s2 at hu
  obtain ⟨w, hw, he⟩ := enterHeld_only p s2
  have hf := onlyHost_finishNamed m st (enterHeld p s2)
  have e2 : s2.ev9 = { s1.ev9.onSvc (Svc.addRec (s1.ev9.mkRec A)) with smb0 := { s1.ev9.smb0 with news := true } } := by rw [← h2]; exact faultRecord_ev9 _ _
  have hp2 : s2.pending = s.pending := by rw [← h2, ← h1]; simp [faultRecord, withSmb]
  have hs1 : s1.ev9.parts = s.ev9.parts := by rw [← h1]; simp
  have hs2 : s1.ev9.svc = s.ev9.svc := by rw [← h1]; simp
  have hs3 : s1.ev9.chip = s.ev9.chip := by rw [← h1]; simp
  have hmk : s1.ev9.mkRec A = s.ev9.mkRec A := mkRec_congr s.ev9 s1.ev9 A hs1 (by rw [hs2]) (by rw [hs3])
  rw [hmk] at e2
  rw [hu, hf, he, hw]
  refine ⟨?_, fun k hk => ?_, ?_, ?_, ?_, ?_, ?_, fun k hk => ?_, ?_⟩
  · show (s2.ev9.core c).bounds = true
    rw [e2]; show (s1.ev9.core c).bounds = true; rw [← h1]; simp
  · show ((s2.ev9.core c).thread k).regs.state ≠ _ ∧ ((s2.ev9.core c).thread k).regs.state ≠ _
    rw [e2]; show ((s1.ev9.core c).thread k).regs.state ≠ _ ∧ ((s1.ev9.core c).thread k).regs.state ≠ _
    rw [← h1]; simp only [onCore_ev9, Ev9.onCore_core_same]
    have := faultThreads_thread (s.ev9.core c) k hk
    have e : ∀ (y : Core), ({ y with bounds := true } : Core).thread k = y.thread k := fun _ => rfl
    rw [e, this]; exact stopFaulted_not _
  · show ((onPart p _ s2).ev9.part p).curl.held = true; simp [onCurl]
  · show ((onPart p _ s2).ev9.part p).curl.curled = true; simp [onCurl]
  · show tfind s2.ev9.svc.faults _ = _
    rw [e2]
    rw [← hs2]; exact addRec_find _ _ (mkRec_ne _ _ hA)
  · show s2.ev9.svc.faultSeq = _; rw [e2, ← hs2]; rfl
  · show s2.ev9.mem = _; rw [e2]; show s1.ev9.mem = _; rw [← h1]; simp
  · show s2.ev9.core k = _; rw [e2]; show s1.ev9.core k = _; rw [← h1]; simp [Ev9.onCore_core, hk]
  · exact hp2

/-- A bounds fault does what `BoundsFaulted` says. -/
theorem boundsFault_spec (c : CoreId) (r : BoundsReason) (src det a : Nat) (s : State) :
   BoundsFaulted c src r.code det a s (boundsFault c r ⟨src, det⟩ a s) := by
  have h := boundsFault_gen c (FaultArgs.mk src (some (partOf c)) c false true none 0x0700 r.code det (a % 2 ^ 32) (a / 2 ^ 32))
    (show BitVec.ofNat 16 0x0700 ≠ 0 by decide) (BitVec.ofNat 8 (2 ^ partOf c)) stWrongState (partOf c)
    (noteSet (offCoreStatus c) 3 (s.ev9.core c).bounds s) (boundsFault c r ⟨src, det⟩ a s) rfl
  simp only [noteSet_ev9, noteSet_pending] at h
  exact h

end Sys2Proof.Machine
end

