-- ==== Sys2Proof/Tests/Slice0.lean ====
section
/-! SUPPORT. Tests/Slice0.lean: the smoke test of the well-formedness checks, words that the spec's encodings spell, a few effects
worked out from the spec, and for each statement with hypotheses a state and operands that meet them, clause by clause. -/

namespace Sys2Proof.Tests

open Sys2Proof Sys2Proof.Machine

-- One theorem after another: many at once would each hold a thread of the checker.
set_option Elab.async false

/-! ## Well-formedness (R190, R191, R226, R312) -/

/-- A packet of 64 bytes that begins with these bytes. -/
def pktOf (l : List Byte) : Packet := ⟨l ++ List.replicate (64 - l.length) 0⟩

theorem test_wellFormed :
    (Instr.add 0 0 ⟨3, 1, 2, 0, false, 0, 0⟩).wellFormed = true
      ∧ (Instr.mm 0 0 ⟨0x14, 0x0A, 0x0B, 7, true, 5, 1, 0, 0x40⟩).wellFormed = true
      ∧ (Instr.vsub 0 0 ⟨3, 1, 2, 0, false, 0, 0, 0, 0⟩).wellFormed = true
      ∧ (Instr.nop (.ring 0) (pktOf [1])).wellFormed = true := by decide

/-- Each check refuses an ill-formed term: an unused register field, a reserved modifier bit, an unused immediate, a value that R191
marks invalid, a predicate field above 7, an undefined sub-operation, a vector register above 31, a scalar where none is allowed, an
opcode without a row, a packet of 63 bytes, and a block of the wrong length. -/
theorem test_illFormed :
    (Instr.controlNop 0 0 ⟨1, 0, 0, 0, false, 0, 0⟩).wellFormed = false
      ∧ (Instr.add 0 0 ⟨3, 1, 2, 0, false, 1, 0⟩).wellFormed = false
      ∧ (Instr.add 0 0 ⟨3, 1, 2, 0, false, 0, 9⟩).wellFormed = false
      ∧ (Instr.signal 0 0 ⟨1, 0, 0, 0, false, 0, 0⟩).wellFormed = false
      ∧ (Instr.cmp 0 0 ⟨8, 1, 2, 0, false, 0, 0⟩).wellFormed = false
      ∧ (Instr.cmp 0 0 ⟨1, 1, 2, 0, false, 6, 0⟩).wellFormed = false
      ∧ (Instr.mm 0 0 ⟨1, 2, 3, 0, false, 0, 0, 0, 10⟩).wellFormed = false
      ∧ (Instr.mvFill 0 0 ⟨1, 2, 0, 0, false, 0, 0, 0, 0⟩).wellFormed = false
      ∧ (Instr.vadd 0 0 ⟨32, 1, 2, 0, false, 0, 0, 0, 0⟩).wellFormed = false
      ∧ (Instr.vfn 0 0 ⟨3, 1, 0, 0, false, 0, 0, 0x80, 0⟩).wellFormed = false
      ∧ (Instr.vlog 0 0 ⟨3, 1, 2, 0, false, 0, 0, 0, 0⟩).wellFormed = false
      ∧ (Instr.engineFence 0 0 ⟨0, 0, 0, 0, false, 0, 0, 0, 0⟩).wellFormed = false
      ∧ (Instr.nop (.ring 0) ⟨List.replicate 63 0⟩).wellFormed = false
      ∧ (Instr.cueArrival 0 [] false).wellFormed = false
      ∧ (Instr.railPoll []).wellFormed = false := by decide

theorem test_illFormed_refused :
    exec (.add 0 0 ⟨3, 1, 2, 0, false, 1, 0⟩) State.reset = .refused .undefinedWord
      ∧ exec (.mm 0 0 ⟨1, 2, 3, 0, false, 0, 0, 0, 10⟩) State.reset = .refused .undefinedWord := ⟨rfl, rfl⟩

/-! ## Encodings, written out from R186, R188, R191, R197 and R241 -/

theorem test_decode_control :
    decodeInstr false 0 0 0x0818440000000000 0 = some (.add 0 0 ⟨3, 1, 2, 0, false, 0, 0⟩)
      ∧ decodeInstr false 0 0 0x13214000DEADBEEF 0 = some (.movhi 0 0 ⟨4, 5, 0, 0, false, 0, 0xDEADBEEF⟩)
      ∧ decodeInstr false 0 0 0x29004C0000000008 0 = some (.st 0 0 ⟨0, 1, 6, 0, false, 0, 8⟩) := by decide

theorem test_decode_engine :
    decodeInstr false 0 0 0xC0140A0B1E510000 0x40 = some (.mm 0 0 ⟨0x14, 0x0A, 0x0B, 7, true, 5, 1, 0, 0x40⟩)
      ∧ decodeInstr false 0 0 0xE903010200000000 0 = some (.vsub 0 0 ⟨3, 1, 2, 0, false, 0, 0, 0, 0⟩)
      ∧ decodeInstr false 0 0 0xC300000000000000 0 = none := by decide

/-! ## States for the threads of core 0 -/

/-- Boot is complete, partition 0 is ON, and core 0 is `x`. -/
def withCore (x : Core) : State :=
  { ev9 := { svc := { boot := .complete }, parts := [(0, { state := .on })], cores := [(0, x)] } }

/-- A thread that runs the words `ws` from its first, with registers `r`. -/
def runningThread (r : ThreadRegs) (ws : List Dword) : Thread :=
  { regs := { r with state := .running }, code := (List.range ws.length).zip ws, codeLen := ws.length }

/-- Thread 0 of core 0 stands at the control instruction `op` with fields `w`. -/
def atCtl (op : Nat) (w : Ctl) (r : ThreadRegs := {}) (x : Core := {}) : State :=
  withCore { x with threads := (0, runningThread r [ctlWord (BitVec.ofNat 8 op) w]) :: x.threads }

/-- Thread 0 of core 0 stands at the engine instruction `op` with fields `w`. -/
def atEng (op : Nat) (w : Eng) (x : Core := {}) : State :=
  withCore { x with threads := [(0, runningThread {} [engWord0 (BitVec.ofNat 8 op) w, w.w1])] }

/-- A descriptor of rank 2 (R126): base, format, sizes of dimensions 0 and 1, checksum policy. Its stride is 1 line. -/
def descOf (base fmt n0 n1 : Nat) (policy : Nat := 0) : BitVec 256 :=
  BitVec.ofNat 256 (base + fmt * 2 ^ 40 + 2 * 2 ^ 44 + policy * 2 ^ 48 + (n0 - 1) * 2 ^ 64 + (n1 - 1) * 2 ^ 80 + 2 ^ 96
    + 8 * 2 ^ 224)

/-- Handles 1–4: FP32 in the operand buffer, two BF16 rows there, and FP32 in scratch. -/
def handles4 : Table (BitVec 256) :=
  [(1, descOf (obufAddr 0 0x1000) 0 4 1), (2, descOf (obufAddr 0 0) 1 32 1), (3, descOf (obufAddr 0 0x100) 1 32 1),
    (4, descOf (scratchAddr 0 0) 0 16 1)]

/-! ## Witnesses: the instructions of a thread -/

/-- An ADD and an MCLEAR at reset and in a running thread that reads an unready register or finds its queue full. -/
theorem witness_IssueAndGuard :
    (∀ w ∈ [(⟨3, 1, 2, 0, false, 0, 0⟩ : Ctl)], ctlOk 0x08 w = true
      ∧ State.reset.stalls 0 0 [ctlWord 0x08 w] = false ∧ State.reset.issues 0 0 [ctlWord 0x08 w] = false
      ∧ (withCore { threads := [(0, { runningThread {} [ctlWord 0x08 w] with pend := [(1, 2)] })] }).stalls 0 0 [ctlWord 0x08 w] = true)
    ∧ (∀ w ∈ [(⟨0, 0, 0, 0, false, 0, 0, 0, 0⟩ : Eng)], engineOk true 0xC2 w = true
      ∧ State.reset.stalls 0 0 [engWord0 0xC2 w, 0] = false ∧ State.reset.issues 0 0 [engWord0 0xC2 w, 0] = false
      ∧ (atEng 0xC2 w { qMatrix := List.replicate 16 { op := 0xC2, w := w, thread := 0, pc := 0 } }).stalls 0 0 [engWord0 0xC2 w, 0] = true)
    ∧ (ctlOk 0x08 ⟨3, 1, 2, 0, true, 0, 0⟩ = true
      ∧ (atCtl 0x08 ⟨3, 1, 2, 0, true, 0, 0⟩).issues 0 0 [ctlWord 0x08 ⟨3, 1, 2, 0, true, 0, 0⟩] = true
      ∧ guardHolds ((atCtl 0x08 ⟨3, 1, 2, 0, true, 0, 0⟩).regs 0 0) ⟨3, 1, 2, 0, true, 0, 0⟩ = false) := by decide +kernel

/-- Register and immediate operands, a write to g0, and each modifier of MIN and MAX. -/
theorem witness_ArithmeticResults :
    ∀ op ∈ [0x08, 0x09, 0x0A, 0x0B, 0x0C, 0x0D, 0x0E, 0x0F, 0x10, 0x11, 0x12],
      ∀ w ∈ [(⟨3, 1, 2, 0, false, 0, 0⟩ : Ctl), ⟨0, 31, 0, 0, false, 16, 0xFFFFFFFF⟩],
        Executes op 0 0 w (atCtl op w { g := [(1, 5)] }) := by unfold Executes; decide

theorem witness_ArithmeticResults_unsigned :
    Executes 0x11 0 0 ⟨3, 1, 2, 0, false, 1, 0⟩ (atCtl 0x11 ⟨3, 1, 2, 0, false, 1, 0⟩)
      ∧ Executes 0x12 0 0 ⟨3, 1, 2, 0, false, 1, 0⟩ (atCtl 0x12 ⟨3, 1, 2, 0, false, 1, 0⟩) := by unfold Executes; decide

theorem witness_MoveAndPredicateResults :
    ∀ x ∈ [((0x13 : Nat), (⟨4, 5, 0, 0, false, 0, 0xDEADBEEF⟩ : Ctl)), (0x1A, ⟨3, 1, 2, 0, false, 7, 0⟩), (0x22, ⟨3, 1, 0, 0, false, 0, 0⟩),
        (0x20, ⟨3, 1, 0, 0, false, 0, 0⟩), (0x21, ⟨3, 1, 2, 0, false, 0, 0⟩), (0x18, ⟨1, 1, 2, 0, false, 0, 0⟩),
        (0x18, ⟨1, 1, 2, 0, false, 1, 0⟩), (0x18, ⟨1, 1, 2, 0, false, 2, 0⟩), (0x18, ⟨1, 1, 2, 0, false, 3, 0⟩),
        (0x18, ⟨1, 1, 2, 0, false, 4, 0⟩), (0x18, ⟨7, 1, 2, 0, false, 5, 0⟩), (0x19, ⟨1, 1, 2, 0, false, 0, 0⟩),
        (0x19, ⟨1, 1, 2, 0, false, 1, 0⟩), (0x19, ⟨1, 1, 2, 0, false, 2, 0⟩), (0x19, ⟨7, 1, 2, 0, false, 3, 0⟩)],
      Executes x.1 0 0 x.2 (atCtl x.1 x.2) := by unfold Executes; decide

theorem witness_FlowOfControl :
    ∀ x ∈ [((0x00 : Nat), (⟨0, 0, 0, 0, false, 0, 0⟩ : Ctl)), (0x01, ⟨0, 0, 0, 0, false, 0, 0⟩), (0x30, ⟨0, 0, 0, 0, false, 0, 0x1FFF⟩),
        (0x31, ⟨1, 0, 0, 0, false, 0, 0⟩)],
      Executes x.1 0 0 x.2 (atCtl x.1 x.2 { g := [(1, 1)] }) := by unfold Executes; decide

/-- Nothing is on its way on a chip whose one core has no tile under way. -/
theorem calmOf (x : Core) (e : Ev9) (hc : e.cores = [(0, x)]) (hx : x.fillingRun = none) (hb : e.noc.bufs = []) (hs : e.sending = [])
    (hp : ∀ p, p < 8 → e.creditCauses p = []) : e.calm := by
  refine ⟨hb, hs, hp, fun c => ?_⟩
  unfold Ev9.core
  rw [hc]
  by_cases h : (0 : Nat) = c
  · subst h; exact hx
  · have : tget ({} : Core) [(0, x)] c = {} := by simp [tget, tfind, h]
    rw [this]; rfl

/-- The first byte of core 0's operand buffer and of cluster 0's scratch. -/
def accessBases : List Nat := [0x2000000000, 0x1000000000]

/-- Thread accesses in the own operand buffer and in scratch, out of reach (tier memory), and misaligned. -/
theorem witness_ThreadAccessesAndFaults :
    (∀ a ∈ accessBases, ∀ x ∈ [((0x28 : Nat), (⟨3, 1, 0, 0, false, 0, 0⟩ : Ctl)), (0x29, ⟨0, 1, 2, 0, false, 0, 0⟩)],
      Executes x.1 0 0 x.2 (atCtl x.1 x.2 { a := [(1, BitVec.ofNat 40 a)] })
        ∧ ((atCtl x.1 x.2 { a := [(1, BitVec.ofNat 40 a)] }).regs 0 0).ar 1 + x.2.imm.signExtend 40 = BitVec.ofNat 40 a ∧ a % 8 = 0
        ∧ (atCtl x.1 x.2 { a := [(1, BitVec.ofNat 40 a)] }).ev9.threadReaches 0 false a = true)
    ∧ (∀ a ∈ [(0x1000000000 : Nat)], ∀ x ∈ [((0x2A : Nat), (⟨3, 1, 2, 0, false, 0, 0⟩ : Ctl)),
        (0x2A, ⟨3, 1, 2, 0, false, 1, 0⟩), (0x2A, ⟨3, 1, 2, 0, false, 2, 0⟩), (0x2A, ⟨0, 1, 2, 0, false, 8, 0⟩)],
      Executes x.1 0 0 x.2 (atCtl x.1 x.2 { a := [(1, BitVec.ofNat 40 a)] })
        ∧ ((atCtl x.1 x.2 { a := [(1, BitVec.ofNat 40 a)] }).regs 0 0).ar 1 + x.2.imm.signExtend 40 = BitVec.ofNat 40 a
        ∧ (atCtl x.1 x.2 { a := [(1, BitVec.ofNat 40 a)] }).ev9.threadReaches 0 true a = true)
    ∧ placeOf 0x2000000000 = .obuf 0 0 ∧ placeOf 0x1000000000 = .scratch 0 0
    ∧ (∀ x ∈ [((0x28 : Nat), (⟨3, 1, 0, 0, false, 0, 0⟩ : Ctl)), (0x29, ⟨0, 1, 2, 0, false, 0, 0⟩), (0x2A, ⟨3, 1, 2, 0, false, 0, 0⟩)],
      Executes x.1 0 0 x.2 (atCtl x.1 x.2) ∧ (atCtl x.1 x.2).ev9.threadReaches 0 (x.1 == 0x2A) 0 = false
        ∧ Executes x.1 0 0 { x.2 with imm := 1 } (atCtl x.1 { x.2 with imm := 1 } { a := [(1, 0x1000000000)] })
        ∧ (atCtl x.1 { x.2 with imm := 1 } { a := [(1, 0x1000000000)] }).ev9.threadReaches 0 (x.1 == 0x2A) 0x1000000001 = true) := by
  unfold Executes; decide +kernel

/-- An access of each kind that has reached scratch. -/
theorem witness_ThreadAccessesAndFaults_scratch :
    ∀ x ∈ [(⟨0, 0, 0, 0, .load 0 3, [⟨scratchAddr 0 0, [], false⟩]⟩ : ScrAccess), ⟨0, 0, 0, 0, .write, [⟨scratchAddr 0 0, [7], false⟩]⟩,
        ⟨0, 0, 0, 0, .atomic 9 0 (some (0, 3)), [⟨scratchAddr 0 0, [1, 0, 0, 0], false⟩]⟩,
        ⟨0, 0, 0, 0, .atomic 1 0 none, [⟨scratchAddr 0 0, [1, 0], false⟩]⟩],
      ∀ s ∈ [({ withCore {} with ev9 := { (withCore {}).ev9 with scr := [x] } } : State)],
        s.pending = [] ∧ s.ev9.up = true ∧ s.ev9.calm ∧ s.ev9.scr = [x] ∧ x.cluster < 16 ∧ x.units.length = 1 := by
  intro x hx s hs
  obtain rfl := List.mem_singleton.1 hs
  have hp : ∀ p, p < 8 → (withCore {}).ev9.creditCauses p = [] := by decide +kernel
  refine ⟨rfl, rfl, calmOf {} _ rfl rfl rfl rfl hp, rfl, ?_⟩
  revert x hx; decide

/-- A SIGNAL at the counter's limit, a WAIT for 0 and for 2, a TIMER over a timer that expires and over one that does not, and the others. -/
theorem witness_CounterInstructions :
    (∀ x ∈ [((0x38 : Nat), (⟨1, 0, 0, 0, false, 0, 0xFFFF⟩ : Ctl)), (0x39, ⟨1, 0, 0, 0, false, 0, 0⟩), (0x39, ⟨1, 0, 0, 0, false, 0, 2⟩),
        (0x3A, ⟨1, 0, 0, 0, false, 0, 1⟩), (0x3B, ⟨1, 0, 0, 0, false, 7, 1⟩), (0x3C, ⟨3, 1, 0, 0, false, 0, 0⟩)],
      Executes x.1 0 0 x.2 (atCtl x.1 x.2) ∧ Executes x.1 0 0 x.2 (atCtl x.1 x.2 {} { acorns := [(1, { value := 65535 })] }))
    ∧ (∀ s ∈ [atCtl 0x3B ⟨1, 0, 0, 0, false, 7, 1⟩ {} { timers := [(7, { armed := true, ac := 3 })] }],
      Executes 0x3B 0 0 ⟨1, 0, 0, 0, false, 7, 1⟩ s ∧ (tget {} (s.ev9.core 0).timers 7).armed = true
        ∧ (tget {} (s.ev9.core 0).timers 7).beats = 0) := by unfold Executes; decide +kernel

/-- At a beat's end thread 1 waits for 2 of a counter that holds 2, and of one that holds 1. -/
def waits2 (v : Nat) : Core :=
  { threads := [(1, { regs := { state := .waiting, waitAc := 1, waitN := 2 } })], acorns := [(1, { value := BitVec.ofNat 16 v })] }

theorem witness_CounterInstructions_wait :
    ∀ v ∈ [(2 : Nat), 1], ∀ s ∈ [withCore (waits2 v)], s.ev9.core 0 = waits2 v ∧ s.pending = [] ∧ s.ev9.scr = []
        ∧ s.ev9.coreLive 0 = true ∧ ((s.ev9.part (partOf 0)).island (0 % 8)).runs s.ev9.chip.strict = true
        ∧ ((waits2 v).thread 1).regs.state = .waiting ∧ (∀ j, j < 4 → j ≠ 1 → ((waits2 v).thread j).regs.state ≠ .waiting)
        ∧ (((waits2 v).thread 1).regs.waitN.toNat ≤ ((waits2 v).acorn ((waits2 v).thread 1).regs.waitAc.toNat).value.toNat ↔ v = 2) := by
  decide +kernel

theorem witness_CounterInstructions_calm (v : Nat) : (withCore (waits2 v)).ev9.calm :=
  have hp : ∀ p, p < 8 → (withCore {}).ev9.creditCauses p = [] := by decide +kernel
  calmOf (waits2 v) _ rfl rfl rfl rfl hp

theorem witness_DescriptorAndSystemInstructions :
    (∀ x ∈ [((0x40 : Nat), (⟨0, 1, 0, 0, false, 3, 0xFF⟩ : Ctl)), (0x41, ⟨0, 1, 0, 0, false, 7, 0x3F⟩), (0x41, ⟨0, 1, 0, 0, false, 7, 0⟩),
        (0x42, ⟨3, 0, 0, 0, false, 3, 0xFF⟩), (0x50, ⟨3, 0, 0, 0, false, 0, 0⟩), (0x50, ⟨3, 0, 0, 0, false, 1, 0⟩),
        (0x50, ⟨3, 0, 0, 0, false, 2, 0⟩), (0x50, ⟨3, 0, 0, 0, false, 3, 0⟩), (0x50, ⟨3, 0, 0, 0, false, 4, 0⟩),
        (0x48, ⟨3, 1, 0, 0, false, 1, 0⟩), (0x48, ⟨3, 0, 0, 0, false, 16, 2048⟩)], Executes x.1 0 0 x.2 (atCtl x.1 x.2))
      ∧ (withCore {}).ev9.memberOf 0 = none
      ∧ ((withCore {}).ev9.core 0).full .vector = false
      ∧ ((withCore {}).ev9.core 0).qVector = [] := by unfold Executes; decide

/-! ## Witnesses: engine instructions -/

/-- Fields of an engine instruction without loop or signal. -/
def engOf (d a b : BitVec 8) (fmt : BitVec 4 := 0) (w1 : Dword := 0) : Eng := ⟨d, a, b, 0, false, 0, fmt, 0, w1⟩

theorem witness_EngineInstructionsEnqueueAll_matrix :
    ∀ x ∈ [((0xC0 : Nat), engOf 1 2 3, mmCheck 0), (0xC1, engOf 1 0 0, mdrainCheck 0), (0xC2, engOf 0 0 0, fun _ _ => none),
        (0xFC, engOf 0 0 0 0 1, fun _ _ => none)],
      Enqueues x.1 [.matrix] 0 0 x.2.1 (atEng x.1 x.2.1 { handles := handles4 })
        ∧ x.2.2 (atEng x.1 x.2.1 { handles := handles4 }).ev9 (captured x.1 0 0 x.2.1 0 (atEng x.1 x.2.1 { handles := handles4 })) = none := by
  unfold Enqueues; decide

theorem witness_EngineInstructionsEnqueueAll_mover :
    ∀ x ∈ [((0xD0 : Nat), engOf 4 2 0, copyCheck), (0xD1, engOf 4 2 0, redCheck 0), (0xD2, engOf 0 2 0, sendCheck),
        (0xD3, engOf 4 0 0, fillCheck), (0xFC, engOf 0 0 0 0 0x2000000001, fun _ _ => none)],
      Enqueues x.1 [.mover] 0 0 x.2.1 (atEng x.1 x.2.1 { handles := handles4 })
        ∧ x.2.2 (atEng x.1 x.2.1 { handles := handles4 }).ev9 (captured x.1 0 0 x.2.1 0 (atEng x.1 x.2.1 { handles := handles4 })) = none := by
  unfold Enqueues; decide

theorem witness_EngineInstructionsEnqueueAll_vector :
    ∀ x ∈ [((0xE0 : Nat), engOf 3 2 0, vldCheck), (0xE1, engOf 1 3 0, vstCheck), (0xE2, engOf 4 3 0, vredCheck),
        (0xE3, engOf 3 0 0, fun _ _ => none), (0xE4, engOf 0 3 0, fun _ _ => none), (0xE8, engOf 31 1 2, fun _ _ => none),
        (0xE9, engOf 3 1 2, fun _ _ => none), (0xEA, engOf 3 1 2, fun _ _ => none), (0xEB, engOf 3 1 2, fun _ _ => none),
        (0xEC, engOf 3 1 2, fun _ _ => none), (0xED, engOf 3 1 2, fun _ _ => none), (0xEE, engOf 3 1 2 9, fun _ _ => none),
        (0xEF, engOf 3 1 0, fun _ _ => none), (0xF0, engOf 3 1 0, fun _ _ => none), (0xF1, engOf 3 1 0, fun _ _ => none),
        (0xF2, engOf 3 0 0 9, fun _ _ => none), (0xF3, engOf 3 1 0, fun _ _ => none), (0xF4, engOf 7 1 2, fun _ _ => none),
        (0xF5, engOf 1 2 3, fun _ _ => none), (0xFC, engOf 0 0 0 0 0x1000000001, fun _ _ => none)],
      Enqueues x.1 [.vector] 0 0 x.2.1 (atEng x.1 x.2.1 { handles := handles4 })
        ∧ x.2.2 (atEng x.1 x.2.1 { handles := handles4 }).ev9 (captured x.1 0 0 x.2.1 0 (atEng x.1 x.2.1 { handles := handles4 })) = none := by
  unfold Enqueues; decide

/-- An entry of opcode `op` with fields `w` and the descriptors of handles 1, 2 and 3. -/
def entryOf (op : BitVec 8) (w : Eng := engOf 1 2 3) : QEntry :=
  { op := op, w := w, thread := 0, pc := 0, descD := tget 0 handles4 1, descA := tget 0 handles4 2, descB := tget 0 handles4 3 }

theorem witness_FenceAndSyncInstructions :
    Enqueues 0xFD (maskEngines (engOf 0 0 0 0 7)) 0 0 (engOf 0 0 0 0 7) (atEng 0xFD (engOf 0 0 0 0 7))
      ∧ Enqueues 0xFE [] 0 0 (engOf 0 0 0 0 7) (atEng 0xFE (engOf 0 0 0 0 7))
      ∧ (∀ e ∈ maskEngines (engOf 0 0 0 0 7), ((atEng 0xFE (engOf 0 0 0 0 7)).ev9.core 0).queue e = [])
      ∧ Enqueues 0xFE [] 0 0 (engOf 0 0 0 0 7) (atEng 0xFE (engOf 0 0 0 0 7) { qMover := [entryOf 0xD0] })
      ∧ (∃ e ∈ maskEngines (engOf 0 0 0 0 7), ((atEng 0xFE (engOf 0 0 0 0 7) { qMover := [entryOf 0xD0] }).ev9.core 0).queue e ≠ []) := by
  unfold Enqueues; decide

/-- A full queue of each kind, and a named handle that nothing has written. -/
theorem witness_EnqueueStallsAndFaults :
    (∀ x ∈ [((0xC0 : Nat), engOf 1 2 3, Engine.matrix), (0xE8, engOf 3 1 2, .vector), (0xD3, engOf 4 0 0, .mover),
        (0xFC, engOf 0 0 0 0 1, .matrix), (0xFD, engOf 0 0 0 0 4, .mover)],
      ∀ s ∈ [atEng x.1 x.2.1 { qMatrix := List.replicate 16 (entryOf 0xC0), qVector := List.replicate 16 (entryOf 0xE8),
                               qMover := List.replicate 16 (entryOf 0xD3) }],
        engineOk true x.1 x.2.1 = true ∧ s.fetches 0 0 [engWord0 (BitVec.ofNat 8 x.1) x.2.1, x.2.1.w1] = true ∧ x.1 ≠ 0xFE
          ∧ (x.1 = 0xFC → x.2.2 = ballastEngine x.2.1) ∧ (x.1 = 0xFD → x.2.2 ∈ maskEngines x.2.1)
          ∧ 16 ≤ ((s.ev9.core 0).queue x.2.2).length)
    ∧ (∀ x ∈ [((0xC0 : Nat), Engine.matrix, engOf 1 2 3, mmCheck 0, (1 : BitVec 8)), (0xC1, .matrix, engOf 1 0 0, mdrainCheck 0, 1),
        (0xD0, .mover, engOf 1 2 0, copyCheck, 1), (0xD1, .mover, engOf 1 2 0, redCheck 0, 1), (0xD2, .mover, engOf 0 2 0, sendCheck, 2),
        (0xD3, .mover, engOf 1 0 0, fillCheck, 1), (0xE0, .vector, engOf 3 2 0, vldCheck, 2), (0xE1, .vector, engOf 1 3 0, vstCheck, 1),
        (0xE2, .vector, engOf 1 3 0, vredCheck, 1)],
      Enqueues x.1 [x.2.1] 0 0 x.2.2.1 (atEng x.1 x.2.2.1)
        ∧ x.2.2.2.1 (atEng x.1 x.2.2.1).ev9 (captured x.1 0 0 x.2.2.1 0 (atEng x.1 x.2.2.1)) = some (.invalid, x.2.2.2.2)) := by
  unfold Enqueues; decide

/-! ## Witnesses: matrix, mover and vector engine -/

/-- A run of an MM through the handles above, with D's checksum policy. -/
def runOf (policy : Nat) (spans : Bool := false) : Run :=
  { entry := { entryOf 0xC0 with w := { engOf 1 2 3 with w1 := 0 } }, tile := 0, spans := spans, offD := 0, signals := false,
    descD := descOf (obufAddr 0 0x1000) 0 4 1 policy }

/-- A half in a phase, with its run. -/
def halfIn (p : HalfPhase) (policy : Nat := 0) : AccHalf := { phase := p, run := some (runOf policy) }

/-- A tile of each kind that may start. -/
theorem witness_MatrixTiles_start :
    ∀ op ∈ [(0xC0 : BitVec 8), 0xC2, 0xFC], ∀ s ∈ [withCore { qMatrix := [entryOf op] }],
      s.ev9.coreLive 0 = true ∧ (s.ev9.core 0).arrayIdle = true ∧ (s.ev9.core 0).current .matrix = some (entryOf op)
        ∧ (entryOf op).active = false ∧ (s.ev9.core 0).halfFree (tileHalf (entryOf op) 0) = true := by decide +kernel

theorem witness_MatrixTiles_end :
    ∀ s ∈ [withCore { threads := [(0, runningThread {} [])], halfA := halfIn .filling }],
      s.ev9.coreLive 0 = true ∧ ((s.ev9.core 0).half .A).phase = .filling ∧ ((s.ev9.core 0).half .A).run = some (runOf 0)
        ∧ tileIters (runOf 0).entry 0 = [0] ∧ (runOf 0).shown = 0 ∧ (showIterations 0 .A (runOf 0) ([0].drop 0) s).ev9.coreLive 0 = true
        ∧ (walkerA 0 (runOf 0).entry 0).readFault s.ev9 ((walkerA 0 (runOf 0).entry 0).lines.map fun l => l.addr) = none
        ∧ (walkerB 0 (runOf 0).entry 0).readFault s.ev9 ((walkerB 0 (runOf 0).entry 0).lines.map fun l => l.addr) = none := by
  decide +kernel

theorem witness_Drains_start :
    (∀ s ∈ [withCore { halfA := halfIn .drainDue }], s.ev9.coreLive 0 = true ∧ ((s.ev9.core 0).half .A).phase = .drainDue
      ∧ ((s.ev9.core 0).half .A).run = some (runOf 0))
    ∧ (∀ s ∈ [withCore { qMatrix := [entryOf 0xC1] }], s.ev9.coreLive 0 = true ∧ ((s.ev9.core 0).half .A).phase = .idle
      ∧ (s.ev9.core 0).current .matrix = some (entryOf 0xC1) ∧ (s.ev9.core 0).halfFree .A = true ∧ (s.ev9.core 0).arrayIdle = true) := by
  decide +kernel

/-- A half without values, and one whose corner alone is not zero. -/
def cornerHalf (v : Word) (k : Nat := 0) : AccHalf := { halfIn .draining k with cells := if v = 0 then [] else [(33152, v)] }

theorem cornerHalf_drained (v : Word) (p i j : Nat) (h : 257 * i + j ≠ 33152) : (cornerHalf v p).drained i j = 0 := by
  have h' : (33152 : Nat) ≠ 257 * i + j := fun e => h e.symm
  have hc : tget 0 (cornerHalf v p).cells (257 * i + j) = 0 := by
    unfold cornerHalf
    dsimp only
    split
    · rfl
    · simp [tget, tfind, h']
  have hi : (cornerHalf v p).injected = none := rfl
  unfold AccHalf.drained AccHalf.cell
  rw [hi, hc]

/-- Every cell but the corner reads +0. -/
theorem cornerHalf_value (v : Word) (p i j : Nat) (h : 257 * i + j ≠ 33152) :
    Fmt.fp32.value ((cornerHalf v p).drained i j).toNat = Fmt.fp32.value 0 := by rw [cornerHalf_drained v p i j h]; rfl

/-- The sums of +0 alone that the checks of such a half make. -/
def zeros (n : Nat) : List FV := (List.range n).map fun _ => Fmt.fp32.value 0

/-- A row or a column of such a half holds +0 alone. -/
theorem line_zeros (v : Word) (p n : Nat) (f : Nat → Nat × Nat) (h : ∀ k, k < n → 257 * (f k).1 + (f k).2 ≠ 33152) :
    ((List.range n).map fun k => Fmt.fp32.value ((cornerHalf v p).drained (f k).1 (f k).2).toNat) = zeros n :=
  List.map_congr_left fun k hk => cornerHalf_value v p _ _ (h k (List.mem_range.1 hk))

theorem mem_checks (v : Word) (p : Nat) (x : CheckResult) (hx : x ∈ (cornerHalf v p).checks 0x1000) :
    x = checkSum 0x1000 (zeros 128) (Fmt.fp32.value 0) ∨ x = checkSum 0x1000 (zeros 256) (Fmt.fp32.value 0)
      ∨ x = checkSum 0x1000 (zeros 256) (Fmt.fp32.value ((cornerHalf v p).drained 128 256).toNat) := by
  unfold AccHalf.checks at hx
  dsimp only at hx
  rw [List.mem_append, List.mem_append, List.mem_map, List.mem_map, List.mem_singleton] at hx
  rcases hx with (⟨j, hj, e⟩ | ⟨i, hi, e⟩) | e
  · rw [List.mem_range] at hj
    rw [line_zeros v p 128 (fun i => (i, j)) (fun i hi => by dsimp only; omega), cornerHalf_value v p 128 j (by omega)] at e
    exact .inl e.symm
  · rw [List.mem_range] at hi
    rw [line_zeros v p 256 (fun j => (i, j)) (fun j hj => by dsimp only; omega), cornerHalf_value v p i 256 (by omega)] at e
    exact .inr (.inl e.symm)
  · rw [line_zeros v p 256 (fun j => (128, j)) (fun j hj => by dsimp only; omega)] at e
    exact .inr (.inr e)

/-- The value of the corner. -/
theorem cornerHalf_corner (p : Nat) :
    ((cornerHalf 0 p).drained 128 256).toNat = 0 ∧ ((cornerHalf 0x3F800000 p).drained 128 256).toNat = 0x3F800000 := ⟨rfl, rfl⟩

theorem checks_of_zero :
    (checkSum 0x1000 (zeros 128) (Fmt.fp32.value 0)).fails = false
      ∧ (checkSum 0x1000 (zeros 256) (Fmt.fp32.value 0)).fails = false := by decide +kernel

theorem check_of_corner : (checkSum 0x1000 (zeros 256) (Fmt.fp32.value 0x3F800000)).fails = true := by decide +kernel

/-- A comparison finds a mismatch where some check fails, and only there. -/
theorem compare_mismatch (tol : Nat) (h : AccHalf) : (h.compare tol).mismatch = none ↔ ∀ x ∈ h.checks tol, x.fails = false := by
  unfold AccHalf.compare
  generalize h.checks tol = l
  dsimp only
  cases hf : l.find? (·.fails) with
  | none => rw [List.find?_eq_none] at hf; exact ⟨fun _ x hx => Bool.eq_false_iff.2 (hf x hx), fun _ => rfl⟩
  | some f =>
    exact ⟨fun e => (by cases e), fun a => absurd (List.find?_some hf) (Bool.eq_false_iff.1 (a f (List.mem_of_find?_eq_some hf)))⟩

/-- The half without values passes its comparison. -/
theorem cornerHalf_passes (p : Nat) : ((cornerHalf 0 p).found 0x1000).mismatch = none := by
  refine (compare_mismatch _ _).2 fun x hx => ?_
  rcases mem_checks 0 p x hx with e | e | e
  · rw [e]; exact checks_of_zero.1
  · rw [e]; exact checks_of_zero.2
  · rw [e, (cornerHalf_corner p).1]; exact checks_of_zero.2

/-- The half whose corner alone is not zero fails it, and so does one with a failing block check. -/
theorem cornerHalf_fails (p : Nat) : ((cornerHalf 0x3F800000 p).found 0x1000).mismatch ≠ none := by
  have hm : checkSum 0x1000 (zeros 256) (Fmt.fp32.value 0x3F800000) ∈ (cornerHalf 0x3F800000 p).checks 0x1000 := by
    unfold AccHalf.checks
    dsimp only
    rw [line_zeros 0x3F800000 p 256 (fun j => (128, j)) (fun j hj => by dsimp only; omega), (cornerHalf_corner p).2]
    exact List.mem_append_right _ (List.mem_singleton.2 rfl)
  exact fun e => Bool.false_ne_true (((compare_mismatch _ _).1 e _ hm).symm.trans check_of_corner)

theorem blockFail_found (h : AccHalf) (w : Nat × Nat × Nat) (tol : Nat) (e : h.blockFail = some w) : (h.found tol).mismatch = some w := by
  unfold AccHalf.found; rw [e]

/-- A member of troupe 5 in step 3, on partition 0. -/
def member5 : Member := { position := 1, mask := 1, joined := true, run := .running, inStep := true, step := 3 }

/-- A drain that is not compared, one that passes, and one that fails under each policy. -/
theorem witness_Drains_compare :
    (∀ h ∈ [{ cornerHalf 0 with invalid := true }, cornerHalf 0, cornerHalf 0x3F800000 0, cornerHalf 0x3F800000 1, cornerHalf 0x3F800000 2],
      ∀ s ∈ [onEv9 (fun e => { e with members := [(5, member5)] }) (withCore { halfA := h })],
        s.ev9.coreLive 0 = true ∧ (s.ev9.core 0).halfA = h ∧ h.phase = .draining ∧ h.run.isSome = true
          ∧ max 1 (s.ev9.part (partOf 0)).abftTol.toNat = 0x1000 ∧ s.ev9.chip.strict = false
          ∧ s.ev9.memberOf (partOf 0) = some (5, member5))
      ∧ { cornerHalf 0 with invalid := true }.uncompared = true ∧ (cornerHalf 0).uncompared = false
      ∧ (∀ k ∈ [0, 1, 2], (cornerHalf 0x3F800000 k).uncompared = false ∧ descChecksum (runOf k).descD = k ∧ (runOf k).spans = false) := by
  decide +kernel

/-! ## Registers and the mover -/

/-- The host interface is up, and its session has the role `r`. -/
def withHost (r : Role) (s : State) : State :=
  onEv9 (fun e => { e with hif := { e.hif with up := true }, sessPf := { role := r }, sessSmb := { role := r } }) s

theorem witness_RetriesAndInjection :
    (∀ st ∈ [PartState.on, .draining], ∀ s ∈ [onPart 0 (fun p => { p with state := st }) (withCore { halfA := halfIn .retryDue })],
      (s.ev9.core 0).halfA.phase = .retryDue ∧ s.ev9.up = true ∧ (s.ev9.part 0).runs = true ∧ (s.ev9.part 0).curl.held = false
        ∧ (s.ev9.part 0).stopped = false)
    ∧ (∀ s ∈ [withCore { threads := [(0, runningThread {} [])], halfA := halfIn .retryFrozen }],
      ((s.ev9.core 0).half .A).phase = .retryFrozen ∧ ((s.ev9.core 0).half .A).run = some (runOf 0)
      ∧ ((s.ev9.core 0).half (otherHalf .A)).phase ≠ .replayed
      ∧ ((presentTile 0 .A (runOf 0).entry (tileIters (runOf 0).entry 0) (onCore 0 (Core.onHalf .A fun a =>
          { a.clear with held := a.held, run := some (runOf 0) }) s)).ev9.part (partOf 0)).curl.held = false)
    ∧ (withHost .installer (withCore {})).pathUp .pf = true ∧ (withHost .installer (withCore {})).pathRole .pf ≠ .operator
    ∧ (withHost .operator (withCore {})).pathUp .smb0 = true ∧ (withHost .operator (withCore {})).pathRole .smb0 = .operator := by
  decide +kernel

/-- An entry of a mover instruction whose D is handle 4 and A two rows in the operand buffer. -/
def moverEntry (op : BitVec 8) : QEntry :=
  { entryOf op (engOf 4 2 0) with descD := tget 0 handles4 4 }

/-- A flit of partition 0 that came in on port 3. -/
def flitOf (hdr : Dword) : Flit := { hdr := hdr, payload := [], part := 0, port := some 3 }

/-- A copy, a reduction, a send and a fill at their first iteration, and the one iteration of a copy, a fill and a send whose flits have
left. -/
theorem witness_MoverAndFlits :
    (∀ op ∈ [0xD0, 0xD1, 0xD2, 0xD3], ∀ q ∈ [moverEntry (BitVec.ofNat 8 op)], ∀ s ∈ [withCore { qMover := [q] }],
      s.ev9.coreLive 0 = true ∧ (s.ev9.core 0).moverNext = some q ∧ q.active = false ∧ (s.ev9.core 0).begun q = 0
        ∧ (moverSource 0 q 0).readFault s.ev9 ((moverSource 0 q 0).lines.map fun l => l.addr) = none)
    ∧ (∀ op ∈ [0xD0, 0xD3], ∀ b ∈ [(⟨moverEntry (BitVec.ofNat 8 op), 0, [(List.replicate 64 7, List.replicate 4 false)]⟩ : MoverBuf)],
      (withCore { bufs := [b] }).ev9.coreLive 0 = true ∧ ((withCore { bufs := [b] }).ev9.core 0).hasSent b = true
        ∧ (moverWrites 0 b (activity (partOf 0) 7 (15 * (if b.entry.op = 0xD3 then descRowCount b.entry.descD * rowLines b.entry.descD
            else (rowsToLines b.rows).length)) (onCore 0 (fun x => { x with bufs := [] }) (withCore { bufs := [b] })))).2 = true)
    ∧ (∀ b ∈ [(⟨moverEntry 0xD2, 0, []⟩ : MoverBuf)], ∀ x ∈ [({ bufs := [b], sendq := [⟨flitOf 0, 9, 0⟩] } : Core)],
      (withCore x).ev9.coreLive 0 = true ∧ b.entry.op = 0xD2 ∧ ∀ f ∈ x.sendq, ¬ (f.entry = b.entry.id ∧ f.iter = b.iter)) := by
  decide +kernel

/-- An arriving flit for a partition that drains, one whose transfer never began, a first flit through an invalid and one through a valid
descriptor. -/
theorem witness_MoverAndFlits_arrival :
    (∀ h ∈ [0x0000040000000000, 0x0000040180000000, 0x0000090180000000], ∀ f ∈ [flitOf (BitVec.ofNat 64 h)],
      ∀ s ∈ [withCore { handles := handles4, inbox := [f] }], s.ev9.coreLive 0 = true ∧ (s.ev9.core 0).inbox = [f] ∧ f.wait = 0
        ∧ f.h.kind = 0 ∧ (s.ev9.part (partOf 0)).state = .on ∧ f.port = some 3
        ∧ (onPart 0 (fun p => { p with state := .draining }) s).ev9.coreLive 0 = true)
    ∧ (headerOf 0x0000040000000000).first = false ∧ (headerOf 0x0000040180000000).first = true
    ∧ (∀ x ∈ [({ handles := handles4 } : Core)], tfind x.rx (256 * (headerOf 0x0000040000000000).vc + (headerOf 0x0000040000000000).dh) = none
      ∧ (headerOf 0x0000040180000000).seq = 0 ∧ (headerOf 0x0000040180000000).half = true ∧ (headerOf 0x0000040180000000).rsig = false
      ∧ (headerOf 0x0000040180000000).dh = 4 ∧ (headerOf 0x0000090180000000).dh = 9 ∧ (headerOf 0x0000090180000000).first = true
      ∧ descFault (tget 0 x.handles 9) = some .invalid ∧ descFault (tget 0 x.handles 4) = none
      ∧ walkLines (tget 0 x.handles 4) 0 = [⟨0, 0, scratchAddr 0 0⟩] ∧ placeOf (scratchAddr 0 0) = .scratch 0 0
      ∧ (withCore x).ev9.checkLine 0 true true (descBase (tget 0 x.handles 4)) (descLimit (tget 0 x.handles 4)) (scratchAddr 0 0) = .pass) := by
  decide +kernel

/-! ## The vector engine, fences, accesses and waits -/

/-- A vl above and one within VLMAX, at the start, in a pass and at the end, without and with a signal. -/
theorem witness_VectorInstructions :
    (∀ n ∈ [1025, 1024], ∀ x ∈ [({ qVector := [entryOf 0xE8], vec := { vl := BitVec.ofNat 12 n } } : Core)],
      (withCore x).ev9.coreLive 0 = true ∧ x.vectorNext = some (entryOf 0xE8) ∧ (entryOf 0xE8).active = false ∧ x.reachVector = x
        ∧ (n = 1025 → regElems (fmtWide16 (entryOf 0xE8).w.fmt.toNat) < x.vec.vl.toNat)
        ∧ (n = 1024 → x.vec.vl.toNat ≤ regElems (fmtWide16 (entryOf 0xE8).w.fmt.toNat)))
    ∧ (∀ q ∈ [{ entryOf 0xE8 with active := true, vl := 4, passes := 1 }], ∀ x ∈ [({ qVector := [q] } : Core)],
      (withCore x).ev9.coreLive 0 = true ∧ x.vectorNext = some q ∧ q.vl ≠ 0 ∧ q.vl.toNat ≤ regElems (fmtWide16 q.w.fmt.toNat)
        ∧ x.vec.ctrl = 0 ∧ vRnd q.w ≠ 3)
    ∧ (∀ sig ∈ [false, true], ∀ q ∈ [{ entryOf 0xE8 { engOf 1 2 3 with sig := sig } with active := true, vl := 4, passes := 1, done := 1 }],
      ∀ x ∈ [({ qVector := [q] } : Core)], (withCore x).ev9.coreLive 0 = true ∧ q.finished = false ∧ q.active = true ∧ q.w.sig = sig
        ∧ q.passes ≤ q.done ∧ (∀ j ∈ x.qMatrix ++ x.qMover, j.id ≠ q.id)) := by decide +kernel

/-- Modulo 2^32 and signed: 0x7FFFFFFF + 1, and the larger of −1 and 1. -/
theorem test_integerElements :
    ∀ v ∈ [({ regs := [(2048, 0xFFFF), (2049, 0x7FFF), (4096, 1)] } : Vec)],
      (elemResult v { entryOf 0xE8 (engOf 3 1 2 9) with vl := 1 } .nearest 0).bits % 2 ^ 32 = 0x80000000
        ∧ (elemResult { v with regs := [(2048, 0xFFFF), (2049, 0xFFFF), (4096, 1)] } { entryOf 0xEC (engOf 3 1 2 9) with vl := 1 } .nearest 0).bits
          = 1 := by decide +kernel

/-- A mover whose next iteration writes from line `a` on through D. -/
def moverAt (a : Nat) : Core := { bufs := [⟨{ moverEntry 0xD0 with descD := descOf a 0 16 1 }, 0, []⟩] }

/-- Fences, ballast, and a line of handle D in the operand buffer, in scratch, in tier memory (free, in a bank that refreshes, under a seal), and
beyond the limit. -/
theorem witness_FencesAccessesAndWaits :
    (∀ x ∈ [({ qMover := [{ entryOf 0xFD with id := 7 }] } : Core)], (withCore x).ev9.coreLive 0 = true ∧ x.readyFence = some 7)
    ∧ (∀ x ∈ [({ qMover := [{ entryOf 0xFC with active := true }] } : Core)], (withCore x).ev9.coreLive 0 = true
      ∧ x.current .mover = some { entryOf 0xFC with active := true } ∧ x.queue .mover = [{ entryOf 0xFC with active := true }])
    ∧ (∀ x ∈ [({ halfA := halfIn .filling } : Core)], ∀ a ∈ [obufAddr 0 0x1000], ∃ w, accessWalker 0 x .matrix .D a = some w
      ∧ (LineKind.write (List.replicate 64 7) 15).removed = false ∧ w.check (withCore x).ev9 true a = .pass
      ∧ reduction? x .matrix = none ∧ placeOf a = .obuf 0 0x1000 ∧ w.check (withCore x).ev9 true (a + 512) = .bounds .beyondLimit)
    ∧ (∀ x ∈ [({ halfA := halfIn .filling } : Core)], ∃ w, accessWalker 0 x .matrix .A (obufAddr 0 0) = some w
      ∧ LineKind.read.removed = false ∧ w.check (withCore x).ev9 false (obufAddr 0 0) = .pass)
    ∧ (∀ s ∈ [withCore (moverAt (scratchAddr 0 64))], s.ev9.coreLive 0 = true
      ∧ ∃ w, accessWalker 0 (s.ev9.core 0) .mover .D (scratchAddr 0 64) = some w ∧ w.check s.ev9 true (scratchAddr 0 64) = .pass
        ∧ placeOf (scratchAddr 0 64) = .scratch 0 64)
    ∧ (∀ s ∈ [onEv9 (fun e => { e with banks := [(0, { busy := true })] }) (withCore (moverAt 0))], s.ev9.coreLive 0 = true
      ∧ ∃ w, accessWalker 0 (s.ev9.core 0) .mover .D 0 = some w ∧ w.check s.ev9 true 0 = .pass ∧ s.ev9.refreshing 0 = some (0, 0))
    ∧ (∀ s ∈ [onPart 0 (fun p => { p with tier := { sealed := true } }) (withCore { moverAt 0 with sealValid := true, sealLimit := 1 })],
        s.ev9.coreLive 0 = true ∧ s.ev9.refreshing 0 = none
          ∧ ∃ w, accessWalker 0 (s.ev9.core 0) .mover .D 0 = some w ∧ w.check s.ev9 true 0 = .sealed) := by decide +kernel

/-- A timer that has run out, and a thread that has waited for the longest time allowed, alone for 8 beats. -/
theorem witness_FencesAccessesAndWaits_waits :
    (∀ i ∈ [0, 7], ∀ x ∈ [({ timers := [(i, { armed := true, ac := 3 })] } : Core)],
      (withCore x).ev9.coreLive 0 = true ∧ (tget {} x.timers i).armed = true ∧ (tget {} x.timers i).beats = 0)
    ∧ (∀ l ∈ [0, 300], ∀ x ∈ [({ threads := [(1, { regs := { state := .waiting, waitAc := 1 }, waitBeats := 300 })], lockBeats := 8
                                 waitLimit := BitVec.ofNat 32 l } : Core)],
      (withCore x).ev9.coreLive 0 = true ∧ (withCore x).ev9.lockCond 0 = true ∧ 8 ≤ x.lockBeats ∧ ((withCore x).regs 0 1).state = .waiting
        ∧ max 256 x.waitLimit.toNat ≤ (x.thread 1).waitBeats.toNat) := by decide +kernel

/-! ## Witnesses: steps, clocks and curls -/

/-- Partition 0 of a running chip, as `x`. -/
def withPart (x : Part) (s : State := withCore {}) : State := onPart 0 (fun _ => x) s

/-- The member of troupe 5. -/
def withMember (m : Member) (s : State := withCore {}) : State := onEv9 (fun e => { e with members := [(5, m)] }) s

/-- An image for two members; `entry` and `exit` say what its chips are. -/
def imageOf (entry exit : Bool) : Image :=
  { members := 2, stepLength := 1000, stepBatch := 1, mode := 0, startPace := 7, admissionCut := 0
    table := [⟨1, entry, exit, false, 0, 4⟩, ⟨1, entry, exit, false, 0, 4⟩]
    cueTree := [⟨0xFFFF, 0, 0, 0⟩, ⟨0, 3, 2, 0⟩], hops := [], routes := [], cycleSteps := 1, carousel := [⟨0, 0, 0⟩], gate := false
    seed := 0, digestsOk := true, sections := 5 }

theorem witness_WholeMachine :
    State.reset.inv = true ∧ State.reset.pending = []
      ∧ (Instr.controlNop 0 0 ⟨0, 0, 0, 0, false, 0, 0⟩).wellFormed = true ∧ (Instr.controlNop 0 0 ⟨0, 0, 0, 0, false, 0, 0⟩).ofNw8 = false
      ∧ (Instr.feedReversedClear).ofNw8 = true := by decide

theorem witness_WholeMachine_steps :
    exec (.controlNop 0 0 ⟨0, 0, 0, 0, false, 0, 0⟩) State.reset = .next State.reset
      ∧ exec .feedReversedClear State.reset = .next State.reset
      ∧ step { State.reset with pending := [.feedReversedClear] } = .next State.reset := ⟨rfl, rfl, rfl⟩

/-- Nothing is on its way on the chip of one idle core. -/
theorem witness_EmptyQueuePassesOneBeat : (withCore {}).pending = [] ∧ (withCore {}).ev9.calm ∧ (withCore {}).ev9.scr = []
    ∧ (withCore {}).ev9.up = true ∧ (withCore {}).ev9.live 0 = true :=
  ⟨rfl, calmOf {} _ rfl rfl rfl rfl (by decide +kernel), rfl, rfl, rfl⟩

theorem witness_EmptyQueuePassesOneBeat_curled :
    ∀ s ∈ [withPart { state := .on, curl := { curled := true } }], s.pending = [] ∧ s.ev9.calm ∧ s.ev9.scr = [] ∧ s.ev9.up = true
      ∧ (s.ev9.part 0).runs = true ∧ (s.ev9.part 0).curl.curled = true ∧ (s.ev9.part 0).curl.held = false := by
  intro s hs
  obtain rfl := List.mem_singleton.1 hs
  exact ⟨rfl, calmOf {} _ rfl rfl rfl rfl (by decide +kernel), rfl, rfl, rfl, rfl, rfl⟩

/-- Partition 0 with a curl, at beat `b` of its step. -/
def withCurl (c : Curl) (b : Nat := 0) : State := withPart { state := .on, curl := c, clk := { stepBeat := BitVec.ofNat 32 b } }

/-- An item due, with and without an entry for it; its freeze 16 beats later, its arrival early, within 16 beats and late; a curl that
nothing holds. -/
theorem witness_CurlsOfAbsentItems :
    (withCore {}).ev9.live 0 = true
      ∧ (∀ s ∈ [onEv9 (fun e => { e with noc := { slots := [(256, 0xC2000000)] } }) (withCore {})],
        s.ev9.live 0 = true ∧ s.ev9.dueEntry 0 0 0 1 = some 0xC2000000 ∧ s.ev9.dueEntry 0 0 0 2 = none)
      ∧ (∀ s ∈ [withCurl { request := true, absent := [⟨.mover 0, 100, none⟩] } 116],
        s.ev9.live 0 = true ∧ (s.ev9.part 0).curl.absent = [⟨.mover 0, 100, none⟩] ∧ 100 + 16 ≤ (s.ev9.part 0).clk.stepBeat.toNat
          ∧ (s.ev9.part 0).curl.absentOf (.mover 0) 100 = some ⟨.mover 0, 100, none⟩ ∧ (s.ev9.part 0).curl.held = false
          ∧ (s.ev9.arrivalTag ⟨.mover 0, 100, none⟩ (some 2)).2 = true ∧ (s.ev9.part 0).curl.curled = false
          ∧ (s.ev9.part 0).clk.stepBeat.toNat ≤ 100 + 16)
      ∧ (∀ s ∈ [withCurl { curled := true, absent := [⟨.mover 0, 100, none⟩] } 116],
        (s.ev9.part 0).curl.absentOf (.mover 0) 100 = some ⟨.mover 0, 100, none⟩ ∧ (s.ev9.part 0).curl.held = false
          ∧ (s.ev9.arrivalTag ⟨.mover 0, 100, none⟩ none).2 = true ∧ (s.ev9.part 0).curl.curled = true)
      ∧ (∀ s ∈ [withCurl { curled := true, lastTag := some 2, clearFor := 16 }],
        (s.ev9.part 0).curl.curled = true ∧ (s.ev9.part 0).curl.held = false ∧ (s.ev9.part 0).curl.absent = []
          ∧ (s.ev9.part 0).curl.causes = [] ∧ 16 ≤ (s.ev9.part 0).curl.clearFor ∧ (s.ev9.part 0).runs = true) := by decide +kernel

/-- A flit of partition 0 on VC 1 that was born here. -/
def localFlit : Flit := { hdr := 0x10000000, payload := [], part := 0 }

/-- A curl that has lasted for its limit, the lack of a credit of each kind, a member that waits for its cue, and droops. -/
theorem witness_CurlsOfOtherCauses :
    (∀ c ∈ [({ curled := true, absent := [⟨.mover 0, 100, none⟩], lasted := 0x01000000 } : Curl), { curled := true, causes := [.cue], lasted := 0x01000000 }],
      ∀ s ∈ [withCurl c], (s.ev9.part 0).curl.curled = true ∧ (s.ev9.part 0).curl.held = false
        ∧ ((s.ev9.part 0).curl.absent ≠ [] ∨ (s.ev9.part 0).curl.causes ≠ [])
        ∧ max 4096 s.ev9.chip.curlLimit.toNat ≤ (s.ev9.part 0).curl.lasted)
    ∧ (∀ of ∈ [CreditOf.port 2, .part 1], ∀ s ∈ [onEv9 (fun e => { e with
          noc := { e.noc with bufs := [(bufIndex 0 4 1 0, [localFlit])], xeab := [(5, 512)], creditWait := [(5, 16)] } })
        (onPort 2 (fun x => { x with spent := [(1, 512)], creditWait := [(1, 16)] }) (withCurl {}))],
      s.ev9.live 0 = true ∧ s.ev9.hasCredit of 1 = false ∧ s.ev9.creditDue of 1 = true ∧ s.ev9.sendsOn 0 1 = true)
    ∧ (∀ m ∈ [{ member5 with inStep := false, waited := 17 }], (withMember m).ev9.member? 5 = some m ∧ m.run = .running ∧ m.position ≠ 0
      ∧ m.cueDue = none ∧ m.cueCurl = false ∧ 16 < m.waited ∧ ∀ q ∈ m.parts, ((withMember m).ev9.part q).free = true)
    ∧ (∀ c ∈ [[CurlCause.droop], [.droop, .cue]],
      ∀ s ∈ [withPart { state := .on, clk := { droopOver := 16 }, curl := { curled := true, causes := c } }],
        CurlCause.droop ∈ (s.ev9.part 0).curl.causes ∧ (s.ev9.part 0).curl.absent = [] ∧ (s.ev9.part 0).curl.curled = true
          ∧ (s.ev9.part 0).curl.held = false ∧ 16 ≤ (s.ev9.part 0).clk.droopOver)
    ∧ islandAt (.core 9) = (1, 1) ∧ islandAt (.cluster 3) = (1, 9) ∧ (withCurl {}).ev9.chip.strict = false
    ∧ (∀ s ∈ [onEv9 (fun e => { e with chip := { strict := true } }) (withCurl {})], s.ev9.chip.strict = true ∧ (s.ev9.part 0).state ≠ .off
      ∧ (s.ev9.part 0).runs = true ∧ (s.ev9.part 0).curl.held = false ∧ (s.ev9.part 0).stopped = false) := by decide +kernel

/-- TRCLK present and lost, a glide without and with a brake curl; a counter, its latched half, and a register that is none. -/
theorem witness_ClockAndCurlRegisters :
    (onEv9 (fun e => { e with chip := { trPresent := true } }) (withCore {})).ev9.chip.trPresent = true
    ∧ (∀ s ∈ [onEv9 (fun e => { e with chip := { trHoldover := true }, ports := [(3, { wants := some .full })] }) (withCore {})],
      s.ev9.chip.trPresent = false ∧ s.ev9.chip.trHoldover = true ∧ (s.ev9.port 3).wants = some .full ∧ (s.ev9.port 2).wants = none)
    ∧ (∀ c ∈ [[], [CurlCause.brake]], ∀ s ∈ [withPart { state := .on, clk := { glide := true }, curl := { curled := true, causes := c } }],
      (s.ev9.part 0).clk.glide = true ∧ s.ev9.up = true ∧ s.ev9.memberOf 0 = none)
    ∧ (∀ r ∈ [Role.operator, .installer], ∀ p ∈ [RegPath.pf, .smb0], (withHost r (withCore {})).pathUp p = true
      ∧ ((withHost r (withCore {})).pathRole p = .operator ↔ r = .operator))
    ∧ (∀ s ∈ [onEv9 (fun e => { e with chip := { latchPf := some ⟨0x1108, 7⟩ } }) (withHost .operator (withCore {}))],
      s.pathUp .pf = true ∧ ev9Read s 0x1108 = some ⟨true, 0⟩ ∧ s.latch .pf = some ⟨0x1108, 7⟩ ∧ 0x1108 % 8 = 0
        ∧ ev9Read s 0x2000 = some ⟨false, 0x01000000⟩) := by decide +kernel

/-! ## Witnesses: troupes -/

/-- A good cue of troupe 5: step 4, pace 2. Its CRC-32 is that of its first 12 bytes. -/
def cueOf (stop : Byte) : List Byte :=
  let l : List Byte := [5, 0, 4, 0, 0, 0, 0, 0, 2, stop, 0, 0]
  l ++ leBytes 4 (crc32 l).toNat

/-- The member of troupe 5 on partition 0, which owns port 3. -/
def withPort3 (m : Member) : State := withMember m (withPart { state := .on, ports := 8 })

/-- A member at its step's end: its cue is waited for, it was the last before a STOP, it is the ringmaster, without and with STOP ordered;
a cue of its troupe without and with STOP, one of another, and one that is broken. -/
theorem witness_StepsAndCues :
    (∀ m ∈ [member5, { member5 with stopping := some 4 }, { member5 with position := 0 }, { member5 with position := 0, stopNext := true }],
      ∀ s ∈ [withMember m], s.ev9.member? 5 = some m ∧ m.run = .running ∧ m.inStep = true
        ∧ (∀ q ∈ m.parts, s.ev9.live q = true ∧ m.stepLength ≤ (s.ev9.part q).clk.stepBeat.toNat) ∧ m.entryOf = none ∧ m.cues = []
        ∧ (m.position ≠ 0 → (m.stopping = none ∨ m.stopping = some (m.step + 1))))
    ∧ (withPort3 member5).forTroupe 3 (parseCue (cueOf 0)).troupe = some member5
    ∧ (withPort3 member5).ev9.member? (parseCue (cueOf 0)).troupe.toNat = some member5
    ∧ cueCrcOk (cueOf 0) = true ∧ cueCrcOk (cueOf 1) = true ∧ (parseCue (cueOf 0)).stop = false ∧ (parseCue (cueOf 1)).stop = true
    ∧ (withPort3 member5).forTroupe 2 (parseCue (cueOf 0)).troupe = none ∧ cueCrcOk (List.replicate 16 1) = false := by decide +kernel

theorem witness_ControlMessages :
    (withPort3 member5).forTroupe 3 7 = none
    ∧ (∀ m ∈ [{ member5 with position := 0, run := .starting, image := some (imageOf true false) },
        { member5 with position := 0, ready := [1] }, { member5 with position := 0 }, { member5 with prepared := some 2, preparedAge := 20 }],
      (withPort3 m).forTroupe 3 5 = some m ∧ (withPort3 m).ev9.member? 5 = some m
        ∧ (m.run = .starting → m.ready.contains 1 = false ∧ ∃ i ∈ [0], i < (imageOf true false).members ∧ i ≠ 1 ∧ m.ready.contains i = false))
    ∧ 1 < (imageOf true false).members := by decide +kernel

/-- The slot of a stream of troupe 5. -/
def slotOf (st : SlotState) : StreamSlot := { state := st, troupe := 5, lane := 0, identity := 0x100000001, history := [⟨4, 0, 0, true⟩] }

theorem witness_AdmissionAndFeeds :
    (∀ m ∈ [{ member5 with image := some (imageOf true false) }],
      ∀ s ∈ [onEv9 (fun e => { e with hif := { slots := [(9, slotOf .pending)] } }) (withMember m)],
        s.ev9.member? 5 = some m ∧ m.entryOf = some ⟨1, true, false, false, 0, 4⟩ ∧ m.run = .running ∧ m.inStep = true ∧ m.cutDone = false
          ∧ (∀ q ∈ m.parts, s.ev9.live q = true ∧ m.cutBeat ≤ (s.ev9.part q).clk.stepBeat.toNat) ∧ m.cutsBefore ≤ m.step.toNat
          ∧ s.ev9.slotsOf 5 .releasing = []
          ∧ (s.ev9.candidates 5).zip (s.ev9.freeLanes 5 ⟨1, true, false, false, 0, 4⟩) = [(9, 0)])
    ∧ (∀ s ∈ [onEv9 (fun e => { e with hif := { slots := [(9, slotOf .bound)] } }) (withMember member5)],
      (s.ev9.hif.slots.find? fun g => g.2.troupe.toNat == 5 && (g.2.state == .bound || g.2.state == .releasing)
        && !g.2.orphan && g.2.lane.toNat == 0) = some (9, slotOf .bound)
      ∧ ((slotOf .bound).history.reverse.find? fun x => x.fetched && decide (member5.step.toNat ≤ x.step.toNat)
          && (tfind member5.feed (512 * (x.step.toNat % 2) + 0)).isNone) = some ⟨4, 0, 0, true⟩) := by decide +kernel

/-! ## Witnesses: memory refresh, BAR2, registers and rings -/

/-- Core 0's first bank at refresh time `now` of its partition. -/
def withBank (b : Bank) (now : Nat) : State :=
  onEv9 (fun e => { e with banks := [(0, b)] }) (withPart { state := .on, tier := { clock := now } })

/-- An idle bank, fresh and with an old row; an operation that has run its length; a window at its start and at its end. -/
theorem witness_RefreshAndBands :
    (∀ s ∈ [withBank { row := 7 } (2 ^ 40)], s.ev9.up = true ∧ s.ev9.carousel 0 = false ∧ (s.ev9.bank 0).busy = false
      ∧ 7 * retention s.ev9.therm.band.toNat ≤ 8 * ((s.ev9.part (partOf 0)).tier.clock - tget 0 (s.ev9.bank 0).last (s.ev9.bank 0).row))
    ∧ (∀ s ∈ [withBank { busy := true, row := 383, since := 7 } 63007], (s.ev9.bank 0).busy = true
      ∧ (s.ev9.bank 0).since + 63000 ≤ (s.ev9.part (partOf 0)).tier.clock
      ∧ placeOf (rowAddr 0 0 0 383 (5 % 128)) = .tier 0 (rowAddr 0 0 0 383 (5 % 128) % 0x4000000))
    ∧ (∀ s ∈ [onEv9 (fun e => { e with chip := { strict := true } }) (withMember { member5 with image := some (imageOf true false) })],
      s.ev9.carousel 0 = true ∧ s.ev9.live (partOf 0) = true ∧ s.ev9.planned 0 = true ∧ (s.ev9.core 0).window = false)
    ∧ (∀ x ∈ [({ window := true } : Core)], x.window = true ∧ x.windowLeft = 0)
    ∧ (∀ x ∈ [((1 : Nat), (65 : Nat), (70 : Int)), (2, 80, 85), (3, 90, 95)],
      ∀ h ∈ [({ band := BitVec.ofNat 2 x.1, tjMax := BitVec.ofNat 8 x.2.1, bandCool := 1000 } : Therm)],
      h.bandFloor.toNat < h.band.toNat ∧ h.band.toNat = x.1 ∧ 1000 ≤ h.bandCool ∧ (h.tjMax.toNat : Int) + 5 ≤ x.2.2)
    ∧ (withHost .installer (withCore {})).pathRole .smb0 ≠ .operator ∧ (withHost .operator (withCore {})).pathRole .pf = .operator := by
  decide +kernel

/-- BAR2 ranges in tier memory and in scratch; both roles on each carrier. -/
theorem witness_WindowAndRegisterWrites :
    (∀ s ∈ [withHost .installer (withCore {})], s.ev9.hostUp = true ∧ s.ev9.sessPf.role ≠ .operator
      ∧ bar2Range 0x2FFFFF8 8 = true ∧ bar2Addr 0x2FFFFF8 = some 0x2FFFFF8 ∧ placeOf 0x2FFFFF8 = .tier 0 0x2FFFFF8
      ∧ (∀ k, k < 8 → s.ev9.sealed (0x2FFFFF8 + k) = false)
      ∧ bar2Range 0x3000000 8 = true ∧ ∃ a, bar2Addr 0x3000000 = some a ∧ placeOf a = .scratch 0 0)
    ∧ (∀ s ∈ [withHost .operator (withCore {})], s.ev9.hostUp = true ∧ s.ev9.sessPf.role = .operator ∧ s.pathUp .pf = true
      ∧ s.pathUp .smb0 = true)
    ∧ (∀ r ∈ [Role.operator, .installer], ∀ s ∈ [onNw8 (fun w => { w with running := true, sessHost := { role := r } }) State.reset],
      s.pathUp .nwHost = true ∧ (s.pathRole .nwHost = .operator ↔ r = .operator)) := by decide +kernel

/-- A ring that is enabled or not, with and without a held reply, whose doorbell makes one entry known that can be read or cannot. -/
theorem witness_RingRegisters :
    (∀ s ∈ [onEv9 (fun e => { e with hif := { e.hif with rings := [(65536, { enable := true })] } }) (withHost .installer (withCore {}))],
      s.pathUp .pf = true ∧ ownsRing .pf 65536 = true ∧ 2 ^ max 4 (s.ev9.ring 65536).sqOrder.toNat ≤ 16
        ∧ (s.ev9.ring 65536).enable = true ∧ (s.ev9.ring 65536).distance 1 = [pktOf [1]].length
        ∧ ([] : List Packet).length < (s.ev9.ring 65536).distance 1 ∧ (s.ev9.ring 65536).heldReplies = [])
    ∧ (∀ s ∈ [withHost .installer (withCore {})], (s.ev9.ring 65536).enable = false ∧ s.pathUp .pf = true)
    ∧ (∀ x ∈ [({ tag := 1, status := 0, final := false, result := [] } : Reply)],
      ∀ s ∈ [onEv9 (fun e => { e with hif := { e.hif with rings := [(65536, { enable := true, heldReplies := [x] })] } })
        (withHost .installer (withCore {}))], (s.ev9.ring 65536).heldReplies = [x] ∧ x.interrupt = false
          ∧ ringNext (s.ev9.ring 65536).cqOrder (s.ev9.ring 65536).cqTail.toNat ≠ 5)
    ∧ (1 : Dword).getLsbD 0 = true ∧ (0 : Dword).getLsbD 0 = false
    ∧ (∀ s ∈ [onEv9 (fun e => { e with hif := { up := true, vfEnable := true, numVfs := 1, rings := [(0, { enable := true })] } }) (withCore {})],
      s.pathUp (.vf 0) = true ∧ ownsRing (.vf 0) 0 = true ∧ (s.ev9.ring 0).enable = true ∧ s.pathUp .pf = true) := by decide +kernel

/-! ## Witnesses: ports -/

/-- Port 3 as `x`. -/
def withPort (x : Port) (s : State := withCore {}) : State := onPort 3 (fun _ => x) s

/-- A plan entry: neighbour position, accepted ports, least width, level 3. -/
def planTo (pos width : Nat) : BitVec 128 := BitVec.ofNat 128 (pos + 0xFFF * 2 ^ 16 + width * 2 ^ 40 + 3 * 2 ^ 42)

/-- What training found, with good lanes and the first lane's findings. -/
def trained (good lane : Nat) : TrainResult := ⟨BitVec.ofNat 8 good, BitVec.ofNat 64 lane, [0, 1, 2, 3, 4, 5, 6, 7], 0, 3, 5, 7⟩

theorem witness_PortsTrain :
    (∀ st ∈ [PortState.linked, .refused, .down], ((withPort { state := st }).ev9.port 3).state = st ∧ (withPort { state := st }).ev9.up = true)
    ∧ (∀ s ∈ [onEv9 (fun e => { e with chip := { trPresent := true } }) (withPort { state := .training, plan := planTo 7 2 })],
      (s.ev9.port 3).state = .training ∧ s.ev9.chip.trPresent = true ∧ planWidth (s.ev9.port 3).plan ≤ 2 ∧ (s.ev9.port 3).retrain = false
        ∧ goodLanes (trained 0xFF 0) = 0xFF ∧ laneGroup (goodLanes (trained 0 0)) = none
        ∧ laneGroup (goodLanes (trained 0x0F 0)) = some (1, 0x0F) ∧ 1 < planWidth (s.ev9.port 3).plan ∧ (s.ev9.port 3).attempts < 3
        ∧ (trained 0xFF 1).lane.extractLsb' (8 * 0) 4 ≠ 0)
    ∧ (∀ x ∈ [({ state := .training, retrain := true } : Port), { state := .training, attempts := 3 }],
      ((withPort x).ev9.port 3).state = .training
        ∧ (((withPort x).ev9.port 3).retrain = true ∨ 3 ≤ ((withPort x).ev9.port 3).attempts))
    ∧ (∀ r ∈ [Role.operator, .installer], (withHost r (withPort {})).pathUp .smb0 = true
      ∧ ((withHost r (withPort {})).pathRole .smb0 = .operator ↔ r = .operator))
    ∧ (∀ s ∈ [withHost .installer (withPort { state := .active, enable := true, plan := planTo 7 0 })], (s.ev9.port 3).state ≠ .disabled
      ∧ (s.ev9.port 3).state ≠ .fenced ∧ (s.ev9.port 3).enable = true ∧ planUsed (s.ev9.port 3).plan = true ∧ s.ev9.chip.strict = false
      ∧ s.pathUp .pf = true) := by decide +kernel

/-- An identity of troupe 5. -/
def idOf (pos : Nat) : Identity := ⟨5, BitVec.ofNat 10 pos, 11, false, 3⟩

/-- A LINKED port without a member, with a matching, a wrong and a changed neighbour, and a join that lacks it. -/
theorem witness_PortsCarry_identities :
    (∀ s ∈ [withPort { state := .linked }], (s.ev9.port 3).state = .linked ∧ s.ev9.up = true ∧ s.ev9.portMember 3 = none)
    ∧ (∀ s ∈ [withPort { state := .linked, plan := planTo 7 0 } (withPort3 member5)],
      (s.ev9.port 3).state = .linked ∧ (s.ev9.port 3).known = none ∧ s.ev9.portMember 3 = some (5, member5) ∧ planPos (s.ev9.port 3).plan = 7
        ∧ (idOf 7).position.toNat = 7 ∧ (idOf 8).position.toNat ≠ 7 ∧ planAccepts (s.ev9.port 3).plan 11 = true
        ∧ planLevel (s.ev9.port 3).plan = 3 ∧ s.ev9.roleTaken 3 3 = false ∧ s.ev9.chip.strict = false ∧ planGroup (s.ev9.port 3).plan = 0)
    ∧ (∀ st ∈ [PortState.linked, .active], ∀ s ∈ [withPort { state := st, known := some (identityBits (idOf 7)) } (withPort3 member5)],
      (s.ev9.port 3).state = st ∧ s.ev9.portMember 3 = some (5, member5) ∧ identityBits (idOf 7) ≠ identityBits (idOf 8))
    ∧ (∀ s ∈ [withPort { state := .linked, plan := planTo 7 0 } (withPort3 { member5 with joined := false })],
      ((s.ev9.plannedPorts { member5 with joined := false }).find? fun k => !(s.ev9.port k).state.inRole) = some 3) := by decide +kernel

/-- Codewords and replays of a port with and without replay; flits at a fenced port and for a core of the member; credits, and a curl for
want of one. -/
theorem witness_PortsCarry :
    (∀ s ∈ [withPort { state := .active }], (s.ev9.port 3).state.inRole = true ∧ s.ev9.hasReplay 3 = true ∧ (s.ev9.port 3).failing = none
      ∧ s.ev9.portMember 3 = none ∧ s.ev9.portOwner 3 = none
      ∧ ∀ p, p < 8 → (s.ev9.part p).curl.causes = [])
    ∧ (∀ m ∈ [member5], ∀ s ∈ [onEv9 (fun e => { e with chip := { strict := true } }) (withPort { state := .active, plan := planTo 7 0 } (withPort3 m))],
      s.ev9.hasReplay 3 = false ∧ s.ev9.portOwner 3 = some 0 ∧ s.ev9.memberOf 0 = some (5, m) ∧ m.run = .running)
    ∧ (withPort { state := .fenced }).ev9.port 3 = { state := .fenced } ∧ (headerOf 0x0040000000000000).vc < 4
    ∧ (∀ s ∈ [withPort { state := .active } (withPort3 member5)], s.ev9.portMember 3 = some (5, member5) ∧ (s.ev9.port 3).state = .active
      ∧ (headerOf 0x0040000000000000).dpos = member5.position.toNat ∧ (headerOf 0x0040000000000000).kind = 0
      ∧ maskBit member5.mask (partOf (headerOf 0x0040000000000000).dcore) = true
      ∧ (s.ev9.part (partOf (headerOf 0x0040000000000000).dcore)).state = .on ∧ s.ev9.portCode 3 = none)
    ∧ (∀ s ∈ [withPort { spent := [(1, 512)] } (withCurl { curled := true, causes := [.credit (.port 3) 1] })], s.ev9.up = true
      ∧ (s.ev9.part 0).curl.causes = [.credit (.port 3) 1] ∧ tget 0 (s.ev9.port 3).spent 1 - 1 < 512) := by decide +kernel

/-- Port 3 at edge beat `now`. -/
def atEdge (now : Nat) (x : Port) : State := onEv9 (fun e => { e with noc := { edgeBeat := now } }) (withPort x)

/-- An ACTIVE port that may sleep and one that may not; requests that cross, are accepted or refused; a port asleep, whose residency has
passed or is waived, without and with a failed lane. -/
theorem witness_PortsSleep :
    (∀ s ∈ [withHost .operator (atEdge 0x10000 { state := .active, autoSleep := true })], s.ev9.up = true ∧ s.pathUp .pf = true
      ∧ (s.ev9.port 3).state = .active ∧ (s.ev9.port 3).sleepPhase = .idle ∧ s.ev9.maySleep 3 .ls1 = true ∧ s.ev9.maySleep 3 .ls2 = true
      ∧ (s.ev9.port 3).autoSleep = true ∧ s.ev9.queuedFor 3 = false ∧ (s.ev9.port 3).replayLeft = 0
      ∧ (s.ev9.port 3).lastUse + (s.ev9.port 3).idle.toNat ≤ s.ev9.noc.edgeBeat ∧ (s.ev9.port 3).state.inRole = true)
    ∧ (∀ x ∈ [({ state := .active } : Port), { state := .active, autoSleep := true, replayLeft := 9 }],
      ((withPort x).ev9.port 3).autoSleep = false ∨ ((withPort x).ev9.port 3).replayLeft ≠ 0)
    ∧ (∀ s ∈ [withPort { state := .active, plan := BitVec.ofNat 128 (7 + 2 * 2 ^ 42) }], s.ev9.maySleep 3 .ls2 = false)
    ∧ (∀ st ∈ [PortState.ls1, .ls2], ∀ ph ∈ [SleepPhase.idle, .waking], ∀ w ∈ [false, true],
      ∀ s ∈ [onEv9 (fun e => { e with chip := { trPresent := true } }) (atEdge 300000 { state := st, sleepPhase := ph, waived := w })],
      (s.ev9.port 3).state = st ∧ (s.ev9.port 3).sleepPhase = ph ∧ s.ev9.hasReplay 3 = true ∧ s.ev9.chip.trPresent = true
        ∧ ((s.ev9.port 3).waived = w) ∧ (s.ev9.port 3).sleptAt + (if st = .ls2 then 300000 else 15000) ≤ s.ev9.noc.edgeBeat)
    ∧ (∀ ph ∈ [SleepPhase.requested .ls1, .requested .ls2, .cancelled], ((withPort { state := .active, sleepPhase := ph }).ev9.port 3).sleepPhase = ph) := by
  decide +kernel

/-! ## Witnesses: resets, boot and partitions -/

/-- The service island at a boot stage. -/
def atBoot (b : BootStage) : State := { ev9 := { svc := { boot := b } } }

/-- A host that is up, with a waiting image load of tenant 0 and no copy in progress. -/
theorem witness_HostResets :
    (∀ s ∈ [onEv9 (fun e => { e with hif := { up := true, vfEnable := true, numVfs := 1024, deferred := [⟨.ring 0, 1, false, .imageLoad 5, 1⟩] } })
        (withMember { member5 with image := some (imageOf true false) })],
      s.ev9.hostUp = true ∧ s.ev9.hif.vfEnable = true ∧ (Fin.ofNat 1025 1).val = 0 + 1
        ∧ (∀ d ∈ s.ev9.hif.deferred, Carrier.ofTenant 0 d.via = true ∧ d.work = .imageLoad 5))
    ∧ (withCore {}).ev9.hif.deferred = []
    ∧ (∀ s ∈ [onEv9 (fun e => { e with hif := { perst := true }, svc := { e.svc with rails := 0x3F } }) (withCore {})],
      s.ev9.hif.perst = true ∧ s.ev9.svc.rails.getLsbD 4 = true ∧ s.ev9.hif.up = false ∧ s.ev9.inRecovery = false)
    ∧ (withHost .operator (withCore {})).ev9.hostUp = true ∧ (withHost .operator (withCore {})).ev9.hif.vfEnable = false := by decide +kernel

theorem witness_HostResets_noCopyIn (sel : Deferred → Bool) : (withCore {}).ev9.noCopyIn sel := fun _ hd => nomatch hd

theorem witness_BootStages :
    (∀ b ∈ [BootStage.down, .rom, .rails 0, .rails 5, .fll, .selfTest, .complete], (atBoot b).ev9.svc.boot = b ∧ (atBoot b).ev9.svc.vddStby = true)
    ∧ railOf 0 = 5 ∧ railOf 5 = 4 := by decide +kernel

theorem witness_PartitionsMove :
    (∀ s ∈ [withPart { state := .enabling }], s.ev9.up = true ∧ (s.ev9.part 0).state = .enabling ∧ s.ev9.drainPending 0 = false)
    ∧ (∀ s ∈ [withPart { state := .draining }], (s.ev9.part 0).state = .draining ∧ (s.ev9.part 0).fencing = false ∧ (s.ev9.part 0).curl.held = false
      ∧ s.ev9.drained 0 = true ∧ s.ev9.enablePending 0 = false)
    ∧ (∀ s ∈ [onEv9 (fun e => { e with noc := { edgeBeat := 1500 * 100000 } }) (withPart { state := .draining })],
      (s.ev9.part 0).state = .draining ∧ (s.ev9.part 0).drainAt + 1500 * max 1 s.ev9.chip.drainLimit.toNat ≤ s.ev9.noc.edgeBeat)
    ∧ (∀ s ∈ [withPart { state := .on, fencing := true, ports := 8 }], (s.ev9.part 0).fencing = true ∧ (s.ev9.part 0).state ≠ .off
      ∧ (s.ev9.part 0).state ≠ .fenced ∧ s.ev9.noc.bufs = [] ∧ s.ev9.hif.deferred = []
      ∧ ((s.ev9.heldPlaces ((List.range 12).filter fun k => maskBit (s.ev9.part 0).ports k)).map fun h => h.2.2).sum
        + s.ev9.heldAcross 0 + s.ev9.peerFlits 0 [3] = 0)
    ∧ (∀ s ∈ [withPart { state := .fenced }], (s.ev9.part 0).state = .fenced ∧ (s.ev9.part 0).stuck = false ∧ s.ev9.enablePending 0 = false) := by
  decide +kernel

theorem witness_BrakesAndVoltage :
    (withCore {}).ev9.up = true ∧ (withCore {}).ev9.power.brakeSrc = 0 ∧ (withCore {}).ev9.power.brakeSrc &&& 14 = 0 ∧ (4 : BitVec 4) ≠ 0
      ∧ (4 : BitVec 4) &&& 14 ≠ 0
      ∧ (∀ s ∈ [onEv9 (fun e => { e with therm := { brakeCool := 1000 } }) (withCore {})], s.ev9.up = true ∧ 1000 ≤ s.ev9.therm.brakeCool) := by
  decide +kernel

/-- The chip with VDD_CORE rising to the setpoint of pace 7, whatever that is. -/
def risingVdd : State := onEv9 (fun e => { e with power := { vddReached := false, vdd := setpoint false 7 } }) (withCore {})

theorem witness_BrakesAndVoltage_setpoint :
    risingVdd.ev9.power.vddReached = false ∧ risingVdd.ev9.ownPace 0 = true
      ∧ ∀ p, p < 8 → risingVdd.ev9.ownPace p = true → setpoint risingVdd.ev9.chip.strict (risingVdd.ev9.part p).request.val ≤ risingVdd.ev9.power.vdd := by
  refine ⟨by decide +kernel, by decide +kernel, fun p hp ho => ?_⟩
  have h : ∀ p, p < 8 → risingVdd.ev9.ownPace p = true → p = 0 := by decide +kernel
  obtain rfl := h p hp ho
  exact Nat.le_refl _

theorem witness_PowerSamples :
    (withCore {}).ev9.svc.boot = .complete ∧ (withCore {}).ev9.up = true
    ∧ (∀ s ∈ [onEv9 (fun e => { e with power := { overRun := 2 }, therm := { throttle := 70 } }) (withCore {})], 2 ≤ s.ev9.power.overRun
      ∧ s.ev9.svc.boot = .complete ∧ (s.ev9.part 0).powered = true ∧ (s.ev9.part 1).powered = false ∧ s.ev9.therm.throttling = false)
    ∧ (List.replicate 82 (115 : Int)).length = 82 ∧ (∀ x ∈ List.replicate 82 (115 : Int), -128 ≤ x ∧ x ≤ 127) := by decide +kernel

/-! ## Witnesses: the tray -/

/-- The NW8's firmware runs, and slot 0 is `x`. -/
def withSlot (x : TrayCh) : State := { nw8 := { running := true, chans := [(0, x)] } }

theorem witness_SlotsPowerUp :
    State.reset.nw8.inv = true ∧ State.reset.nw8.running = false ∧ State.reset.nw8.hold.kept = false
    ∧ (withSlot { hostOn := true }).nw8.inv = true ∧ (withSlot { hostOn := true }).nw8.mayStart 0 = true
    ∧ (∀ x ∈ [({ state := .inrush } : TrayCh), { state := .on, resetLow := true }, { state := .discharging, offSecs := 5 }, { state := .waitRetry, offSecs := 5 },
        { state := .waitRetry, hostOn := true, lowSecs := some 1 }],
      (withSlot x).nw8.inv = true ∧ (withSlot x).nw8.chan 0 = x ∧ x.hold = false ∧ (withSlot x).nw8.cool.emergency = false
        ∧ (withSlot x).nw8.feedReversed = false ∧ (x.lowSecs = none → x.state = .waitRetry → 5 ≤ x.offSecs))
    ∧ (∀ x ∈ [({ state := .waitRetry, hostOn := true, lowSecs := some 1 } : TrayCh)], x.resolved = true ∧ x.retryMs + 50 * 7 < 1000 * 1 + 1000)
    ∧ 35999 < 36000 := by decide +kernel

theorem witness_SlotsProtect :
    (∀ x ∈ [({ state := .inrush, capAnswered := false } : TrayCh), { state := .on, capAnswered := false }, { state := .blocked }, { state := .latched },
        { state := .on, present := true }, { state := .on, opened := true }],
      (withSlot x).nw8.inv = true ∧ (withSlot x).nw8.chan 0 = x ∧ (withSlot x).nw8.acts = true)
    ∧ (∀ x ∈ [({ state := .on, shedBrake := true, effective := 300, written := 300 } : TrayCh)], (withSlot x).nw8.inv = true
      ∧ (withSlot x).nw8.acts = true ∧ x.shedBrake = true ∧ x.capAnswered = true ∧ x.effective = x.written ∧ 300 ≤ x.effective.toNat)
    ∧ (withSlot {}).nw8.feedReversed = false
    ∧ (onNw8 (fun w => { w with feedReversed := true }) (withSlot {})).nw8.feedReversed = true := by decide +kernel

theorem witness_SwapsRun :
    (∀ x ∈ [({ swap := some 1, state := .on, swapSecs := 600 } : TrayCh), { swap := some 1, swapSecs := 600 }, { swap := some 4 },
        { swap := some 5, hostOn := true }, { swap := some 7, state := .on, upSecs := 30 }, { state := .on }],
      ∀ s ∈ [onNw8 (fun w => { w with deferred := [⟨.nwHost, 9, .swap 0⟩] }) (withSlot x)],
        s.nw8.chan 0 = x ∧ s.nw8.acts = true ∧ s.nw8.deferred = [⟨.nwHost, 9, .swap 0⟩] ∧ x.resetLow = false ∧ x.checked = false
          ∧ (x.swap = some 1 → 600 ≤ x.swapSecs) ∧ (x.swap = some 7 → 30 ≤ x.upSecs))
    ∧ ({ swap := some 5, hostOn := true } : TrayCh).resolved = true ∧ (List.replicate 8 0).length = 8 ∧ (∀ k ∈ List.replicate 8 0, k = 0) := by
  decide +kernel

theorem witness_CoolantAndLamps :
    State.reset.nw8.acts = false
    ∧ (∀ s ∈ [onNw8 (fun w => { w with cool := { reverseSeconds := 5, liveWatts := 200, tr := 300, ts := 310, lowSeconds := 4 } }) (withSlot { state := .on })],
      s.nw8.acts = true ∧ 5 ≤ s.nw8.cool.reverseSeconds ∧ 200 ≤ s.nw8.cool.liveWatts ∧ s.nw8.cool.tr + 10 ≤ s.nw8.cool.ts
        ∧ s.nw8.cool.flowReversed = false ∧ s.nw8.cool.leak = false ∧ s.nw8.cool.pumpFault = false
        ∧ 4 ≤ s.nw8.cool.lowSeconds ∧ derateRaw 600 0 s.nw8.liveCount < 300)
    ∧ (∀ s ∈ [onNw8 (fun w => { w with cool := { reverseSeconds := 5, liveWatts := 200, tr := 300, ts := 300 } }) (withSlot { state := .on })],
      s.nw8.cool.ts ≤ s.nw8.cool.tr ∧ 5 ≤ s.nw8.cool.reverseSeconds ∧ s.nw8.cool.flowReversed = false)
    ∧ (∀ k ∈ [({ emergency := true, alarmSeconds := 10, clearSeconds := 60 } : Coolant), { emergency := true, leak := true, leakSeconds := 2, clearSeconds := 60 }],
      ∀ s ∈ [onNw8 (fun w => { w with cool := k }) (withSlot { state := .on })], s.nw8.cool = k ∧ k.emergency = true ∧ s.nw8.acts = true
        ∧ (10 ≤ k.alarmSeconds ∨ k.leak = true ∧ 2 ≤ k.leakSeconds) ∧ 60 ≤ k.clearSeconds
        ∧ ∀ n, n < 8 → (s.nw8.chan n).state = .latched → (s.nw8.chan n).fault ≠ .coolant)
    ∧ (∀ s ∈ [onNw8 (fun w => { w with fans := [(0, { slowSeconds := 3 })] }) (withSlot { state := .latched })], s.nw8.acts = true
      ∧ 3 ≤ (s.nw8.fan 0).slowSeconds ∧ s.nw8.lampShown 0 ≠ 0 ∧ (s.nw8.lamp 0).short = false)
    ∧ (∀ s ∈ [onNw8 (fun w => { w with locates := [8], locTimed := [(8, 0)] }) (withSlot {})], s.nw8.acts = true
      ∧ tfind s.nw8.locTimed 8 = some 0) := by decide +kernel

theorem witness_HoldDomain :
    (withSlot {}).nw8.running = true ∧ (withSlot {}).nw8.hold.autonomous = false
    ∧ (∀ s ∈ [onNw8 (fun w => { w with hold := { timeMs := 30000 } }) (withSlot {})], s.nw8.acts = true ∧ s.nw8.hold.autonomous = false
      ∧ s.since .nw8 s.nw8.hold.lastKick s.nw8.hold.wdtMs = true ∧ s.since .nw8 (s.nw8.hold.lastCmd.getD 0) s.nw8.hold.autoMs = true)
    ∧ (withSlot {}).pathRole .nwHost = .operator ∧ (withSlot {}).nw8.factoryLow = false ∧ (63 : Word).toNat % 64 = 63
    ∧ (onNw8 (fun w => { w with sessRack := { role := .installer }, factoryLow := true }) (withSlot {})).pathRole .nwRack ≠ .operator
    ∧ (onNw8 (fun w => { w with running := false, hold := { kept := true } }) (withSlot {})).nw8.hold.kept = true := by decide +kernel

theorem witness_TwoWirePorts :
    (∀ p ∈ [TwPort.smb0, .nwHost, .nwRack],
      ∀ s ∈ [{ withCore {} with nw8 := { running := true, host := { news := true }, rackPort := { news := true } } },
          onEv9 (fun e => { e with smb0 := { news := true } }) { withCore {} with nw8 := { running := true, host := { news := true }, rackPort := { news := true } } }],
        s.port2Up p = true ∧ p.session?.isSome = true ∧ (s.port2 p).retry = false ∧ (s.port2 p).notify = true ∧ (p = .smb0 ∨ s.word2 p ≠ 0))
    ∧ (onEv9 (fun e => { e with smb0 := { news := true } }) (withCore {})).word2 .smb0 ≠ 0 ∧ (withCore {}).port2Up .smb1 = true
    ∧ (∀ q ∈ [({ stuck := true } : TwoWire), { stuck := true, ladder := 1 }, { stuck := true, ladder := 4 }, {}],
      ∀ s ∈ [onNw8 (fun w => { w with down := [(0, q)] }) (withSlot { state := .on })], s.nw8.downPort 0 = q ∧ s.nw8.acts = true
        ∧ q.failed = false ∧ q.isLocal = false ∧ (s.nw8.chan 0).state = .on ∧ (s.nw8.chan 0).isolate = false ∧ s.nw8.audit.length < 8192)
    ∧ (0x8000 : BitVec 16).getLsbD 15 = true := by decide +kernel

theorem witness_SessionsAndTestAccess :
    (∀ i ∈ [SessionId.pf, .smb0, .nwHost, .nwRack],
      ∀ x ∈ [({ role := .installer, locked := true, nonce := some 7 } : Session)],
        ∀ s ∈ [({ ev9 := { sessPf := x, sessSmb := x, svc := { timeMs := 900000 } }
                  nw8 := { sessHost := x, sessRack := x, hold := { timeMs := 900000 } } } : State)],
          (s.session i).role ≠ .operator ∧ (s.session i).locked = true ∧ (s.session i).nonce ≠ none
            ∧ s.since (sessChip i) (s.session i).lastMs 900000 = true
            ∧ s.since (sessChip i) ((s.session i).fails.getLastD 0) 600000 = true ∧ s.since (sessChip i) (s.session i).nonceMs 60000 = true)
    ∧ (∀ k ∈ [(0 : BitVec 2), 1, 2], ∀ s ∈ [onEv9 (fun e => { e with dbg := { unlockPf := k } }) (withHost .installer (withCore {}))],
      s.pathUp .pf = true ∧ s.ev9.dbg.unlockPf = k)
    ∧ (255 : Dword).toNat % 4096 < 256 ∧ 256 ≤ (256 : Dword).toNat % 4096
    ∧ (∀ ch ∈ [Chip.ev9, .nw8], ∀ low ∈ [true, false],
      ∀ s ∈ [({ ev9 := { svc := { rails := 0x3F }, dbg := { factoryLow := low } }, nw8 := { factoryLow := low } } : State)],
        s.tapUp ch = true ∧ s.gate ch = low) := by decide +kernel

theorem witness_DbgSelectSetsAPin :
    ∀ k ∈ [(0 : BitVec 2), 2], ∀ s ∈ [({ ev9 := { svc := { rails := 0x3F }, dbg := { unlockSmb := k } } } : State)],
      s.tapUp .ev9 = true ∧ s.ev9.dbg.unlockSmb = k ∧ ((0xFFFF : BitVec 16).extractLsb' 0 3).toNat = 7 := by decide +kernel

/-! ## Witnesses: packets -/

/-- A packet with an opcode, tag 7, a check word and parameters from byte 8 on. -/
def cmd (op : Byte) (check : Nat) (params : List Byte) : Packet := pktOf ([op, 0, 7, 0] ++ leBytes 4 check ++ params)

/-- The packet is next on ring 0 of tenant 0, which holds partition 0 and may hold one stream slot. -/
def onRing0 (p : Packet) (s : State) : State :=
  onEv9 (fun e => { e with hif := { e.hif with
    up := true, rings := [(0, { enable := true, fetched := [p] })], binds := [(0, 1)], quotas := [(0, 2)] } }) s

/-- The packet is next on the management ring, whose session has a role. -/
def onMgmt (r : Role) (p : Packet) (s : State := withCore {}) : State :=
  onEv9 (fun e => { e with hif := { e.hif with rings := [(65536, { enable := true, fetched := [p] })] } }) (withHost r s)

theorem witness_PacketChecks :
    State.reset.packetReady (.ring 0) (cmd 1 0 []) = false
    ∧ (∀ op ∈ [(0x7F : Byte), 1, 2, 0x10, 0x50, 0x80], ∀ check ∈ [0, 1], (onRing0 (cmd op check []) (withCore {})).packetReady (.ring 0) (cmd op check []) = true
      ∧ (cmd op check []).op = op.toNat ∧ (cmd op check []).check = check)
    ∧ (Carrier.ring 0).checkWord = 0 ∧ (withCore {}).ev9.inRecovery = false
    ∧ 4 ≤ (pktOf [1, 4]).byte 1 ∧ (pktOf [1, 4]).check = 0
    ∧ (∀ op ∈ [(1 : Byte), 0x80], (withCore {}).packetReady .smb0 (cmd op 0 []) = true ∧ (cmd op 0 []).check ≠ Carrier.smb0.checkWord)
    ∧ (∀ x ∈ [(0x90, cmd 0x90 0x80000000 [1], [(8, 1)]), (0x88, cmd 0x88 0x80000000 [1, 1], [(8, 2)])],
      Good .mgmt x.2.1 x.1 x.2.2 (onMgmt .operator x.2.1) ∧ x.2.1.byte 8 = 1 ∧ x.2.1.byte 9 ≤ 1
        ∧ (onMgmt .operator x.2.1).role .mgmt = .operator) := by unfold Good; decide +kernel

/-- An image of 256 bytes for one member (R16–R21): directory of two entries at byte 64, member table at 192, cue tree at 224. -/
def smallImage : List Byte :=
  [0x45, 0x4C, 0x56, 0x39, 1, 0, 1, 0] ++ [0, 16, 0, 0, 1, 0, 1, 7] ++ List.replicate 4 0 ++ [2, 0, 0, 0, 64] ++ List.replicate 39 0
    ++ ([9, 0, 0xFF, 0xFF, 0, 0, 0, 0, 192] ++ List.replicate 7 0 ++ [32] ++ List.replicate 47 0)
    ++ ([10, 0, 0xFF, 0xFF, 0, 0, 0, 0, 224] ++ List.replicate 7 0 ++ [32] ++ List.replicate 47 0)
    ++ ([1] ++ List.replicate 15 0 ++ [1, 3, 0, 0, 1] ++ List.replicate 11 0)
    ++ ([1] ++ List.replicate 15 0 ++ [0xFF, 0xFF] ++ List.replicate 14 0)

/-- The member at position 0 of partition 0, not started. -/
def member0 : Member := { position := 0, mask := 1, joined := true }

/-- A load result is a plan whose slot tables fit. -/
def imageFits (e : Ev9) : LoadResult → Bool
  | .ok p => (e.stationConflict p).isNone
  | .bad _ _ => false

theorem test_smallImage : smallImage.length = 256
    ∧ imageFits (withMember member0).ev9 (parseImage smallImage 0 1 (fun _ => false) (fun _ => 0xFFFF)) = true
    ∧ parseImage [] 0 1 (fun _ => false) (fun _ => 0xFFFF) = .bad 0x11 [] := by decide +kernel

/-- A snapshot of step 3. -/
def snap3 : Snap := { step := 3, threads := [], acorns := [], timers := [], handles := [], loops := [], vl := 0, masks := [] }

/-- The cores of partition 0, with snapshots of step 3. -/
def withSnaps (s : State) : State := onEv9 (fun e => { e with cores := (List.range 8).map fun c => (c, { snaps := [snap3] }) }) s

theorem witness_RuntimeCommands_plain :
    (∀ x ∈ [(0x01, cmd 1 0 []), (0x02, cmd 2 0 [])], Good (.ring 0) x.2 x.1 [] (onRing0 x.2 (withCore {})))
    ∧ (onRing0 (cmd 2 0 []) (withCore {})).ev9.awaiting (.ring 0) = []
    ∧ (∀ s ∈ [onEv9 (fun e => { e with hif := { e.hif with deferred := [⟨.ring 0, 1, false, .imageStop 5, 1⟩] } }) (onRing0 (cmd 2 0 []) (withCore {}))],
      Good (.ring 0) (cmd 2 0 []) 2 [] s ∧ s.ev9.awaiting (.ring 0) ≠ [] ∧ (s.ev9.awaiting (.ring 0)).length < 64)
    ∧ Good (.ring 0) (cmd 0x50 0 [0xFF, 0xFF]) 0x50 [(8, 2)] (onRing0 (cmd 0x50 0 [0xFF, 0xFF]) (withCore {}))
    ∧ (cmd 0x50 0 [0xFF, 0xFF]).troupe = 0xFFFF ∧ (cmd 0x50 0 [5]).troupe ≠ 0xFFFF := by unfold Good; decide +kernel

theorem witness_RuntimeCommands_troupe :
    ∀ x ∈ [(0x10, [(8, 2), (16, 16)], cmd 0x10 0 ([5, 0] ++ List.replicate 6 0 ++ [64]), member0),
        (0x11, [(8, 2)], cmd 0x11 0 [5], member0), (0x11, [(8, 2)], cmd 0x11 0 [5], { member0 with image := some (imageOf true false) }),
        (0x12, [(8, 2)], cmd 0x12 0 [5], { member0 with position := 1, image := some { imageOf true false with mode := 1 } }),
        (0x13, [(8, 2)], cmd 0x13 0 [5], { member5 with image := some (imageOf true false) }),
        (0x13, [(8, 2)], cmd 0x13 0 [5], { member5 with run := .stopped, image := some (imageOf true false) }),
        (0x13, [(8, 2)], cmd 0x13 0 [5], { member5 with run := .starting, inStep := false, image := some (imageOf true false) }),
        (0x14, [(8, 2), (16, 6)], cmd 0x14 0 ([5, 0] ++ List.replicate 6 0 ++ [3]), { member5 with lastBegun := some 4, image := some (imageOf true false) }),
        (0x50, [(8, 2)], cmd 0x50 0 [5], member5)],
      ∀ s ∈ [withSnaps (onRing0 x.2.2.1 (withMember x.2.2.2))],
        Good (.ring 0) x.2.2.1 x.1 x.2.1 s ∧ OnTroupe (.ring 0) x.2.2.1 x.2.2.2 s ∧ (s.ev9.awaiting (.ring 0)).length < 64
          ∧ x.2.2.1.field 16 8 % 64 = (if x.1 = 0x14 then 3 else 0) ∧ (∀ p ∈ x.2.2.2.parts, (s.ev9.part p).tier.sealed = false)
          ∧ s.ev9.pendingWork (.imageLoad x.2.2.1.troupe) = false ∧ s.ev9.pendingWork (.imageStart x.2.2.1.troupe) = false
          ∧ s.ev9.pendingWork (.imageStop x.2.2.1.troupe) = false ∧ s.ev9.anyHeld x.2.2.2 = false ∧ x.2.2.2.rerun = none
          ∧ (x.1 = 0x14 → s.ev9.mayRerun x.2.2.2 (x.2.2.1.field 16 6) = true) ∧ x.2.2.2.badStart = none
          ∧ (∀ d ∈ s.ev9.hif.deferred, d.work ≠ .rerun x.2.2.1.troupe) := by unfold Good OnTroupe; decide +kernel

theorem witness_RuntimeCommands_images :
    (imageOf true false).digestsOk = true ∧ (imageOf true false).modeOk false member5 = false
      ∧ ({ imageOf true false with mode := 1 } : Image).modeOk false member5 = true
      ∧ ({ imageOf true false with mode := 1 } : Image).placeOk member5 = true
      ∧ (withMember member5).ev9.hopFault member5 { imageOf true false with mode := 1 } = none
    ∧ (∀ s ∈ [onEv9 (fun e => { e with hif := { deferred := [⟨.ring 0, 1, false, .imageLoad 5, 1⟩] } }) (withMember member0)],
      s.ev9.pendingWork (.imageLoad 5) = true ∧ s.ev9.member? 5 = some member0 ∧ member0.run = .idle
        ∧ imageFits s.ev9 (parseImage smallImage member0.position.toNat member0.mask s.ev9.retired (fun n => (s.ev9.port n).plan)) = true
        ∧ parseImage [] member0.position.toNat member0.mask s.ev9.retired (fun n => (s.ev9.port n).plan) = .bad 0x11 [])
    ∧ (∀ s ∈ [onEv9 (fun e => { e with hif := { deferred := [⟨.ring 0, 1, false, .imageLoad 5, 1⟩] } }) (withMember member5)],
      s.ev9.pendingWork (.imageLoad 5) = true ∧ s.ev9.member? 5 = some member5 ∧ member5.run ≠ .idle)
    ∧ (∀ a ∈ [0x40, scratchAddr 0 0x40],
      ∀ s ∈ [onEv9 (fun e => { e with hif := { deferred := [⟨.ring 0, 1, false, .copyIn (BitVec.ofNat 40 a) 0x1000 64, 0⟩] } }) (withCore {})],
      s.ev9.hif.deferred = [⟨.ring 0, 1, false, .copyIn (BitVec.ofNat 40 a) 0x1000 64, 0⟩] ∧ (BitVec.ofNat 40 a).toNat % 64 = 0 ∧ s.ev9.sealed a = false)
    ∧ placeOf 0x40 = .tier 0 0x40 ∧ placeOf (scratchAddr 0 0x40) = .scratch 0 0x40 := by
  decide +kernel

/-- Bytes 16–23 or 24–31 of a packet, least significant first. -/
def q8 (n : Nat) : List Byte := leBytes 8 n

/-- The idle member of troupe 5, with an image. -/
def atPlan (entry exit : Bool) : Member := { member0 with image := some (imageOf entry exit) }

/-- An open before the step's cut, and one rung in time for the cut that has passed. -/
theorem witness_StreamsAndCopies_open :
    ∀ p ∈ [cmd 0x20 0 ([5, 0, 4] ++ List.replicate 5 0 ++ q8 0x1000)], ∀ late ∈ [false, true],
      ∀ m ∈ [{ atPlan true false with run := if late then .running else .idle, inStep := late, cutDone := late }], ∀ s ∈ [onRing0 p (withMember m)],
      Good (.ring 0) p 0x20 [(8, 3), (16, 8)] s ∧ (s.ev9.awaiting (.ring 0)).length < 64 ∧ OnTroupe (.ring 0) p m s ∧ p.byte 10 = 4
        ∧ p.field 16 8 % 4096 = 0 ∧ m.isEntry = true ∧ m.run ≠ .stopped ∧ s.ev9.slotsHeld 0 < s.ev9.quota 0 ∧ (s.ev9.slot 4095).state = .free
        ∧ m.missedCut ((s.ev9.ring 0).fetchedAt.headD (0, 0)).2 = late ∧ m.entryOf = some ⟨1, true, false, false, 0, 4⟩
        ∧ s.ev9.freeLanes p.troupe.toNat ⟨1, true, false, false, 0, 4⟩ = [0, 1, 2, 3] := by
  unfold Good OnTroupe; decide +kernel

/-- A feed for a lane that starved at the cut that has passed. -/
theorem witness_StreamsAndCopies_lateFeed :
    ∀ p ∈ [cmd 0x21 0 [1, 0, 3, 0]], ∀ m ∈ [{ member5 with cutDone := true }], ∀ g ∈ [({ state := .bound, troupe := 5, count := 1, history := [⟨4, 0, 0, false⟩] } : StreamSlot)],
      ∀ s ∈ [onEv9 (fun e => { e with hif := { e.hif with slots := [(1, g)] } }) (onRing0 p (withMember m))],
        Good (.ring 0) p 0x21 [(8, 4)] s ∧ s.ev9.slot 1 = g ∧ g.tenant.toNat = carrierTenant (.ring 0) ∧ s.ev9.slotClosing 1 = false
          ∧ tailOk g.order g.head.toNat g.tail.toNat (p.field 10 2) = true ∧ s.ev9.member? g.troupe.toNat = some m
          ∧ m.missedCut ((s.ev9.ring 0).fetchedAt.headD (0, 0)).2 = true ∧ g.starvedIn (m.step + 1) = true ∧ g.head ≠ BitVec.ofNat 16 (p.field 10 2) := by
  unfold Good; decide +kernel

theorem witness_StreamsAndCopies_bind :
    ∀ p ∈ [cmd 0x22 0 ([0xFF, 0xFF, 5, 0, 0xFF, 1, 12, 0] ++ q8 0x1000 ++ q8 0x100000001)], ∀ m ∈ [atPlan false true], ∀ s ∈ [onRing0 p (withMember m)],
      Good (.ring 0) p 0x22 [(8, 7), (16, 16)] s ∧ p.field 8 2 = 0xFFFF ∧ s.ev9.usable (collectTroupe p) = some m ∧ s.boundTo (.ring 0) m.parts = true
        ∧ p.field 12 2 < 512 ∧ p.byte 14 = 12 ∧ p.field 16 8 % 4096 = 0 ∧ p.field 28 4 ≠ 0 ∧ m.isExit = true
        ∧ s.ev9.slotsHeld 0 < s.ev9.quota 0 ∧ (s.ev9.slot 4095).state = .free := by
  unfold Good; decide +kernel

/-- A chip without slots has free ones. -/
theorem freeSlots_ne (e : Ev9) (h : (e.slot 4095).state = .free) : e.freeSlots ≠ [] := by
  have : 4095 ∈ e.freeSlots := List.mem_filter.2 ⟨List.mem_range.2 (by decide), by rw [h]; rfl⟩
  exact fun hn => by rw [hn] at this; exact absurd this (List.not_mem_nil)

/-- A tenant's stream slot 1 in a state. -/
def withStream (p : Packet) (g : SlotState) : State :=
  onEv9 (fun e => { e with hif := { e.hif with slots := [(1, { state := g, troupe := 5 })] } }) (onRing0 p (withMember member0))

theorem witness_StreamsAndCopies_slots :
    ∀ x ∈ [((0x21 : Nat), [((8 : Nat), (4 : Nat))], cmd 0x21 0 [1, 0, 3, 0], SlotState.pending), (0x21, [(8, 4)], cmd 0x21 0 [1, 0, 3, 0], .bound),
        (0x22, [(8, 6)], cmd 0x22 0 [1, 0, 0xFF, 0x0F, 15, 0], .collect), (0x23, [(8, 2)], cmd 0x23 0 [1, 0], .bound),
        (0x23, [(8, 2)], cmd 0x23 0 [1, 0], .collect), (0x23, [(8, 2)], cmd 0x23 0 [1, 0], .pending), (0x21, [(8, 4)], cmd 0x21 0 [1, 0, 3, 0], .free),
        (0x23, [(8, 2)], cmd 0x23 0 [1, 0], .free)],
      ∀ s ∈ [withStream x.2.2.1 x.2.2.2],
        Good (.ring 0) x.2.2.1 x.1 x.2.1 s ∧ x.2.2.1.field 8 2 = 1 ∧ (s.ev9.slot 1).state = x.2.2.2 ∧ (s.ev9.slot 1).tenant.toNat = carrierTenant (.ring 0)
          ∧ s.ev9.slotClosing 1 = false ∧ s.ev9.waitPending 1 = false ∧ s.ev9.hif.deferred = [] ∧ (s.ev9.awaiting (.ring 0)).length < 64
          ∧ (x.1 = 0x21 → tailOk (s.ev9.slot 1).order (s.ev9.slot 1).head.toNat (s.ev9.slot 1).tail.toNat (x.2.2.1.field 10 2) = true)
          ∧ (x.1 = 0x22 → 1 ≤ x.2.2.1.field 10 2 ∧ x.2.2.1.field 10 2 ≤ 4095 ∧ x.2.2.1.field 12 2 < 2 ^ (s.ev9.slot 1).order) := by
  unfold Good; decide +kernel

theorem witness_StreamsAndCopies_copies :
    ∀ x ∈ [((0x30 : Nat), cmd 0x30 0 (q8 0x2FFFFC0 ++ q8 0x1000 ++ q8 64)), (0x31, cmd 0x31 0 (q8 0x2FFFFC0 ++ q8 0x1000 ++ q8 64))],
      ∀ sealed ∈ [false, true], ∀ s ∈ [onRing0 x.2 (onPart 0 (fun p => { p with tier := { sealed := sealed } }) (withCore { sealValid := true, sealLimit := 768 }))],
        Good (.ring 0) x.2 x.1 [(8, 24)] s ∧ copyParams x.2 = true ∧ s.ev9.copyPart (x.2.field 8 8) (x.2.field 24 8) = some 0
          ∧ s.boundTo (.ring 0) [0] = true ∧ (s.ev9.awaiting (.ring 0)).length < 64 ∧ (s.ev9.part 0).state ≠ .draining ∧ (s.ev9.part 0).state ≠ .fenced
          ∧ s.ev9.overlapsSeal (x.2.field 8 8) (x.2.field 24 8) = sealed := by unfold Good; decide +kernel

theorem witness_ManagementCommands :
    (∀ x ∈ [(0x80, [], cmd 0x80 0x80000000 []), (0x81, [(8, 1), (16, 16)], cmd 0x81 0x80000000 [1]), (0x82, [], cmd 0x82 0x80000000 []),
        (0xA1, [(8, 1)], cmd 0xA1 0x80000000 [7]), (0xA1, [(8, 1)], cmd 0xA1 0x80000000 [0xFF]), (0xA8, [], cmd 0xA8 0x80000000 []),
        (0xC8, [(8, 1)], cmd 0xC8 0x80000000 [1]), (0xE0, [(8, 1), (12, 4)], cmd 0xE0 0x80000000 [0, 0, 0, 0, 32]),
        (0xE0, [(8, 1), (12, 4), (32, 32)], cmd 0xE0 0x80000000 [1]), (0xE0, [(8, 1)], cmd 0xE0 0x80000000 [2]), (0xE0, [(8, 1)], cmd 0xE0 0x80000000 [3]),
        (0xE0, [(8, 1), (16, 12)], cmd 0xE0 0x80000000 [4]), (0x88, [(8, 2)], cmd 0x88 0x80000000 [1, 1]),
        (0x83, [(56, 8)], cmd 0x83 0x80000000 [])],
      ∀ s ∈ [onEv9 (fun e => { e with svc := { e.svc with fw := { active := true, length := 32 } } }) (onMgmt .installer x.2.2)],
        Good .mgmt x.2.2 x.1 x.2.1 s ∧ (s.ev9.awaiting .mgmt).length < 64 ∧ s.role .mgmt ≠ .operator ∧ s.ev9.dbg.unlockPf = 0
          ∧ (s.session .pf).locked = false ∧ (s.upload .ev9).active = true ∧ (s.upload .ev9).owner = .pf ∧ (s.upload .ev9).committing = false
          ∧ (∃ p, p < 8 ∧ (s.ev9.part p).state ≠ .off) ∧ s.elevates .mgmt x.2.2 = false)
    ∧ (∀ p ∈ [cmd 0x88 0x80000000 [1, 0]], ∀ s ∈ [onEv9 (fun e => { e with parts := [] }) (onMgmt .installer p)], Good .mgmt p 0x88 [(8, 2)] s
      ∧ (∀ k, k < 8 → (s.ev9.part k).state = .off) ∧ s.ev9.chip.strict = false)
    ∧ (∀ p ∈ [cmd 0xC0 0x80000000 [0xFF, 0xFF, 0xFF, 0xFF, 1, 0]], Good .smb0 p 0xC0 [(8, 6)] (withCore {}) ∧ p.byte 12 = 1 ∧ p.byte 13 = 0)
    ∧ (∀ s ∈ [onEv9 (fun e => { e with svc := { e.svc with fw := { committing := true, commitOk := true } } }) (withCore {})],
      s.ev9.svc.fw.committing = true ∧ s.ev9.svc.fw.commitOk = true ∧ s.outbox = [] ∧ s.ev9.hif.deferred = []) := by unfold Good; decide +kernel

/-- A change of mode with the reference clock absent and present. -/
theorem witness_ManagementCommands_mode :
    ∀ tr ∈ [false, true], ∀ p ∈ [cmd 0x88 0x80000000 [1, 1]],
      ∀ s ∈ [onEv9 (fun e => { e with parts := [], chip := { trPresent := tr }, ports := [(3, { state := .down })] }) (onMgmt .installer p)],
        Good .mgmt p 0x88 [(8, 2)] s ∧ p.byte 8 = 1 ∧ p.byte 9 = 1 ∧ (∀ k, k < 8 → (s.ev9.part k).state = .off) ∧ s.role .mgmt ≠ .operator
          ∧ s.ev9.chip.strict = false ∧ s.ev9.chip.trPresent = tr ∧ (s.ev9.port 3).state ≠ .disabled := by unfold Good; decide +kernel

/-! A good elevation and a good key need a MAC over the serial, which no claim may know: the packets below carry the MAC itself. -/

theorem length_leBytes (n v : Nat) : (leBytes n v).length = n := by
  induction n generalizing v <;> simp [leBytes, *]

theorem length_mac (k m : List Byte) : ((hmacSha256 k m).take 16).length = 16 := by
  have h : ∀ x : List Byte, (sha256 x).length = 32 := fun x => by
    unfold sha256 beBytes
    simp only [List.flatMap_cons, List.flatMap_nil, List.length_append, List.length_reverse, length_leBytes, List.length_nil]
  unfold hmacSha256
  rw [List.length_take, h]; rfl

/-- A packet to SMB_0 that carries a MAC after its parameters `l`. -/
def macPkt (op : Byte) (l mac : List Byte) : Packet := ⟨[op, 0, 7, 0, 0, 0, 0, 0x80] ++ l ++ mac ++ List.replicate (40 - l.length) 0⟩

theorem upFrom_8_56 : upFrom 8 56 =
    [8, 9, 10, 11, 12, 13, 14, 15, 16, 17, 18, 19, 20, 21, 22, 23, 24, 25, 26, 27, 28, 29, 30, 31, 32, 33, 34, 35, 
      36, 37, 38, 39, 40, 41, 42, 43, 44, 45, 46, 47, 48, 49, 50, 51, 52, 53, 54, 55, 56, 57, 58, 59, 60, 61, 62, 63] := rfl

theorem macPkt_good (mac : List Byte) (h : mac.length = 16) (s : State) (hs : s.packetReady .smb0 ⟨[]⟩ = true) (hr : s.ev9.inRecovery = false) :
    (∀ p ∈ [macPkt 0x81 [1, 0, 0, 0, 0, 0, 0, 0] mac], Good .smb0 p 0x81 [(8, 1), (16, 16)] s ∧ p.byte 8 = 1 ∧ slice p.bytes 16 16 = mac)
    ∧ (∀ p ∈ [macPkt 0x88 (2 :: List.replicate 39 0) mac], Good .smb0 p 0x88 [(8, 1), (16, 48)] s ∧ p.byte 8 = 2
      ∧ slice p.bytes 16 32 = List.replicate 32 0 ∧ slice p.bytes 48 16 = mac) := by
  match mac, h with
  | [_, _, _, _, _, _, _, _, _, _, _, _, _, _, _, _], _ =>
    refine ⟨fun p hp => ?_, fun p hp => ?_⟩ <;> obtain rfl := List.mem_singleton.1 hp
    · refine ⟨⟨hs, rfl, by simp [Packet.check, Packet.field, fieldAt, slice, leNat, macPkt, Carrier.checkWord], ?_, fun _ => hr⟩, rfl, rfl⟩
      simp [Packet.reservedOk, upFrom_8_56, Packet.byte, byteAt, macPkt]
    · refine ⟨⟨hs, rfl, by simp [Packet.check, Packet.field, fieldAt, slice, leNat, macPkt, Carrier.checkWord], ?_, fun _ => hr⟩, rfl, rfl, rfl⟩
      simp [Packet.reservedOk, upFrom_8_56, Packet.byte, byteAt, macPkt, List.replicate]

/-- An installer's session on SMB_0 that holds a nonce. -/
def nonceHeld : State := onEv9 (fun e => { e with sessSmb := { role := .installer, nonce := some 5 } }) (withCore {})

theorem witness_ManagementCommands_elevates :
    ∃ p, Good .smb0 p 0x81 [(8, 1), (16, 16)] nonceHeld ∧ p.byte 8 = 1 ∧ nonceHeld.elevates .smb0 p = true ∧ (nonceHeld.session .smb0).locked = false := by
  have ⟨hg, hb, hm⟩ := (macPkt_good (elevationMac (nonceHeld.installerKey .ev9) 5 1 (sessCarrier .smb0) .ev9) (length_mac _ _) nonceHeld
    (by decide +kernel) (by decide +kernel)).1 _ (List.mem_singleton.2 rfl)
  have hn : (nonceHeld.session (Carrier.sid .smb0)).nonce = some 5 := by decide +kernel
  have ht : nonceHeld.surelySince Carrier.smb0.chip (nonceHeld.session (Carrier.sid .smb0)).nonceMs 60000 = false := by decide +kernel
  refine ⟨_, hg, hb, ?_, by decide +kernel⟩
  unfold State.elevates
  simp only [hb, hm, hn, ht, if_true, beq_self_eq_true, Bool.true_or, Bool.true_and, Bool.not_false]
  exact beq_self_eq_true _

theorem witness_ManagementCommands_key :
    ∃ p, Good .smb0 p 0x88 [(8, 1), (16, 48)] nonceHeld ∧ p.byte 8 = 2 ∧ nonceHeld.keyMac .ev9 (slice p.bytes 16 32) = slice p.bytes 48 16
      ∧ nonceHeld.role .smb0 ≠ .operator := by
  have ⟨hg, hb, hk, hm⟩ := (macPkt_good _ (length_mac (nonceHeld.installerKey .ev9) (List.replicate 32 0 ++ serialBytes .ev9)) nonceHeld
    (by decide +kernel) (by decide +kernel)).2 _ (List.mem_singleton.2 rfl)
  exact ⟨_, hg, hb, by rw [hk, hm]; rfl, by decide +kernel⟩

/-! ## Witnesses: commands of the board -/

/-- Plan bytes: the neighbour's position, any port, at least x8, level 3. -/
def planBytes : List Byte := leBytes 16 (planTo 7 2).toNat

theorem witness_PartitionCommands :
    (∀ p ∈ [cmd 0x90 0x80000000 [0]], ∀ s ∈ [onMgmt .installer p (withPart {})], Good .mgmt p 0x90 [(8, 1)] s ∧ p.byte 8 = 0 ∧ (s.ev9.awaiting .mgmt).length < 64
      ∧ s.role .mgmt ≠ .operator ∧ (s.ev9.part 0).state = .off ∧ (s.ev9.part 0).stuck = false ∧ s.ev9.enablePending 0 = false ∧ s.ev9.svc.dead 0 = false)
    ∧ (∀ order ∈ [(0 : Byte), 1], ∀ p ∈ [cmd 0x91 0x80000000 [0, order]], ∀ s ∈ [onMgmt .installer p (withPart { state := .on })],
      Good .mgmt p 0x91 [(8, 2)] s ∧ p.byte 8 = 0 ∧ p.byte 9 = order.toNat ∧ (s.ev9.awaiting .mgmt).length < 64 ∧ (s.ev9.part 0).state = .on
        ∧ (s.ev9.part 0).fencing = false ∧ (s.ev9.part 0).curl.held = false ∧ s.ev9.memberOf 0 = none ∧ s.ev9.hif.deferred = [])
    ∧ (∀ x ∈ [((0x92 : Nat), [((8 : Nat), (1 : Nat))], cmd 0x92 0x80000000 [7]), (0xB1, [(8, 1)], cmd 0xB1 0x80000000 [7]), (0xA0, [(8, 2)], cmd 0xA0 0x80000000 [7])],
      Good .mgmt x.2.2 x.1 x.2.1 (onMgmt .operator x.2.2) ∧ x.2.2.byte 8 = 7)
    ∧ (∀ p ∈ [cmd 0xB0 0x80000000 ([11, 7] ++ List.replicate 6 0 ++ planBytes)], ∀ s ∈ [onMgmt .installer p], Good .mgmt p 0xB0 [(8, 2), (16, 16)] s
      ∧ p.byte 8 = 11 ∧ p.byte 9 < 8 ∧ BitVec.ofNat 128 (p.field 16 16) = planTo 7 2 ∧ planOk (planTo 7 2) = true ∧ s.ev9.groupOk 11 (planTo 7 2) = true
      ∧ s.ev9.portMember 11 = none ∧ s.role .mgmt ≠ .operator) := by
  unfold Good; refine ⟨?_, ?_, ?_, ?_⟩ <;> decide +kernel

theorem witness_PartitionCommands_troupe :
    (∀ p ∈ [cmd 0x98 0x80000000 [5, 0, 0xFF, 3, 1]], ∀ s ∈ [onMgmt .operator p (withPart { state := .on, ports := 8 } (withPort { state := .training, plan := planTo 7 2 }))],
      Good .mgmt p 0x98 [(8, 5)] s ∧ p.byte 8 = 5 ∧ p.field 8 2 = 5 ∧ p.field 10 2 = 1023 ∧ maskParts (BitVec.ofNat 8 (p.byte 12)) = [0] ∧ (s.ev9.part 0).state = .on
        ∧ s.ev9.memberOf 0 = none ∧ s.ev9.member? 5 = none ∧ maskBit (s.ev9.part 0).ports 3 = true ∧ planUsed (s.ev9.port 3).plan = true
        ∧ (s.ev9.port 3).state = .training ∧ (∀ k, k < 12 → (s.ev9.port k).state = .training ∨ (s.ev9.port k).state = .disabled)
        ∧ (s.ev9.awaiting .mgmt).length < 64)
    ∧ (∀ p ∈ [cmd 0x98 0x80000000 [5, 0, 0xFF, 3, 1]], ∀ s ∈ [onMgmt .operator p (withPart { state := .on, ports := 8 })],
      Good .mgmt p 0x98 [(8, 5)] s ∧ (s.ev9.part 0).state = .on ∧ s.ev9.memberOf 0 = none ∧ s.ev9.member? 5 = none
        ∧ (∀ k, k < 12 → planUsed (s.ev9.port k).plan = false) ∧ (s.ev9.awaiting .mgmt).length < 64)
    ∧ (∀ p ∈ [cmd 0x99 0x80000000 [5, 0]], Good .mgmt p 0x99 [(8, 2)] (onMgmt .operator p) ∧ (onMgmt .operator p).ev9.member? 5 = none ∧ p.troupe = 5)
    ∧ (∀ st ∈ [PartState.draining, .on], ∀ p ∈ [cmd 0x99 0x80000000 [5, 0]],
      ∀ s ∈ [onMgmt .operator p (withMember { member0 with run := .stopped } (withPart { state := st }))],
      Good .mgmt p 0x99 [(8, 2)] s ∧ s.ev9.member? 5 = some { member0 with run := .stopped } ∧ (s.ev9.part 0).state = st ∧ member0.parts = [0])
    ∧ (∀ r ∈ [RunState.idle, .stopped], ∀ m ∈ [{ member0 with run := r }], ∀ p ∈ [cmd 0x99 0x80000000 [5, 0]], ∀ s ∈ [onMgmt .operator p (withMember m)],
      Good .mgmt p 0x99 [(8, 2)] s ∧ s.ev9.member? 5 = some m ∧ m.run = r ∧ s.ev9.hif.deferred = [] ∧ s.ev9.hif.slots = []) := by
  unfold Good; refine ⟨?_, ?_, ?_, ?_, ?_⟩ <;> decide +kernel

theorem witness_JoinOfAMembersPartition :
    ∀ p ∈ [cmd 0x98 0x80000000 [9, 0, 0xFF, 3, 1]], ∀ s ∈ [onMgmt .operator p (withMember member0)], Good .mgmt p 0x98 [(8, 5)] s ∧ p.field 10 2 < 1024
      ∧ (BitVec.ofNat 8 (p.byte 12)).getLsbD 0 = true ∧ s.ev9.member? 5 = some member0 ∧ member0.mask.getLsbD 0 = true := by
  unfold Good; decide +kernel

theorem witness_TrayCommands_slots :
    ∀ via ∈ [Carrier.nwHost, .nwRack], ∀ x ∈ [({} : TrayCh), { state := .on, hostOn := true }], ∀ order ∈ [(0 : Byte), 1, 2],
      ∀ p ∈ [cmd 0xD0 via.checkWord [1, order]], ∀ s ∈ [withSlot x],
        Good via p 0xD0 [(8, 2)] s ∧ s.nw8.inv = true ∧ s.nw8.hold.kept = false ∧ s.nw8.chan 0 = x ∧ p.byte 8 = 1 ∧ p.byte 9 = order.toNat
          ∧ x.populated = true ∧ x.swap = none ∧ s.nw8.deferred = [] ∧ x.rack ≠ .off ∧ (x.state = .on → x.resolved = true) := by
  unfold Good; decide +kernel

/-- Both sessions of the tray are an installer's. -/
def trayInstaller : State := onNw8 (fun w => { w with sessHost := { role := .installer }, sessRack := { role := .installer } }) (withSlot {})

theorem witness_TrayCommands_caps :
    ∀ via ∈ [Carrier.nwHost, .nwRack], ∀ scope ∈ [(0 : Byte), 3], ∀ p ∈ [cmd 0xA0 via.checkWord [0x2C, 1, scope, 1]],
      Good via p 0xA0 [(8, 4)] trayInstaller ∧ p.byte 10 = scope.toNat ∧ p.byte 11 = 1 ∧ p.field 8 2 = 300 ∧ trayInstaller.role via ≠ .operator
        ∧ trayInstaller.nw8.inv = true := by unfold Good; decide +kernel

theorem witness_TrayCommands_budget :
    ∀ via ∈ [Carrier.nwHost, .nwRack], ∀ scope ∈ [(1 : Byte), 2], ∀ p ∈ [cmd 0xA0 via.checkWord [0xE0, 0x2E, scope]],
      Good via p 0xA0 [(8, 3)] (withSlot {}) ∧ p.byte 10 = scope.toNat ∧ p.field 8 2 = 12000 := by unfold Good; decide +kernel

theorem witness_TrayCommands_panel :
    ∀ via ∈ [Carrier.nwHost, .nwRack], ∀ x ∈ [({} : TrayCh), { state := .discharging }, { state := .on }], ∀ s ∈ [withSlot x],
      ∀ y ∈ [((0xD1 : Nat), [((8 : Nat), (1 : Nat))], cmd 0xD1 via.checkWord [0], (0 : Nat), (0 : Nat)), (0xD4, [(8, 2)], cmd 0xD4 via.checkWord [19, 4], 19, 4),
          (0xD5, [(8, 4)], cmd 0xD5 via.checkWord [8, 0, 5, 0], 8, 0), (0xD5, [(8, 4)], cmd 0xD5 via.checkWord [8, 1, 5, 0], 8, 1),
          (0xD8, [], cmd 0xD8 via.checkWord [], 0, 0)],
        Good via y.2.2.1 y.1 y.2.1 s ∧ y.2.2.1.byte 8 = y.2.2.2.1 ∧ y.2.2.1.byte 9 = y.2.2.2.2 ∧ (s.nw8.chan 0).swap = none := by
  unfold Good; decide +kernel

/-! ## Witnesses: every command -/

/-- A running chip with one command of a thread waiting. -/
def oneWaits : State := { atCtl 0x08 ⟨3, 1, 2, 0, false, 0, 0⟩ with pending := [.add 0 0 ⟨3, 1, 2, 0, false, 0, 0⟩] }

theorem witness_EveryStepKeepsTheInvariant : oneWaits.inv = true ∧ oneWaits.pending ≠ [] ∧ ∃ u, step oneWaits = .next u :=
  ⟨by decide +kernel, by decide, _, rfl⟩

theorem witness_WellFormedCommandsAnswer :
    (Instr.add 0 0 ⟨3, 1, 2, 0, false, 0, 0⟩).wellFormed = true
    ∧ (∀ i ∈ [Instr.add 0 0 ⟨3, 1, 2, 0, false, 1, 0⟩], i.ctl?.isSome = true ∧ i.wellFormed = false) := by decide

theorem witness_CommandsLeaveTheQueue : ∃ u, exec (.add 0 0 ⟨3, 1, 2, 0, false, 0, 0⟩) oneWaits = .next u := ⟨_, rfl⟩

theorem witness_Ev9CommandsLeaveTheNw8 :
    (Instr.add 0 0 ⟨3, 1, 2, 0, false, 0, 0⟩).ofNw8 = false ∧ oneWaits.inv = true ∧ ∃ u, exec (.add 0 0 ⟨3, 1, 2, 0, false, 0, 0⟩) oneWaits = .next u :=
  ⟨rfl, by decide +kernel, _, rfl⟩

theorem witness_DecodeOfEncode :
    (∀ i ∈ [Instr.add 0 0 ⟨3, 1, 2, 0, false, 0, 0⟩], i.wellFormed = true ∧ i.ctl? = some (0x08, 0, 0, ⟨3, 1, 2, 0, false, 0, 0⟩))
    ∧ (∀ i ∈ [Instr.mm 0 0 ⟨0x14, 0x0A, 0x0B, 7, true, 5, 1, 0, 0x40⟩], i.wellFormed = true ∧ i.eng?.isSome = true) := by decide

theorem witness_IntegerElements :
    ∀ op ∈ [(0xE8 : BitVec 8), 0xE9, 0xEA, 0xEC, 0xED], ∀ q ∈ [entryOf op (engOf 3 1 2 9)], q.w.fmt = 9 ∧ q.op = op ∧ 1023 < 1024 := by decide +kernel

theorem witness_Nw8CommandsLeaveTheEv9 :
    Instr.feedReversedClear.ofNw8 = true ∧ State.reset.inv = true ∧ (∀ n f, Instr.feedReversedClear ≠ .recoveryRung n f)
      ∧ ∃ u, exec .feedReversedClear State.reset = .next u := ⟨rfl, by decide, nofun, _, rfl⟩

end Sys2Proof.Tests
end

/-! # TROUPE_JOIN of a partition that belongs to a troupe (R37) -/

namespace Sys2Proof.Machine

open Sys2Proof

/-! ## Members and masks -/

/-- What a table finds at an index is one of its entries. -/
theorem mem_of_tfind {α : Type} {t : Table α} {k : Nat} {v : α} (h : tfind t k = some v) : (k, v) ∈ t := by
  induction t with
  | nil => cases h
  | cons e r ih =>
    obtain ⟨i, w⟩ := e
    by_cases hik : i = k
    · subst hik
      obtain rfl : w = v := by simpa [tfind] using h
      exact List.mem_cons_self
    · have hik' : (i == k) = false := beq_false_of_ne hik
      rw [tfind, hik'] at h
      exact List.mem_cons_of_mem _ (ih h)

/-- A partition in some member's mask belongs to a member (R12). -/
theorem Ev9.memberOf_isSome {e : Ev9} {t p : Nat} {m : Member} (hm : e.member? t = some m) (hp : m.mask.getLsbD p = true) :
    (e.memberOf p).isSome = true :=
  List.find?_isSome.2 ⟨(t, m), mem_of_tfind hm, hp⟩

theorem mem_maskParts {m : BitVec 8} {p : Nat} : p ∈ maskParts m ↔ p < 8 ∧ m.getLsbD p = true := by
  simp [maskParts, maskBit]

/-- A mask with a bit set is not zero. -/
theorem ne_zero_of_getLsbD {n : Nat} {m : BitVec n} {p : Nat} (h : m.getLsbD p = true) : m ≠ 0 := by
  rintro rfl
  simp at h

/-! ## A packet in order is served -/

/-- Every role reaches the operator's (R439). -/
@[simp] theorem operator_atLeast (r : Role) : Role.operator.atLeast r = true :=
  decide_eq_true (Nat.zero_le _)

/-- A packet in order passes checks 1–4 of R314 where its row lets it. -/
theorem Good.packetFault_eq_none {via : Carrier} {pkt : Packet} {op : Nat} {k : PacketRule} {s : State} (h : Good via pkt op k.used s)
    (hmine : k.mine = true) (hallowed : k.allowed = true) (hparams : k.paramsOk = true) (hbound : s.boundTo via k.parts = true)
    (hrole : k.role.atLeast (s.role via) = true) : s.packetFault via pkt k = none := by
  obtain ⟨-, -, hcheck, hreserved, hrec⟩ := h
  have hserved : (via.onEv9 && s.ev9.inRecovery) = false := by
    cases hv : via.onEv9
    · rfl
    · simp [hrec hv]
  simp [State.packetFault, hmine, hallowed, hserved, hcheck, hreserved, hparams, hbound, hrole]

/-- The packet is taken and answered at once: its reply reaches the carrier, and only carriers, sessions and logs change. -/
theorem answer_takePacket (via : Carrier) (pkt : Packet) (st : Nat) (r : List Byte) (s : State) :
    Answered via pkt (BitVec.ofNat 8 st) r s (answer via pkt st r (takePacket via s)) ∧ OnlyCarriers s (answer via pkt st r (takePacket via s)) :=
  ⟨(answered_answer via pkt st r _).of_same (sameCarrier_takePacket via s),
    (onlyCarriers_takePacket via s).trans (onlyCarriers_answer via pkt st r _)⟩

/-- Taking a packet leaves the chip's troupes. -/
@[simp] theorem takePacket_members (via : Carrier) (s : State) : (takePacket via s).ev9.members = s.ev9.members := by
  rw [onlyCarriers_takePacket via s]

@[simp] theorem takePacket_memberOf (via : Carrier) (s : State) (p : Nat) : (takePacket via s).ev9.memberOf p = s.ev9.memberOf p := by
  simp [Ev9.memberOf]

/-! ## TROUPE_JOIN -/

/-- TROUPE_JOIN does not admit partitions of which one belongs to a member (R37). -/
theorem joinable_eq_false {e : Ev9} {ps : List Nat} {p : Nat} (hp : p ∈ ps) (hm : (e.memberOf p).isSome = true) :
    (ps.all fun q => (e.part q).state == .on && (e.memberOf q).isNone) = false :=
  List.all_eq_false.2 ⟨p, hp, by simp [Option.isNone_eq_false_iff.2 hm]⟩

/-- TROUPE_JOIN in order whose mask names a member's partition is answered WRONG_STATE (R37). -/
theorem execTroupeJoin_of_memberOf {pkt : Packet} {s : State} {p : Nat} (hg : Good .mgmt pkt 0x98 [(8, 5)] s) (hpos : pkt.field 10 2 < 1024)
    (hp : p ∈ maskParts (BitVec.ofNat 8 (pkt.byte 12))) (hm : (s.ev9.memberOf p).isSome = true) :
    execTroupeJoin .mgmt pkt s = .next (answer .mgmt pkt stWrongState [] (takePacket .mgmt s)) := by
  have ⟨hready, hop, _⟩ := hg
  have hmask : BitVec.ofNat 8 (pkt.byte 12) ≠ 0 := ne_zero_of_getLsbD (mem_maskParts.1 hp).2
  have hmine : (pkt.op == 0x98) = true := beq_iff_eq.2 hop
  have hparams : (decide (pkt.field 10 2 < 1024) && BitVec.ofNat 8 (pkt.byte 12) != 0) = true :=
    Bool.and_eq_true_iff.2 ⟨decide_eq_true hpos, bne_iff_ne.2 hmask⟩
  have hrefused := joinable_eq_false (e := (takePacket .mgmt s).ev9) hp (by rwa [takePacket_memberOf])
  unfold execTroupeJoin
  rw [servePacket_good hready hmine]
  · simp only [hrefused, Bool.false_and, Bool.false_eq_true, if_false]
  · rw [packetFault_takePacket]
    exact hg.packetFault_eq_none hmine rfl hparams rfl (operator_atLeast _)

/-- Settles O60: a member holds the named partition, so TROUPE_JOIN's admission fails and its one reply is WRONG_STATE. -/
theorem joinOfAMembersPartition : Obligations.JoinOfAMembersPartition := by
  unfold Obligations.JoinOfAMembersPartition
  rintro pkt s p hg hpos hp hbit ⟨t, m, hm, hmbit⟩
  exact ⟨_, execTroupeJoin_of_memberOf hg hpos (mem_maskParts.2 ⟨hp, hbit⟩) (Ev9.memberOf_isSome hm hmbit),
    answer_takePacket .mgmt pkt stWrongState [] s⟩

end Sys2Proof.Machine

/-! # Flow of control: NOP, HALT, BR and LOOP (R191, R192, R219) -/

namespace Sys2Proof.Machine

open Sys2Proof

/-! ## A control instruction that executes -/

/-- The state that a control instruction's body answers is the one after the command. -/
theorem Runs.of_controlOp {i : Instr} {op : Nat} {c : CoreId} {t : ThreadId} {w : Ctl} {body : State → State} {s : State} {P : State → Prop}
    (hexec : exec i s = controlOp op c t w body s) (h : Executes op c t w s) (hP : P (body s)) : Runs i s P :=
  ⟨body s, hexec.trans (controlOp_executes body h), hP⟩

theorem exec_br (c : CoreId) (t : ThreadId) (w : Ctl) (s : State) : exec (.br c t w) s = execBr c t w s := rfl
theorem exec_loop (c : CoreId) (t : ThreadId) (w : Ctl) (s : State) : exec (.loop c t w) s = execLoop c t w s := rfl

/-- A change of the thread that has issued leaves all but that thread as the issue left it. -/
theorem issuedOn_onThread {n : Nat} {c : CoreId} {t : ThreadId} {s u : State} {th : Thread} (f : Thread → Thread)
    (h : OnlyCore c s u ∧ IssuedOn n t (u.ev9.core c) (s.ev9.core c) th) :
    OnlyCore c s (onThread c t f u) ∧ IssuedOn n t ((onThread c t f u).ev9.core c) (s.ev9.core c) (f th) := by
  obtain ⟨⟨hstate, hcores⟩, hcore, hothers, hthread⟩ := h
  have hnow : (onThread c t f u).ev9.core c = (u.ev9.core c).onThread t f := Ev9.onCore_core_same _ _ _
  refine ⟨⟨?_, fun k hk => ?_⟩, ?_⟩
  · rw [hstate]
    rfl
  · exact (Ev9.onCore_core_other _ _ hk).trans (hcores k hk)
  · rw [hnow]
    refine ⟨?_, fun k hk => ?_, ?_⟩
    · rw [hcore]
      rfl
    · exact (Core.onThread_thread_other _ _ hk).trans (hothers k hk)
    · rw [Core.onThread_thread_same, hthread]

/-! ## A taken branch -/

/-- The branch target is the low 13 bits of the immediate (R191). -/
theorem ctlTarget_eq_ofNat (w : Ctl) : ctlTarget w = BitVec.ofNat 13 w.imm.toNat := (BitVec.ofNat_toNat 13 w.imm).symm

/-- A thread that has issued and takes a branch stands at the target, two beats from its next issue (R192). -/
theorem issuedOn_branch {n : Nat} {c : CoreId} {t : ThreadId} {s u : State} {r : ThreadRegs} (target : BitVec 13) (h : Issued n c t s u r) :
    OnlyCore c s (branchGap c t (onRegs c t (fun r => { r with pc := target }) u))
      ∧ IssuedOn n t ((branchGap c t (onRegs c t (fun r => { r with pc := target }) u)).ev9.core c) (s.ev9.core c)
        { ((s.ev9.core c).thread t).at { r with pc := target } with gap := 2 } :=
  issuedOn_onThread (fun th => { th with gap := 2 }) (issuedOn_onThread (Thread.onRegs fun r => { r with pc := target }) h)

/-! ## LOOP -/

/-- A counter that falls by 1 reaches zero from 1 alone; from 0 it wraps (R219). -/
theorem sub_one_eq_zero_iff (x : Dword) : x - 1 = 0 ↔ x = 1 := by bv_omega

/-- The registers of a LOOP that goes on at `pc`: g[i] has fallen by 1 (R191). -/
def ThreadRegs.countDown (i : BitVec 5) (pc : BitVec 13) (r : ThreadRegs) : ThreadRegs :=
  { r with g := (r.setG i (r.gr i - 1)).g, pc := pc }

/-- LOOP's write of g[dst], by a thread whose program counter has moved on. -/
theorem ThreadRegs.setG_sub_one_withPc (i : BitVec 5) (pc : BitVec 13) (r : ThreadRegs) :
    ThreadRegs.setG i (r.gr i - 1) { r with pc := pc } = r.countDown i pc := by
  unfold ThreadRegs.countDown ThreadRegs.setG
  split <;> rfl

theorem ThreadRegs.countDown_gr_eq_setG_gr (i j : BitVec 5) (pc : BitVec 13) (r : ThreadRegs) :
    (r.countDown i pc).gr j = (r.setG i (r.gr i - 1)).gr j := rfl

theorem ThreadRegs.countDown_gr_same (i : BitVec 5) (pc : BitVec 13) (r : ThreadRegs) :
    (r.countDown i pc).gr i = if i = 0 then 0 else r.gr i - 1 := by
  rw [countDown_gr_eq_setG_gr, setG_gr, if_pos rfl]

theorem ThreadRegs.countDown_gr_other {i j : BitVec 5} (pc : BitVec 13) (r : ThreadRegs) (h : j ≠ i) :
    (r.countDown i pc).gr j = r.gr j := by
  rw [countDown_gr_eq_setG_gr, setG_gr, if_neg h]

/-- LOOP's issue and its write of g[dst], before it branches or does not. -/
theorem issued_countDown (c : CoreId) (t : ThreadId) (i : BitVec 5) (s : State) :
    Issued 1 c t s (onRegs c t (fun r => r.setG i ((s.regs c t).gr i - 1)) (issued c t 1 s))
      ((s.regs c t).countDown i ((s.regs c t).pc + 1)) := by
  rw [← ThreadRegs.setG_sub_one_withPc]
  exact issued_onRegs c t _ 1 s

/-- A LOOP whose counter holds 1 ends: its thread stands at the next word (R191). -/
theorem loop_runs_of_eq_one {c : CoreId} {t : ThreadId} {w : Ctl} {s : State} (h : Executes 0x31 c t w s) (hone : (s.regs c t).gr w.dst = 1) :
    Runs (.loop c t w) s fun u => Issued 1 c t s u ((s.regs c t).countDown w.dst ((s.regs c t).pc + 1)) := by
  refine Runs.of_controlOp (exec_loop c t w s) h ?_
  rw [if_pos ((sub_one_eq_zero_iff _).2 hone)]
  exact issued_countDown c t w.dst s

/-- A LOOP whose counter does not hold 1, and so does not fall to zero, branches: 0 wraps to 2^64 − 1 (R191, R219). -/
theorem loop_runs_of_ne_one {c : CoreId} {t : ThreadId} {w : Ctl} {s : State} (h : Executes 0x31 c t w s) (hone : (s.regs c t).gr w.dst ≠ 1) :
    Runs (.loop c t w) s fun u => OnlyCore c s u ∧ IssuedOn 1 t (u.ev9.core c) (s.ev9.core c)
      { ((s.ev9.core c).thread t).at ((s.regs c t).countDown w.dst (ctlTarget w)) with gap := 2 } := by
  refine Runs.of_controlOp (exec_loop c t w s) h ?_
  rw [if_neg (mt (sub_one_eq_zero_iff _).1 hone)]
  exact issuedOn_branch (ctlTarget w) (issued_countDown c t w.dst s)

/-- LOOP counts down, and goes on at the next word or, two beats from its next issue, at the target (R191, R192, R219). -/
theorem loop_runs {c : CoreId} {t : ThreadId} {w : Ctl} {s : State} (h : Executes 0x31 c t w s) :
    Runs (.loop c t w) s fun u => OnlyCore c s u ∧ IssuedOn 1 t (u.ev9.core c) (s.ev9.core c)
      { ((s.ev9.core c).thread t).at ((s.regs c t).countDown w.dst
          (if (s.regs c t).gr w.dst = 1 then (s.regs c t).pc + 1 else ctlTarget w)) with
        gap := if (s.regs c t).gr w.dst = 1 then ((s.ev9.core c).thread t).gap else 2 } := by
  by_cases hone : (s.regs c t).gr w.dst = 1
  · simp only [if_pos hone]
    exact loop_runs_of_eq_one h hone
  · simp only [if_neg hone]
    exact loop_runs_of_ne_one h hone

/-- Settles O15: NOP and HALT are register operations, BR is an issue and a branch, and LOOP counts down and branches unless its counter held 1. -/
theorem flowOfControl : Obligations.FlowOfControl := by
  unfold Obligations.FlowOfControl
  rintro c t w s r rfl
  rw [← ctlTarget_eq_ofNat]
  refine ⟨fun hnop => ?_, fun hhalt => ?_, fun hbr => ?_, fun hloop => ?_⟩
  · exact regOp_runs id hnop
  · exact regOp_runs (fun r => { r with state := .halted }) hhalt
  · have hbranch := issuedOn_branch (ctlTarget w) (issued_issued c t 1 s)
    exact Runs.of_controlOp (exec_br c t w s) hbr hbranch
  · obtain ⟨u, hexec, hcore, hissued⟩ := loop_runs hloop
    exact ⟨u, hexec, _, hcore, hissued, ThreadRegs.countDown_gr_same _ _ _, fun _ => ThreadRegs.countDown_gr_other _ _, rfl⟩

end Sys2Proof.Machine

/-! # DBG_SELECT: a peek selection through the test access port (R512, R513) -/

namespace Sys2Proof.Machine

open Sys2Proof

/-! ## The audit log and the debug registers -/

@[simp] theorem auditEv9_ev9 (a : AuditArgs) (s : State) : (auditEv9 a s).ev9 = s.ev9.onSvc (Svc.addAudit a) := callSmb_ev9 _ _
@[simp] theorem auditEv9_nw8 (a : AuditArgs) (s : State) : (auditEv9 a s).nw8 = s.nw8 := callSmb_nw8 _ _

/-- The entry just written stands at the end of the EV9's log (R453), also where it displaced the oldest (R454). -/
theorem audited_auditEv9 (a : AuditArgs) (s : State) (hkind : a.kind < 2 ^ 8) (hstatus : a.status < 2 ^ 8) (hwhat : a.what < 2 ^ 32) :
    Audited a.kind a.status a.what (auditEv9 a s) := by
  refine ⟨mkAudit s.ev9.svc.timeMs s.ev9.svc.auditSeq a, ?_, ?_, ?_, ?_⟩
  · simp [Svc.addAudit]
  · exact Nat.mod_eq_of_lt hkind
  · exact Nat.mod_eq_of_lt hstatus
  · exact Nat.mod_eq_of_lt hwhat

@[simp] theorem onDbg_dbg (f : Debug → Debug) (s : State) : (onDbg f s).ev9.dbg = f s.ev9.dbg := rfl
@[simp] theorem onDbg_parts (f : Debug → Debug) (s : State) : (onDbg f s).ev9.parts = s.ev9.parts := rfl
@[simp] theorem onDbg_nw8 (f : Debug → Debug) (s : State) : (onDbg f s).nw8 = s.nw8 := rfl

/-! ## An instruction in force on the EV9's port -/

@[simp] theorem loadIr_ev9_parts (code : Nat) (b : Option Boundary) (s : State) : (loadIr .ev9 code b s).ev9.parts = s.ev9.parts := rfl
@[simp] theorem loadIr_ev9_nw8 (code : Nat) (b : Option Boundary) (s : State) : (loadIr .ev9 code b s).nw8 = s.nw8 := rfl
@[simp] theorem loadIr_ev9_sel (code : Nat) (b : Option Boundary) (s : State) : (loadIr .ev9 code b s).ev9.dbg.sel = s.ev9.dbg.sel := rfl
@[simp] theorem loadIr_ev9_changes (code : Nat) (b : Option Boundary) (s : State) :
    (loadIr .ev9 code b s).ev9.dbg.changes = s.ev9.dbg.changes := rfl
@[simp] theorem loadIr_ev9_peek (code : Nat) (b : Option Boundary) (s : State) (k : Nat) :
    (loadIr .ev9 code b s).ev9.dbg.peek k = s.ev9.dbg.peek k := rfl

/-- Loading an instruction keeps the unlock of SMB_0's session, under which carrier 1 selects (R512). -/
theorem loadIr_ev9_unlock_one (code : Nat) (b : Option Boundary) (s : State) :
    (loadIr .ev9 code b s).ev9.unlock 1 = s.ev9.dbg.unlockSmb.toNat := rfl

/-! ## A selection that is taken or denied -/

/-- The full set holds every index (R511). -/
@[simp] theorem inSet_two (index : Nat) : inSet 2 index = true := rfl
/-- A locked carrier has no set. -/
@[simp] theorem inSet_zero (index : Nat) : inSet 0 index = false := rfl

/-- The debug registers once pin `n` has taken selection `x`: the change is counted. -/
def Debug.select (n : Nat) (x : PeekSel) (d : Debug) : Debug := { d with sel := tput {} d.sel n x, changes := satAdd d.changes 1 }

@[simp] theorem Debug.select_changes (n : Nat) (x : PeekSel) (d : Debug) : (d.select n x).changes = satAdd d.changes 1 := rfl
@[simp] theorem Debug.select_peek_same (n : Nat) (x : PeekSel) (d : Debug) : (d.select n x).peek n = x := tget_tput_same _ _ _ _
theorem Debug.select_peek_other {n k : Nat} (x : PeekSel) (d : Debug) (h : k ≠ n) : (d.select n x).peek k = d.peek k :=
  tget_tput_other _ _ _ h

section
variable {carrier n index : Nat} {s : State} (enable : Bool) (value : Nat)

theorem selectPeek_dbg (hset : inSet (s.ev9.unlock carrier) index = true) :
    (selectPeek carrier n index enable value s).ev9.dbg = s.ev9.dbg.select n ⟨BitVec.ofNat 12 index, enable, BitVec.ofNat 2 carrier⟩ := by
  simp [selectPeek, hset, Debug.select]

theorem selectPeek_dbg_of_not_inSet (hset : inSet (s.ev9.unlock carrier) index = false) :
    (selectPeek carrier n index enable value s).ev9.dbg = s.ev9.dbg := by
  simp [selectPeek, hset]

/-- A selection that is taken is recorded as kind 5 (R512). -/
theorem audited_selectPeek (hset : inSet (s.ev9.unlock carrier) index = true) (hn : 8 * n < 2 ^ 32) :
    Audited 5 0 (8 * n) (selectPeek carrier n index enable value s) := by
  unfold selectPeek
  rw [if_pos hset]
  exact audited_auditEv9 _ _ (by simp) (by simp) hn

/-- A selection outside the unlocked set is recorded as a denied attempt (R512). -/
theorem audited_selectPeek_of_not_inSet (hset : inSet (s.ev9.unlock carrier) index = false) (hn : 8 * n < 2 ^ 32) :
    Audited 4 0x12 (8 * n) (selectPeek carrier n index enable value s) := by
  unfold selectPeek
  rw [if_neg (Bool.eq_false_iff.1 hset)]
  exact audited_auditEv9 _ _ (by simp) (by simp [stNotPermitted]) hn

end

@[simp] theorem selectPeek_parts (carrier n index : Nat) (enable : Bool) (value : Nat) (s : State) :
    (selectPeek carrier n index enable value s).ev9.parts = s.ev9.parts := by
  unfold selectPeek; dsimp only; split <;> simp

@[simp] theorem selectPeek_nw8 (carrier n index : Nat) (enable : Bool) (value : Nat) (s : State) :
    (selectPeek carrier n index enable value s).nw8 = s.nw8 := by
  unfold selectPeek; dsimp only; split <;> simp

/-! ## DBG_SELECT -/

/-- An Update-DR of DBG_SELECT is carrier 1's selection of the pin, index and enable bit that R513 places in the register. -/
theorem exec_dbgSelect (v : BitVec 16) {s : State} (hup : s.tapUp .ev9 = true) :
    exec (.dbgSelect v) s = .next (selectPeek 1 (v.extractLsb' 0 3).toNat (v.extractLsb' 3 12).toNat (v.getLsbD 15) v.toNat
      (loadIr .ev9 0x20 none s)) := by
  have hpin : (v.extractLsb' 0 3).toNat = v.toNat % 8 := by simp
  have hindex : (v.extractLsb' 3 12).toNat = v.toNat / 8 % 4096 := by simp [Nat.shiftRight_eq_div_pow]
  rw [hpin, hindex]
  show execDbgSelect v s = _
  simp [execDbgSelect, hup]

/-- Settles O53: the Update-DR is one selection by carrier 1; the full set holds every index, and a locked carrier has no set. -/
theorem dbgSelectSetsAPin : Obligations.DbgSelectSetsAPin := by
  unfold Obligations.DbgSelectSetsAPin
  rintro v s n hup rfl
  have hn : 8 * (v.extractLsb' 0 3).toNat < 2 ^ 32 := by have := (v.extractLsb' 0 3).isLt; omega
  refine ⟨fun hfull => ⟨_, exec_dbgSelect v hup, ?_⟩, fun hnone => ⟨_, exec_dbgSelect v hup, ?_⟩⟩
  · have hset : inSet ((loadIr .ev9 0x20 none s).ev9.unlock 1) (v.extractLsb' 3 12).toNat = true := by
      rw [loadIr_ev9_unlock_one, hfull]; exact inSet_two _
    have hdbg := selectPeek_dbg (n := (v.extractLsb' 0 3).toNat) (v.getLsbD 15) v.toNat hset
    refine ⟨?_, fun k hk => ?_, audited_selectPeek _ _ hset hn, ?_, by simp, by simp⟩
    · rw [hdbg, Debug.select_peek_same, BitVec.ofNat_toNat, BitVec.setWidth_eq]; rfl
    · rw [hdbg, Debug.select_peek_other _ _ hk, loadIr_ev9_peek]
    · rw [hdbg, Debug.select_changes, loadIr_ev9_changes]
  · have hset : inSet ((loadIr .ev9 0x20 none s).ev9.unlock 1) (v.extractLsb' 3 12).toNat = false := by
      rw [loadIr_ev9_unlock_one, hnone]; exact inSet_zero _
    have hdbg := selectPeek_dbg_of_not_inSet (n := (v.extractLsb' 0 3).toNat) (v.getLsbD 15) v.toNat hset
    refine ⟨?_, ?_, audited_selectPeek_of_not_inSet _ _ hset hn, by simp, by simp⟩
    · rw [hdbg, loadIr_ev9_sel]
    · rw [hdbg, loadIr_ev9_changes]

end Sys2Proof.Machine
